-- ==== Sys2Proof/Word.lean ====
section
/-!
DEFINITION. Word.lean: the words of the machine (02 R22, 03 R41) and the plain arithmetic on them.
-/
namespace Sys2Proof

/-- One byte of storage. -/
abbrev Byte := BitVec 8
/-- A 32-bit register (06 R97). -/
abbrev Word := BitVec 32
/-- A 64-bit value, held in an even-odd pair of registers (03 R42). -/
abbrev DWord := BitVec 64
/-- One instruction word (02 R22). -/
abbrev IWord := BitVec 96

/-- The 64-bit value whose halves are `lo` and `hi` (03 R42). -/
def pairOf (lo hi : Word) : DWord := hi ++ lo

/-- The even half of a 64-bit value. -/
def loHalf (d : DWord) : Word := d.extractLsb' 0 32

/-- The odd half of a 64-bit value. -/
def hiHalf (d : DWord) : Word := d.extractLsb' 32 32

end Sys2Proof
end

