-- ==== Sys2Proof/Fields.lean ====
section
/-!
DEFINITION. Fields.lean: the fields of instruction words (02) and the records that events carry (10, 14, 21, 22).
-/
namespace Sys2Proof

/-- The operand types of 02 R32 (code 0xF is reserved and has no constructor). -/
inductive Ty where
  | b32 | i8 | n8 | i16 | n16 | i32 | n32 | i64 | n64 | f32 | f16x2 | bf16x2 | f16 | bf16 | b64
  deriving DecidableEq, Repr

/-- The TY code of a type (02 R32). -/
def Ty.code : Ty → BitVec 4
  | .b32 => 0x0 | .i8 => 0x1 | .n8 => 0x2 | .i16 => 0x3 | .n16 => 0x4 | .i32 => 0x5 | .n32 => 0x6
  | .i64 => 0x7 | .n64 => 0x8 | .f32 => 0x9 | .f16x2 => 0xA | .bf16x2 => 0xB | .f16 => 0xC
  | .bf16 => 0xD | .b64 => 0xE

/-- The type of a TY code; none for the reserved code 0xF (02 R32). -/
def Ty.ofCode (c : BitVec 4) : Option Ty :=
  match c.toNat with
  | 0x0 => some .b32 | 0x1 => some .i8 | 0x2 => some .n8 | 0x3 => some .i16 | 0x4 => some .n16
  | 0x5 => some .i32 | 0x6 => some .n32 | 0x7 => some .i64 | 0x8 => some .n64 | 0x9 => some .f32
  | 0xA => some .f16x2 | 0xB => some .bf16x2 | 0xC => some .f16 | 0xD => some .bf16
  | 0xE => some .b64 | _ => none

/-- The width in bits of a type (02 R32). -/
def Ty.width : Ty → Nat
  | .i8 | .n8 => 8
  | .i16 | .n16 | .f16 | .bf16 => 16
  | .b32 | .i32 | .n32 | .f32 | .f16x2 | .bf16x2 => 32
  | .i64 | .n64 | .b64 => 64

/-- Whether a type is signed two's complement (03 R41). -/
def Ty.signed : Ty → Bool
  | .i8 | .i16 | .i32 | .i64 => true
  | _ => false

/-- An operand field (02 R28); reserved encodings have no constructor. -/
inductive Opnd where
  | v (n : BitVec 8)      -- vector register
  | s (n : BitVec 7)      -- uniform register
  | sp (n : BitVec 6)     -- special register
  | slot (n : BitVec 3)   -- parameter slot of a control-store sequence
  | p (n : BitVec 3)      -- predicate
  | imm (i : BitVec 8)    -- inline signed immediate
  | lit                   -- the value of IMM32
  deriving DecidableEq, Repr

/-- The 10-bit encoding of an operand (02 R28). -/
def Opnd.bits : Opnd → BitVec 10
  | .v n => 0b00#2 ++ n
  | .s n => 0b010#3 ++ n
  | .sp n => 0b0110#4 ++ n
  | .slot n => 0b0111000#7 ++ n
  | .p n => 0b0111001#7 ++ n
  | .imm i => 0b10#2 ++ i
  | .lit => 0b1100000000#10

/-- The operand of a 10-bit encoding; none where the encoding is reserved (02 R28). -/
def Opnd.ofBits (b : BitVec 10) : Option Opnd :=
  if b.extractLsb' 8 2 = 0b00#2 then some (.v (b.extractLsb' 0 8))
  else if b.extractLsb' 8 2 = 0b10#2 then some (.imm (b.extractLsb' 0 8))
  else if b.extractLsb' 7 3 = 0b010#3 then some (.s (b.extractLsb' 0 7))
  else if b.extractLsb' 6 4 = 0b0110#4 then some (.sp (b.extractLsb' 0 6))
  else if b.extractLsb' 3 7 = 0b0111000#7 then some (.slot (b.extractLsb' 0 3))
  else if b.extractLsb' 3 7 = 0b0111001#7 then some (.p (b.extractLsb' 0 3))
  else if b = 0b1100000000#10 then some .lit
  else none

/-- The fields every instruction word has beside its opcode and operands (02 R23 to R25). -/
structure Hdr where
  look : BitVec 4   -- lookahead count
  neg  : Bool       -- the guard is negated
  pred : BitVec 3   -- predicate of the guard
  nf   : Bool       -- suppress flag updates
  yld  : Bool       -- yield hint
  ru   : BitVec 2   -- operand-reuse hint
  deriving DecidableEq, Repr

/-- The header of an unguarded instruction without hints. -/
def Hdr.plain : Hdr := { look := 0, neg := false, pred := 7, nf := false, yld := false, ru := 0 }

/-- The memory modifier word X[31:20] (02 R34). -/
structure MemW where
  scope : BitVec 3   -- AS: 0 group, 1 core, 2 cluster, 3 die, 4 device, 5 system
  ss    : BitVec 4   -- SS: bit 0 scratchpad, 1 global, 2 far, 3 host
  ord   : BitVec 2   -- ORD: 0 relaxed, 1 acquire, 2 release, 3 acquire-release
  rpro  : Bool       -- remote promotion
  ch    : BitVec 2   -- cache hint
  deriving DecidableEq, Repr

/-- A link packet (22 R363): the fields of its header, its data, and its ICRC. -/
structure Packet where
  ver : Nat
  type : Nat          -- 0 REQ, 1 RESP, 2 ACK, 3 NAK
  srcDev : Nat
  dstDev : Nat
  sEpoch : Nat
  dEpoch : Nat
  ch : Nat
  op : Nat
  last : Bool
  retx : Bool
  dir : Nat
  psn : Nat
  opsn : Nat
  chunk : Nat
  exp : Nat
  offset : Nat
  sub : Nat
  ty : Nat
  ord : Nat
  scope : Nat
  reason : Nat
  credit : Nat
  rz : Nat            -- the reserved bits [232], [71:64] and [31:0], from the top
  data : List Byte
  icrc : Nat
  deriving DecidableEq, Repr

/-- One sample of the monitors (01 R17, R18): whole degrees; voltage deviations in tenths of a percent;
package power averaged over 1 ms in watts. -/
structure Sample where
  dieTemp : List Nat      -- highest junction temperature of each compute die
  ioTemp : Nat
  dieVolt : List Nat      -- largest deviation of a supply of each compute die, in 0.1 %
  ioVolt : Nat
  power : Nat
  deriving DecidableEq, Repr

/-- A region of a context (14 R238). -/
structure Region where
  base : Nat
  len : Nat
  r : Bool
  w : Bool
  staged : Bool
  prop : Bool       -- the region contains a PROP page (22 R358)
  repl : List Nat   -- the copies' bases where the region lies in REPL pages (10 R173)
  gen : Nat
  deriving DecidableEq, Repr

/-- An entry of a context's export table (22 R365). -/
structure ExportEntry where
  handle : Nat      -- local region handle
  r : Bool
  w : Bool
  a : Bool
  s : Bool
  src : Nat         -- permitted source device, 0xFFFFF for any
  deriving DecidableEq, Repr

/-- An entry of a partition's peer table (22 R362, R363). -/
structure Peer where
  addr : Nat        -- IPv6 destination address
  tclass : Nat
  flow : Nat
  die : Nat         -- destination die
  deriving DecidableEq, Repr

/-- The parameters firmware may set for a partition through the monitor (21 R346). -/
structure PartParams where
  lbound : Nat        -- L in ns (17 R272)
  polite : Nat        -- polite window in ns (18 R307)
  killTimeout : Nat   -- in ns (18 R308)
  eligible : Nat      -- ns a queue is mapped before it may be displaced (21 R342)
  ageStep : Nat       -- ns of one ageing step (21 R342)
  pageOut : Nat       -- ns before a queue is paged out (21 R344)
  deriving DecidableEq, Repr

/-- What the monitor sets up for a partition (22 R350, R351, R357, R363), with the event ring that the driver names (21 R349, log 103). -/
structure PartSetup where
  dies : List Nat
  weights : List Nat      -- host port, far-memory port, Hearths, Mladroth links
  far : List Nat          -- 1 GiB units of far memory: unit u at offset u GiB of physical space 1 (log 104)
  udpPort : Option Nat    -- none for the default
  ring : Nat              -- host-physical address of the event ring
  ringLen : Nat           -- its records
  table : Nat             -- physical address of the firmware's state table, and its bytes (21 R348, log 78)
  tableLen : Nat
  deriving DecidableEq, Repr

/-- The UDP destination port of a partition's link packets: 0xB5E4 by default (22 R363). -/
def PartSetup.port (c : PartSetup) : Nat := c.udpPort.getD 0xB5E4

/-- A user queue as the driver creates it (21 R337). -/
structure QueueSpec where
  qcb : Nat         -- physical address of the QCB
  wptr : DWord
  ctx : Nat
  prio : Nat
  logn : Nat
  base : DWord
  deriving DecidableEq, Repr

end Sys2Proof
end

