-- ==== Sys2Proof/Syntax.lean ====
section
/-!
DEFINITION. Syntax.lean: every row of the opcode table as a constructor: the 149 instruction forms of
02 R37, then the 86 events of the device.
-/
namespace Sys2Proof

/-- One constructor per row of the opcode table. An instruction carries its header `h` (02 R23) and the fields its
entry uses; an event carries the numbers of the units it concerns and what its agent supplies. -/
inductive Instr where
  /-- NOP (R77). -/
  | nop (h : Hdr)
  /-- BRA (R78). -/
  | bra (h : Hdr) (imm : Word)
  /-- BRX (R78). -/
  | brx (h : Hdr) (a : Opnd)
  /-- CALL (R78). -/
  | call (h : Hdr) (d : Opnd) (imm : Word)
  /-- RET (R78). -/
  | ret (h : Hdr) (a : Opnd)
  /-- EXIT (R79). -/
  | exit (h : Hdr)
  /-- YIELD (R77). -/
  | yieldTo (h : Hdr)
  /-- GSYNC (R80). -/
  | gsync (h : Hdr)
  /-- MEET (R81). -/
  | meet (h : Hdr) (imm : Word)
  /-- MEETG (R81). -/
  | meetg (h : Hdr) (a : Opnd) (imm : Word)
  /-- UNMEET (R81). -/
  | unmeet (h : Hdr)
  /-- DISPATCH (R82). -/
  | dispatch (h : Hdr) (a : Opnd) (b : Opnd)
  /-- GLD (R83). -/
  | gld (h : Hdr) (ty : Ty) (d : Opnd) (a : Opnd) (imm : Word)
  /-- GADV (R84). -/
  | gadv (h : Hdr) (a : Opnd) (imm : Word)
  /-- GSET (R84). -/
  | gset (h : Hdr) (a : Opnd) (imm : Word)
  /-- GSET_LEAVE (R84). -/
  | gsetLeave (h : Hdr) (a : Opnd) (imm : Word)
  /-- MCALL (R96). -/
  | mcall (h : Hdr) (d : Opnd) (a : Opnd) (b : Opnd) (c : Opnd) (p4 : BitVec 7) (p5 : BitVec 7) (p6 : BitVec 7) (p7 : BitVec 7) (m : BitVec 6)
  /-- IADD (R106). -/
  | iadd (h : Hdr) (ty : Ty) (sat : Bool) (d : Opnd) (a : Opnd) (b : Opnd) (imm : Word)
  /-- ISUB (R106). -/
  | isub (h : Hdr) (ty : Ty) (sat : Bool) (d : Opnd) (a : Opnd) (b : Opnd) (imm : Word)
  /-- IMUL (R106). -/
  | imul (h : Hdr) (ty : Ty) (sat : Bool) (d : Opnd) (a : Opnd) (b : Opnd) (imm : Word)
  /-- IMULH (R107). -/
  | imulh (h : Hdr) (ty : Ty) (d : Opnd) (a : Opnd) (b : Opnd) (imm : Word)
  /-- IMAD (R106). -/
  | imad (h : Hdr) (ty : Ty) (sat : Bool) (d : Opnd) (a : Opnd) (b : Opnd) (c : Opnd)
  /-- IDIV (R108). -/
  | idiv (h : Hdr) (ty : Ty) (d : Opnd) (a : Opnd) (b : Opnd) (imm : Word)
  /-- IREM (R108). -/
  | irem (h : Hdr) (ty : Ty) (d : Opnd) (a : Opnd) (b : Opnd) (imm : Word)
  /-- IMIN (R106). -/
  | imin (h : Hdr) (ty : Ty) (d : Opnd) (a : Opnd) (b : Opnd) (imm : Word)
  /-- IMAX (R106). -/
  | imax (h : Hdr) (ty : Ty) (d : Opnd) (a : Opnd) (b : Opnd) (imm : Word)
  /-- IABS (R106). -/
  | iabs (h : Hdr) (ty : Ty) (sat : Bool) (d : Opnd) (a : Opnd) (imm : Word)
  /-- INEG (R106). -/
  | ineg (h : Hdr) (ty : Ty) (sat : Bool) (d : Opnd) (a : Opnd) (imm : Word)
  /-- AND (R109). -/
  | and (h : Hdr) (ty : Ty) (d : Opnd) (a : Opnd) (b : Opnd) (imm : Word)
  /-- OR (R109). -/
  | or (h : Hdr) (ty : Ty) (d : Opnd) (a : Opnd) (b : Opnd) (imm : Word)
  /-- XOR (R109). -/
  | xor (h : Hdr) (ty : Ty) (d : Opnd) (a : Opnd) (b : Opnd) (imm : Word)
  /-- NOT (R109). -/
  | not (h : Hdr) (ty : Ty) (d : Opnd) (a : Opnd) (imm : Word)
  /-- ANDN (R109). -/
  | andn (h : Hdr) (ty : Ty) (d : Opnd) (a : Opnd) (b : Opnd) (imm : Word)
  /-- SHL (R109). -/
  | shl (h : Hdr) (ty : Ty) (d : Opnd) (a : Opnd) (b : Opnd) (imm : Word)
  /-- SHR (R109). -/
  | shr (h : Hdr) (ty : Ty) (d : Opnd) (a : Opnd) (b : Opnd) (imm : Word)
  /-- SAR (R109). -/
  | sar (h : Hdr) (ty : Ty) (d : Opnd) (a : Opnd) (b : Opnd) (imm : Word)
  /-- ROL (R109). -/
  | rol (h : Hdr) (ty : Ty) (d : Opnd) (a : Opnd) (b : Opnd) (imm : Word)
  /-- POPC (R110). -/
  | popc (h : Hdr) (ty : Ty) (d : Opnd) (a : Opnd) (imm : Word)
  /-- CLZ (R110). -/
  | clz (h : Hdr) (ty : Ty) (d : Opnd) (a : Opnd) (imm : Word)
  /-- CTZ (R110). -/
  | ctz (h : Hdr) (ty : Ty) (d : Opnd) (a : Opnd) (imm : Word)
  /-- BREV (R110). -/
  | brev (h : Hdr) (ty : Ty) (d : Opnd) (a : Opnd) (imm : Word)
  /-- BSWAP (R110). -/
  | bswap (h : Hdr) (ty : Ty) (d : Opnd) (a : Opnd) (imm : Word)
  /-- BFX (R111). -/
  | bfx (h : Hdr) (ty : Ty) (d : Opnd) (a : Opnd) (b : Opnd) (imm : Word)
  /-- BFI (R111). -/
  | bfi (h : Hdr) (ty : Ty) (d : Opnd) (a : Opnd) (b : Opnd) (c : Opnd)
  /-- ICMP (R112). -/
  | icmp (h : Hdr) (ty : Ty) (sub : BitVec 4) (d : Opnd) (a : Opnd) (b : Opnd) (imm : Word)
  /-- SEL (R113). -/
  | sel (h : Hdr) (ty : Ty) (d : Opnd) (a : Opnd) (b : Opnd) (c : Opnd)
  /-- MOV (R115). -/
  | mov (h : Hdr) (ty : Ty) (d : Opnd) (a : Opnd) (imm : Word)
  /-- RDSP (R115). -/
  | rdsp (h : Hdr) (d : Opnd) (a : Opnd)
  /-- WRSP (R115). -/
  | wrsp (h : Hdr) (a : Opnd) (b : Opnd) (imm : Word)
  /-- PLOP (R116). -/
  | plop (h : Hdr) (sub : BitVec 4) (d : Opnd) (a : Opnd) (b : Opnd)
  /-- P2V (R117). -/
  | p2v (h : Hdr) (d : Opnd)
  /-- V2P (R117). -/
  | v2p (h : Hdr) (a : Opnd) (b : Opnd) (imm : Word)
  /-- RDFIRST (R118). -/
  | rdfirst (h : Hdr) (ty : Ty) (d : Opnd) (a : Opnd)
  /-- FADD (R121). -/
  | fadd (h : Hdr) (ty : Ty) (mod : BitVec 3) (d : Opnd) (a : Opnd) (b : Opnd) (imm : Word)
  /-- FSUB (R121). -/
  | fsub (h : Hdr) (mod : BitVec 3) (d : Opnd) (a : Opnd) (b : Opnd) (imm : Word)
  /-- FMUL (R121). -/
  | fmul (h : Hdr) (ty : Ty) (mod : BitVec 3) (d : Opnd) (a : Opnd) (b : Opnd) (imm : Word)
  /-- FFMA (R121). -/
  | ffma (h : Hdr) (ty : Ty) (mod : BitVec 3) (d : Opnd) (a : Opnd) (b : Opnd) (c : Opnd)
  /-- FMIN (R122). -/
  | fmin (h : Hdr) (ty : Ty) (d : Opnd) (a : Opnd) (b : Opnd) (imm : Word)
  /-- FMAX (R122). -/
  | fmax (h : Hdr) (ty : Ty) (d : Opnd) (a : Opnd) (b : Opnd) (imm : Word)
  /-- FABS (R123). -/
  | fabs (h : Hdr) (ty : Ty) (d : Opnd) (a : Opnd) (imm : Word)
  /-- FNEG (R123). -/
  | fneg (h : Hdr) (ty : Ty) (d : Opnd) (a : Opnd) (imm : Word)
  /-- FCMP (R124). -/
  | fcmp (h : Hdr) (sub : BitVec 4) (d : Opnd) (a : Opnd) (b : Opnd) (imm : Word)
  /-- FCLS (R125). -/
  | fcls (h : Hdr) (ty : Ty) (d : Opnd) (a : Opnd) (imm : Word)
  /-- FDIV (R126). -/
  | fdiv (h : Hdr) (mod : BitVec 3) (d : Opnd) (a : Opnd) (b : Opnd) (imm : Word)
  /-- FSQRT (R126). -/
  | fsqrt (h : Hdr) (mod : BitVec 3) (d : Opnd) (a : Opnd) (imm : Word)
  /-- FRCP (R127). -/
  | frcp (h : Hdr) (d : Opnd) (a : Opnd) (imm : Word)
  /-- FRSQ (R127). -/
  | frsq (h : Hdr) (d : Opnd) (a : Opnd) (imm : Word)
  /-- FEXP2 (R127). -/
  | fexp2 (h : Hdr) (d : Opnd) (a : Opnd) (imm : Word)
  /-- FLOG2 (R127). -/
  | flog2 (h : Hdr) (d : Opnd) (a : Opnd) (imm : Word)
  /-- FTANH (R127). -/
  | ftanh (h : Hdr) (d : Opnd) (a : Opnd) (imm : Word)
  /-- FRND (R129). -/
  | frnd (h : Hdr) (mod : BitVec 3) (d : Opnd) (a : Opnd) (imm : Word)
  /-- CVT (R131). -/
  | cvt (h : Hdr) (ty : Ty) (sty : Ty) (mod : BitVec 3) (sat : Bool) (d : Opnd) (a : Opnd) (b : Opnd) (imm : Word)
  /-- BXQ (R133). -/
  | bxq (h : Hdr) (sub : BitVec 4) (d : Opnd) (a : Opnd)
  /-- BXD (R134). -/
  | bxd (h : Hdr) (sub : BitVec 4) (d : Opnd) (a : Opnd) (b : Opnd) (imm : Word)
  /-- FDOT2 (R121). -/
  | fdot2 (h : Hdr) (ty : Ty) (mod : BitVec 3) (d : Opnd) (a : Opnd) (b : Opnd) (c : Opnd)
  /-- SHFL (R137). -/
  | shfl (h : Hdr) (ty : Ty) (mod : BitVec 3) (sub : BitVec 4) (d : Opnd) (a : Opnd) (b : Opnd) (imm : Word)
  /-- QSWAP (R138). -/
  | qswap (h : Hdr) (ty : Ty) (sub : BitVec 4) (d : Opnd) (a : Opnd)
  /-- QBCAST (R138). -/
  | qbcast (h : Hdr) (ty : Ty) (d : Opnd) (a : Opnd) (b : Opnd) (imm : Word)
  /-- BALLOT (R139). -/
  | ballot (h : Hdr) (d : Opnd) (a : Opnd)
  /-- VOTE (R139). -/
  | vote (h : Hdr) (sub : BitVec 4) (d : Opnd) (a : Opnd)
  /-- MATCH (R139). -/
  | matchLanes (h : Hdr) (ty : Ty) (d : Opnd) (a : Opnd)
  /-- SCAN (R140). -/
  | scan (h : Hdr) (ty : Ty) (mod : BitVec 3) (sub : BitVec 4) (d : Opnd) (a : Opnd) (imm : Word)
  /-- REDUX (R140). -/
  | redux (h : Hdr) (ty : Ty) (mod : BitVec 3) (sub : BitVec 4) (d : Opnd) (a : Opnd) (imm : Word)
  /-- ELECT (R139). -/
  | elect (h : Hdr) (d : Opnd)
  /-- LDS (R148). -/
  | lds (h : Hdr) (ty : Ty) (mod : BitVec 3) (d : Opnd) (a : Opnd) (b : Opnd) (imm : Word)
  /-- STS (R148). -/
  | sts (h : Hdr) (ty : Ty) (mod : BitVec 3) (d : Opnd) (a : Opnd) (b : Opnd) (imm : Word)
  /-- LDH (R154). -/
  | ldh (h : Hdr) (ty : Ty) (mod : BitVec 3) (d : Opnd) (a : Opnd) (b : Opnd) (imm : Word)
  /-- STH (R154). -/
  | sth (h : Hdr) (ty : Ty) (mod : BitVec 3) (d : Opnd) (a : Opnd) (b : Opnd) (imm : Word)
  /-- SPZERO (R149). -/
  | spzero (h : Hdr) (a : Opnd) (b : Opnd) (imm : Word)
  /-- TLOOK (R161). -/
  | tlook (h : Hdr) (d : Opnd) (a : Opnd) (imm : Word)
  /-- TINS (R162). -/
  | tins (h : Hdr) (d : Opnd) (a : Opnd) (imm : Word)
  /-- TINV (R162). -/
  | tinv (h : Hdr) (d : Opnd) (a : Opnd) (imm : Word)
  /-- TMARK (R163). -/
  | tmark (h : Hdr) (a : Opnd) (b : Opnd) (imm : Word)
  /-- HGIVE (R156). -/
  | hgive (h : Hdr) (a : Opnd) (b : Opnd) (imm : Word)
  /-- HGIVE_NEW (R156). -/
  | hgiveNew (h : Hdr) (d : Opnd) (a : Opnd) (b : Opnd) (imm : Word)
  /-- HGIVE_RETIRE (R156). -/
  | hgiveRetire (h : Hdr) (a : Opnd)
  /-- HTAKE (R156). -/
  | htake (h : Hdr) (a : Opnd)
  /-- HQRY (R158). -/
  | hqry (h : Hdr) (d : Opnd) (a : Opnd)
  /-- LD (R181). -/
  | ld (h : Hdr) (ty : Ty) (mod : BitVec 3) (d : Opnd) (a : Opnd) (b : Opnd) (mw : MemW) (ofs : BitVec 20)
  /-- ST (R181). -/
  | st (h : Hdr) (ty : Ty) (mod : BitVec 3) (d : Opnd) (a : Opnd) (b : Opnd) (mw : MemW) (ofs : BitVec 20)
  /-- PF (R182). -/
  | pf (h : Hdr) (mod : BitVec 3) (a : Opnd) (b : Opnd) (mw : MemW) (ofs : BitVec 20)
  /-- FENCE (R196). -/
  | fence (h : Hdr) (sub : BitVec 4) (mw : MemW)
  /-- ATOM (R199). -/
  | atom (h : Hdr) (ty : Ty) (mod : BitVec 3) (sub : BitVec 4) (d : Opnd) (a : Opnd) (b : Opnd) (c : Opnd) (mw : MemW) (ofs10 : BitVec 10)
  /-- RED (R199). -/
  | red (h : Hdr) (ty : Ty) (mod : BitVec 3) (sub : BitVec 4) (d : Opnd) (a : Opnd) (b : Opnd) (mw : MemW) (ofs : BitVec 20)
  /-- STX (R221). -/
  | stx (h : Hdr) (mod : BitVec 3) (sub : BitVec 4) (d : Opnd) (a : Opnd) (b : Opnd) (c : Opnd) (mw : MemW) (ofs10 : BitVec 10)
  /-- STINIT (R222). -/
  | stinit (h : Hdr) (mod : BitVec 3) (d : Opnd) (a : Opnd) (b : Opnd) (c : Opnd) (mw : MemW) (ofs10 : BitVec 10)
  /-- STQRY (R223). -/
  | stqry (h : Hdr) (mod : BitVec 3) (sub : BitVec 4) (d : Opnd) (a : Opnd) (b : Opnd) (mw : MemW) (ofs : BitVec 20)
  /-- STLOAD (R224). -/
  | stload (h : Hdr) (mod : BitVec 3) (sub : BitVec 4) (a : Opnd)
  /-- BINIT (R233). -/
  | binit (h : Hdr) (a : Opnd) (b : Opnd) (imm : Word)
  /-- BARRIVE (R233). -/
  | barrive (h : Hdr) (a : Opnd) (imm : Word)
  /-- BARRIVE_PH (R233). -/
  | barrivePh (h : Hdr) (d : Opnd) (a : Opnd) (imm : Word)
  /-- BWAIT (R233). -/
  | bwait (h : Hdr) (a : Opnd) (b : Opnd) (imm : Word)
  /-- BSYNC (R233). -/
  | bsync (h : Hdr) (a : Opnd) (imm : Word)
  /-- BEXPECT (R233). -/
  | bexpect (h : Hdr) (a : Opnd) (b : Opnd) (imm : Word)
  /-- BQRY (R233). -/
  | bqry (h : Hdr) (d : Opnd) (a : Opnd) (imm : Word)
  /-- QINIT (R236). -/
  | qinit (h : Hdr) (a : Opnd) (b : Opnd) (imm : Word)
  /-- QPUSH (R236). -/
  | qpush (h : Hdr) (a : Opnd) (b : Opnd) (imm : Word)
  /-- QPOP (R236). -/
  | qpop (h : Hdr) (d : Opnd) (a : Opnd) (imm : Word)
  /-- QTRY (R236). -/
  | qtry (h : Hdr) (d : Opnd) (a : Opnd) (imm : Word)
  /-- QALLOW (R236). -/
  | qallow (h : Hdr) (a : Opnd) (b : Opnd) (c : Opnd)
  /-- CPY (R244). -/
  | cpy (h : Hdr) (d : Opnd) (a : Opnd)
  /-- CPYT (R244). -/
  | cpyt (h : Hdr) (d : Opnd) (a : Opnd) (b : Opnd) (imm : Word)
  /-- CPWP (R246). -/
  | cpwp (h : Hdr) (d : Opnd) (a : Opnd) (imm : Word)
  /-- CPWAIT (R246). -/
  | cpwait (h : Hdr) (a : Opnd) (b : Opnd) (imm : Word)
  /-- CPFENCE (R246). -/
  | cpfence (h : Hdr) (a : Opnd) (imm : Word)
  /-- MCFG (R255). -/
  | mcfg (h : Hdr) (mod : BitVec 3) (sub : BitVec 4)
  /-- MLDB (R255). -/
  | mldb (h : Hdr) (bar : BitVec 4) (arv : Bool) (sub : BitVec 4) (a : Opnd) (b : Opnd) (imm : Word)
  /-- MMB (R256). -/
  | mmb (h : Hdr) (bar : BitVec 4) (arv : Bool) (sub : BitVec 4) (a : Opnd) (b : Opnd) (imm : Word)
  /-- SCACC (R258). -/
  | scacc (h : Hdr) (sub : BitVec 4) (a : Opnd) (imm : Word)
  /-- MZERO (R260). -/
  | mzero (h : Hdr) (sub : BitVec 4)
  /-- MLDC (R260). -/
  | mldc (h : Hdr) (sub : BitVec 4) (a : Opnd) (b : Opnd) (imm : Word)
  /-- MDRAIN (R261). -/
  | mdrain (h : Hdr) (bar : BitVec 4) (mod : BitVec 3) (arv : Bool) (sub : BitVec 4) (a : Opnd) (b : Opnd) (imm : Word)
  /-- MERR (R264). -/
  | merr (h : Hdr) (d : Opnd) (a : Opnd) (imm : Word)
  /-- MERR_CLR (R264). -/
  | merrClr (h : Hdr)
  /-- ENQ (R296). -/
  | enq (h : Hdr) (d : Opnd) (a : Opnd)
  /-- LDQE (R297). -/
  | ldqe (h : Hdr) (ty : Ty) (d : Opnd) (a : Opnd) (imm : Word)
  /-- TMSET (R298). -/
  | tmset (h : Hdr) (a : Opnd) (imm : Word)
  /-- TRAP (R319). -/
  | trap (h : Hdr) (a : Opnd) (imm : Word)
  /-- RTI_RE (R320). -/
  | rtiRe (h : Hdr)
  /-- RTI_NEXT (R320). -/
  | rtiNext (h : Hdr)
  /-- RTI_DROP (R320). -/
  | rtiDrop (h : Hdr)
  /-- REGION (R321). -/
  | region (h : Hdr)
  /-- PPOINT (R322). -/
  | ppoint (h : Hdr)
  /-- BRK (R323). -/
  | brk (h : Hdr) (sub : BitVec 4)
  /-- SLEEP (R324). -/
  | sleep (h : Hdr) (a : Opnd) (imm : Word)
  /-- XPUT (R369). -/
  | xput (h : Hdr) (a : Opnd)
  /-- XGET (R369). -/
  | xget (h : Hdr) (a : Opnd)
  /-- XATOM (R369). -/
  | xatom (h : Hdr) (ty : Ty) (sub : BitVec 4) (a : Opnd) (b : Opnd) (mw : MemW)
  /-- XSTX (R369). -/
  | xstx (h : Hdr) (sub : BitVec 4) (a : Opnd) (b : Opnd) (mw : MemW)
  /-- TRAP_ENTRY (R302). -/
  | trapEntry (w t : Nat)
  /-- LONG_LATENCY_RESULT (R26). -/
  | longLatencyResult (w t k : Nat) (capture : Bool)
  /-- REBUNDLE (R63). -/
  | rebundle (w : Nat) (parts : List (List Nat)) (gather : List Nat)
  /-- HOLD_LIMIT_EXPIRY (R70). -/
  | holdLimitExpiry (w t : Nat)
  /-- GATHER_WINDOW_EXPIRY (R73). -/
  | gatherWindowExpiry (w t : Nat)
  /-- WORKGROUP_PLACEMENT (R61). -/
  | workgroupPlacement (p e cl : Nat) (cores : List Nat)
  /-- WORKGROUP_END (R79). -/
  | workgroupEnd (w : Nat)
  /-- ADMISSION_DECISION (R277). -/
  | admissionDecision (p : Nat)
  /-- CORE_GRANT (R283). -/
  | coreGrant (core : Nat)
  /-- DISTRIBUTOR_STEAL (R284). -/
  | distributorSteal (p e level thief : Nat)
  /-- CORE_TAKE_BACK (R285). -/
  | coreTakeBack (p core : Nat)
  /-- POLITE_WITHDRAWAL (R307). -/
  | politeWithdrawal (core : Nat)
  /-- POLITE_SAVE (R307). -/
  | politeSave (w : Nat)
  /-- POLITE_WINDOW_END (R307). -/
  | politeWindowEnd (core : Nat)
  /-- FREEZE (R308). -/
  | freeze (w : Nat)
  /-- KILL_TIMEOUT (R308). -/
  | killTimeout (w : Nat)
  /-- CONTEXT_KILL (R315). -/
  | contextKill (c : Nat)
  /-- BUDGET_FOLD (R280). -/
  | budgetFold (p : Nat)
  /-- OVERRUN_WINDOW_EXPIRY (R288). -/
  | overrunWindowExpiry (p e : Nat)
  /-- DEADLINE_KILL (R289). -/
  | deadlineKill (p e : Nat)
  /-- ENTRY_COMPLETION (R290). -/
  | entryCompletion (p e : Nat)
  /-- TIMER_EXPIRY (R298). -/
  | timerExpiry (w : Nat)
  /-- SLEEP_END (R324). -/
  | sleepEnd (w t : Nat)
  /-- WCB_LINE_DRAIN (R177). -/
  | wcbLineDrain (core k : Nat)
  /-- STORE_PERFORM (R187). -/
  | storePerform (core k copy : Nat)
  /-- COMBINING_ENTRY_SEND (R200). -/
  | combiningEntrySend (cl k : Nat)
  /-- ATOMIC_AT_HOME (R199). -/
  | atomicAtHome (k : Nat)
  /-- GRANULE_CLEAR_DONE (R174). -/
  | granuleClearDone (g : Nat)
  /-- PATROL_SCRUB (R20). -/
  | patrolScrub (pa : Nat)
  /-- FAULT_RECORD_RETRY (R179). -/
  | faultRecordRetry (w t : Nat)
  /-- PAGE_MAPPED_WAKE (R179). -/
  | pageMappedWake (core r : Nat)
  /-- FAULT_TIMEOUT (R179). -/
  | faultTimeout (core r : Nat)
  /-- TRANSLATION_INVALIDATE (R172). -/
  | translationInvalidate (k : Nat)
  /-- STAGED_TRANSITION (R213). -/
  | stagedTransition (k : Nat)
  /-- CHAINED_TRANSITION (R216). -/
  | chainedTransition (k : Nat)
  /-- PARK_WAKE (R214). -/
  | parkWake (core k : Nat)
  /-- PARK_TABLE_RETRY (R214). -/
  | parkTableRetry (w t : Nat)
  /-- COPY_CHUNK (R245). -/
  | copyChunk (w k : Nat)
  /-- COPY_COMPLETION (R245). -/
  | copyCompletion (w k : Nat)
  /-- ANVIL_INSTRUCTION_DONE (R252). -/
  | anvilInstructionDone (w : Nat)
  /-- LINK_REQ_RECEIVED (R364). -/
  | linkReqReceived (die : Nat) (pkt : Packet)
  /-- LINK_RESP_RECEIVED (R364). -/
  | linkRespReceived (die : Nat) (pkt : Packet)
  /-- LINK_ACK_RECEIVED (R364). -/
  | linkAckReceived (die : Nat) (pkt : Packet)
  /-- LINK_NAK_RECEIVED (R364). -/
  | linkNakReceived (die : Nat) (pkt : Packet)
  /-- LINK_ACK_TIMER (R364). -/
  | linkAckTimer (die k sp : Nat)
  /-- LINK_RETX_TIMEOUT (R364). -/
  | linkRetxTimeout (die k sp : Nat)
  /-- LINK_STREAM_TIMEOUT (R364). -/
  | linkStreamTimeout (die k sp : Nat)
  /-- KICK (R340). -/
  | kick (p : Nat) (v : Word)
  /-- SLOT_FETCH (R341). -/
  | slotFetch (p slot : Nat)
  /-- MAPPING_PASS (R342). -/
  | mappingPass (p : Nat)
  /-- QUEUE_AGE_STEP (R342). -/
  | queueAgeStep (p q : Nat)
  /-- QCB_PAGE_OUT (R344). -/
  | qcbPageOut (p q far : Nat)
  /-- QCB_PAGE_IN (R344). -/
  | qcbPageIn (p q : Nat)
  /-- WATCHDOG_EXPIRY (R347). -/
  | watchdogExpiry (p : Nat)
  /-- STATE_TABLE_WRITE (R348). -/
  | stateTableWrite (p : Nat)
  /-- LIVE_UPDATE (R348). -/
  | liveUpdate (stage fwver stver : Nat) (ok : Bool)
  /-- MONITOR_SET_PARAMS (R346). -/
  | monitorSetParams (p : Nat) (prm : PartParams)
  /-- MONITOR_SERVICE_FAULT (R346). -/
  | monitorServiceFault (core r : Nat) (pa : Nat)
  /-- DEBUG_WRITE (R316). -/
  | debugWrite (c reg : Nat) (v : DWord)
  /-- ATTESTATION_REPORT (R360). -/
  | attestationReport (p : Nat) (nonce : List Byte)
  /-- CONTEXT_MIGRATION (R359). -/
  | contextMigration (c stage : Nat)
  /-- PARTITION_RESET (R352). -/
  | partitionReset (p : Nat)
  /-- COLD_RESET (R14). -/
  | coldReset
  /-- WARM_RESET (R14). -/
  | warmReset
  /-- BRING_UP_PHASE (R15). -/
  | bringUpPhase (ok : Bool) (volts : List Nat)
  /-- MONITOR_SAMPLE (R17). -/
  | monitorSample (sample : Sample)
  /-- REF_CLOCK_LOSS (R18). -/
  | refClockLoss
  /-- HEARTH_MEMORY_ERROR (R20). -/
  | hearthMemoryError (hearthB : Bool)
  /-- HOST_COMPLETION_TIMEOUT (R354). -/
  | hostCompletionTimeout (w t k : Nat)
  /-- FAR_REQUEST_TIMEOUT (R357). -/
  | farRequestTimeout (w t k : Nat)
  /-- PIECE (R355). -/
  | piece
  /-- START (R355). -/
  | start
  /-- ABORT (R355). -/
  | abort
  /-- RECOVERY_PIECE_COPIED (R355). -/
  | recoveryPieceCopied
  /-- RECOVERY_VERIFY_DONE (R355). -/
  | recoveryVerifyDone
  /-- REGISTER_WRITE (R5). -/
  | registerWrite (ofs : Nat) (v : Word)
  /-- QUEUE_CREATE (R337). -/
  | queueCreate (p q : Nat) (spec : QueueSpec)
  /-- QUEUE_DESTROY (R337). -/
  | queueDestroy (p q : Nat)
  /-- REGION_REGISTER (R238). -/
  | regionRegister (c idx : Nat) (rg : Region)
  /-- REGION_REVOKE (R238). -/
  | regionRevoke (c idx : Nat)
  /-- PAGE_TABLE_ENTRY_CHANGE (R172). -/
  | pageTableEntryChange (p pa : Nat) (v : DWord) (freed : List Nat)
  /-- CONTEXT_CREATE (R209). -/
  | contextCreate (p c : Nat) (roots : List Nat) (dlog : Nat) (ring : Nat)
  /-- EXPORT_TABLE_WRITE (R365). -/
  | exportTableWrite (c idx : Nat) (ent : Option ExportEntry)
  /-- PEER_TABLE_WRITE (R362). -/
  | peerTableWrite (p dev : Nat) (peer : Option Peer)
  /-- PARTITION_SETUP (R350). -/
  | partitionSetup (p : Nat) (cfg : PartSetup)
  /-- LINK_CHUNK_SEND (R364). -/
  | linkChunkSend (die k : Nat)
  deriving DecidableEq, Repr

end Sys2Proof
end

