-- ==== Sys2Proof/Decode.lean ====
section
/-!
DEFINITION. Decode.lean: from 96 bits to an instruction, with the encoding check of 02 R35 and R36; then the encoder.
-/
namespace Sys2Proof

/-! ### The fields of a word (02 R23, R31, R34) -/

/-- The fields of an instruction word (02 R23). -/
structure Raw where
  opc  : BitVec 10
  look : BitVec 4
  grd  : BitVec 4
  nf   : BitVec 1
  yld  : BitVec 1
  ru   : BitVec 2
  d    : BitVec 10
  a    : BitVec 10
  b    : BitVec 10
  x    : BitVec 44
  deriving DecidableEq, Repr

/-- Cut a word into its fields (02 R23). -/
def Raw.ofWord (w : IWord) : Raw where
  opc := w.extractLsb' 86 10
  look := w.extractLsb' 82 4
  grd := w.extractLsb' 78 4
  nf := w.extractLsb' 77 1
  yld := w.extractLsb' 76 1
  ru := w.extractLsb' 74 2
  d := w.extractLsb' 64 10
  a := w.extractLsb' 54 10
  b := w.extractLsb' 44 10
  x := w.extractLsb' 0 44

/-- Join fields into a word (02 R23). -/
def Raw.toWord (r : Raw) : IWord :=
  r.opc ++ r.look ++ r.grd ++ r.nf ++ r.yld ++ r.ru ++ r.d ++ r.a ++ r.b ++ r.x

/-- TY (02 R31). -/
def Raw.ty (r : Raw) : BitVec 4 := r.x.extractLsb' 40 4
/-- MOD (02 R31). -/
def Raw.mod (r : Raw) : BitVec 3 := r.x.extractLsb' 37 3
/-- SAT (02 R31). -/
def Raw.sat (r : Raw) : BitVec 1 := r.x.extractLsb' 36 1
/-- SUB (02 R31). -/
def Raw.sub (r : Raw) : BitVec 4 := r.x.extractLsb' 32 4
/-- IMM32 (02 R31). -/
def Raw.imm (r : Raw) : Word := r.x.extractLsb' 0 32
/-- The C operand of a four-operand form (02 R31). -/
def Raw.c (r : Raw) : BitVec 10 := r.x.extractLsb' 0 10
/-- X[31:10], zero in a four-operand form (02 R31). -/
def Raw.hi22 (r : Raw) : BitVec 22 := r.x.extractLsb' 10 22
/-- The memory modifier word (02 R34). -/
def Raw.mw (r : Raw) : MemW where
  scope := r.x.extractLsb' 29 3
  ss := r.x.extractLsb' 25 4
  ord := r.x.extractLsb' 23 2
  rpro := r.x.extractLsb' 22 1 = 1#1
  ch := r.x.extractLsb' 20 2
/-- The offset of a memory-class form (02 R34). -/
def Raw.ofs (r : Raw) : BitVec 20 := r.x.extractLsb' 0 20
/-- The offset of a memory-class form with C (02 R34). -/
def Raw.ofs10 (r : Raw) : BitVec 10 := r.x.extractLsb' 10 10
/-- M of `mcall` (05 R95). -/
def Raw.m (r : Raw) : BitVec 6 := r.x.extractLsb' 38 6
/-- Parameters $4 to $7 of `mcall` (05 R95). -/
def Raw.par (r : Raw) (k : Nat) : BitVec 7 := r.x.extractLsb' (10 + 7 * (k - 4)) 7

/-- The bits of a memory modifier word (02 R34). -/
def MemW.bits (m : MemW) : BitVec 12 := m.scope ++ m.ss ++ m.ord ++ BitVec.ofBool m.rpro ++ m.ch

/-- X in the general layout (02 R31). -/
def Raw.gen (ty : BitVec 4) (mod : BitVec 3) (sat : BitVec 1) (sub : BitVec 4) (imm : Word) : BitVec 44 :=
  ty ++ mod ++ sat ++ sub ++ imm

/-! ### The encoding check (02 R29 to R36) -/

/-- What the check depends on beside the word: the kernel's register counts, its sequences' kinds PK, and
whether the word stands in a control-store sequence (02 R29, 05 R91). -/
structure DecCtx where
  vregs : Nat
  sregs : Nat
  inSeq : Bool
  pks   : List (BitVec 8)   -- PK of each sequence of the kernel
  deriving DecidableEq, Repr

/-- The context of a kernel at the limits of the device class (05 R89), outside a sequence. -/
def DecCtx.std : DecCtx := { vregs := 256, sregs := 128, inSeq := false, pks := List.replicate 64 0 }

/-- A fault of a word: REASON and FIELD (02 R36). -/
abbrev DecErr := Nat × Nat

/-- Width class of an operand field: what decides whether it names a pair (02 R29). -/
inductive Width where
  | w32   -- always one register
  | w64   -- always an even pair
  | ty    -- the width of TY
  | sub   -- the width of the type in SUB (`cvt`)
  | blk   -- a command block of eight registers (14 R239)
  | cas   -- the data of an atomic operation: of the width of TY, and twice that for `.cas` (11 R198)
  deriving DecidableEq, Repr

/-- What an operand field may hold (02 R29): vector, uniform, predicate, special register, inline immediate, IMM32. -/
structure FieldSpec where
  v   : Bool := false
  u   : Bool := false
  p   : Bool := false
  sp  : Bool := false
  im  : Bool := false
  lit : Bool := false
  w   : Width := .w32
  dst : Bool := false
  deriving DecidableEq, Repr

/-- Layout of X (02 R31, R34, 05 R95). -/
inductive Layout where
  | gen | four | mem | memC | mcall
  deriving DecidableEq, Repr

/-- What an entry accepts in MOD. -/
inductive ModUse where
  | zero | rnd | upTo (n : Nat)
  deriving DecidableEq, Repr

/-- What an instruction's entry accepts in each field of its word. -/
structure OpSpec where
  lay  : Layout := .gen
  d    : Option FieldSpec := none
  a    : Option FieldSpec := none
  b    : Option FieldSpec := none
  c    : Option FieldSpec := none
  skip : List Nat := []           -- fields whose use depends on a SUB that is not accepted (log 11)
  tys  : List Nat := [0]
  mod  : ModUse := .zero
  sat  : Bool := false
  subs : List Nat := [0]
  nf   : Bool := false
  immUse : Bool := false          -- the entry gives IMM32 a use of its own
  ofsUse : Bool := false          -- a memory-class form that takes an offset
  ords : List Nat := []           -- accepted ORD
  scopes : List Nat := []         -- accepted AS
  rproOrds : List Nat := []       -- ORD with which RPRO = 1 is accepted
  chMax : Nat := 2                -- highest accepted CH
  ssOk : BitVec 4 → Bool := fun ss => ss != 0
  noUniRule : Bool := false       -- a uniform D allows per-lane sources (06 R100)
  seqOk : Bool := true            -- may stand in a sequence (04 R77, 05 R94, 18 R318)
  extra : Raw → List DecErr := fun _ => []

namespace Enc
/-- Operand kinds of the entries: "op" and "op32" (06 R105), destinations, uniform operands (08 R155). -/
def op : FieldSpec := { v := true, u := true, im := true, lit := true, w := .ty }
def op32 : FieldSpec := { v := true, u := true, im := true, lit := true }
def op64 : FieldSpec := { v := true, u := true, im := true, lit := true, w := .w64 }
def reg32 : FieldSpec := { v := true, u := true }
def pair : FieldSpec := { v := true, u := true, w := .w64 }
def idx : FieldSpec := { v := true, u := true, im := true }
def uop : FieldSpec := { u := true, im := true, lit := true }
def upair : FieldSpec := { u := true, w := .w64 }
def ublk : FieldSpec := { u := true, w := .blk }
def prd : FieldSpec := { p := true }
def dU : FieldSpec := { v := true, u := true, w := .ty, dst := true }
def dU32 : FieldSpec := { v := true, u := true, dst := true }
def dU64 : FieldSpec := { v := true, u := true, w := .w64, dst := true }
def dV : FieldSpec := { v := true, w := .ty, dst := true }
def dV32 : FieldSpec := { v := true, dst := true }
def dS32 : FieldSpec := { u := true, dst := true }
def dS64 : FieldSpec := { u := true, w := .w64, dst := true }
def dP : FieldSpec := { p := true, dst := true }
/-- Type lists: the eight integer codes, the four wide ones, the raw ones, every code but 0xF. -/
def tyInt : List Nat := [1, 2, 3, 4, 5, 6, 7, 8]
def tyWide : List Nat := [5, 6, 7, 8]
def tyRaw : List Nat := [0, 0xE]
def tyAll : List Nat := [0, 1, 2, 3, 4, 5, 6, 7, 8, 9, 0xA, 0xB, 0xC, 0xD, 0xE]
def tyF3 : List Nat := [9, 0xA, 0xB]
def upTo15 : List Nat := [0, 1, 2, 3, 4, 5, 6, 7, 8, 9, 10, 11, 12, 13, 14, 15]
end Enc

/-- Whether an operand's kind is allowed in a field (02 R29). -/
def FieldSpec.allows (f : FieldSpec) : Opnd → Bool
  | .v _ => f.v | .s _ => f.u | .sp _ => f.sp | .slot _ => false | .p _ => f.p | .imm _ => f.im | .lit => f.lit

/-- The numbers of the special registers (06 R103). -/
def spNumbers : List Nat :=
  [0x00, 0x01, 0x02, 0x03, 0x04, 0x05, 0x06, 0x08, 0x09, 0x0A, 0x0B, 0x0C, 0x0D, 0x0E, 0x0F, 0x10, 0x11, 0x12, 0x13,
   0x14, 0x15, 0x16, 0x17, 0x18, 0x19, 0x1A, 0x20, 0x21, 0x22, 0x23, 0x24, 0x25, 0x26, 0x27]

/-- The 64-bit special registers (06 R103). -/
def spWide : List Nat := [0x09, 0x0A, 0x0D, 0x10, 0x11, 0x12, 0x13, 0x14, 0x15, 0x22, 0x25, 0x26]

/-- The special registers of lane kind (06 R103). -/
def spLane : List Nat :=
  [0x00, 0x01, 0x06, 0x08, 0x09, 0x0A, 0x0B, 0x0C, 0x0D, 0x0E, 0x0F, 0x18, 0x19, 0x20, 0x21, 0x22, 0x23, 0x24, 0x25,
   0x26, 0x27]

/-- The special registers `wrsp` may write (06 R103). -/
def spRw : List Nat := [0x0C, 0x18, 0x19]

/-- Width in bits of a TY code; 32 for a code without a type. -/
def tyWidth (c : BitVec 4) : Nat := ((Ty.ofCode c).map Ty.width).getD 32

/-- How many registers a field of a width class names, in a word. -/
def Width.regs (w : Width) (r : Raw) : Nat :=
  match w with
  | .w32 => 1
  | .w64 => 2
  | .ty => if tyWidth r.ty = 64 then 2 else 1
  | .sub => if tyWidth r.sub = 64 then 2 else 1
  | .blk => 8
  | .cas => (if r.sub = 7 then 2 else 1) * (if tyWidth r.ty = 64 then 2 else 1)

/-- The faults of naming `n` registers from number `k` below a count (02 R29, 14 R243). -/
def regErrs (f k n count : Nat) : List DecErr :=
  (if k % n = 0 then [] else [(8, f)]) ++ (if k + n ≤ count then [] else [(9, f)])

/-- The faults of one operand field (02 R28, R29, R36). `noLit` says that no field of the form may name IMM32
(06 R105). -/
def fieldErrs (cx : DecCtx) (r : Raw) (f : Nat) (spec : Option FieldSpec) (bits : BitVec 10)
    (uniD noLit : Bool) : List DecErr :=
  match spec with
  | none => if bits = 0 then [] else [(4, f)]
  | some fs =>
    match Opnd.ofBits bits with
    | none => [(2, f)]
    | some (.slot _) => [(3, f)]
    | some o =>
      (if noLit && o == .lit then [(2, f)] else [])
      ++ (if fs.allows o && !(uniD && !fs.dst && (match o with | .v _ | .p _ => true | _ => false)) then []
          else [(7, f)])
      ++ (match o with
          | .sp n => if spNumbers.contains n.toNat then [] else [(2, f)]
          | .v n => regErrs f n.toNat (fs.w.regs r) cx.vregs
          | .s n => regErrs f n.toNat (fs.w.regs r) cx.sregs
          | _ => [])

/-- The faults of a field whose use the word leaves open, since its SUB is not accepted: those of its code alone (02 R35,
R36; log 11). -/
def codeErrs (f : Nat) (bits : BitVec 10) : List DecErr :=
  match Opnd.ofBits bits with
  | none => [(2, f)]
  | some (.slot _) => [(3, f)]
  | some (.sp n) => if spNumbers.contains n.toNat then [] else [(2, f)]
  | some _ => []

/-- Whether a used field names IMM32. -/
def namesLit (spec : Option FieldSpec) (bits : BitVec 10) : Bool := spec.isSome && Opnd.ofBits bits == some .lit

/-- Whether IMM32 breaks the width of a field that names it (02 R30, 06 R105). -/
def litTooWide (r : Raw) (spec : Option FieldSpec) (bits : BitVec 10) : Bool :=
  namesLit spec bits &&
    (match spec with
     | some fs =>
       let w := match fs.w with | .ty => tyWidth r.ty | .sub => tyWidth r.sub | _ => 32
       fs.lit && decide (w < 32) && decide (r.imm.toNat ≥ 2 ^ w)
     | none => false)

/-- The faults of IMM32 in the general layout: unused and nonzero, or too wide (02 R30). -/
def litErrs (sp : OpSpec) (r : Raw) : List DecErr :=
  if sp.immUse then []
  else if namesLit sp.d r.d || namesLit sp.a r.a || namesLit sp.b r.b then
    (if litTooWide r sp.d r.d || litTooWide r sp.a r.a || litTooWide r sp.b r.b then [(4, 0xB)] else [])
  else if r.imm = 0 then [] else [(4, 0xB)]

/-- Whether MOD holds an accepted value (02 R33). -/
def ModUse.ok (u : ModUse) (m : BitVec 3) : Bool :=
  match u with
  | .zero => m == 0
  | .rnd => m.toNat ≤ 5
  | .upTo n => m.toNat ≤ n

/-- The faults of a memory modifier word (02 R34). -/
def memErrs (sp : OpSpec) (r : Raw) : List DecErr :=
  let m := r.mw
  if sp.ords.contains m.ord.toNat && sp.scopes.contains m.scope.toNat && sp.ssOk m.ss
      && (!m.rpro || sp.rproOrds.contains m.ord.toNat) && m.ch.toNat ≤ sp.chMax
  then [] else [(6, 0xC)]

/-- Whether the D field names a uniform register that the entry uses as a destination (06 R100). -/
def uniDest (sp : OpSpec) (r : Raw) : Bool :=
  !sp.noUniRule && (match sp.d, Opnd.ofBits r.d with
    | some fs, some (.s _) => fs.dst
    | _, _ => false)

/-- The faults of an `mcall` word (05 R95, R96). -/
def mcallErrs (cx : DecCtx) (r : Raw) : List DecErr :=
  let one (f : Nat) (bits : BitVec 10) : List DecErr :=
    match Opnd.ofBits bits with
    | none => [(2, f)]
    | some (.slot _) => [(3, f)]
    | some (.sp n) => if spNumbers.contains n.toNat then [(7, f)] else [(2, f)]
    | some .lit => [(7, f)]
    | some _ => []
  one 3 r.d ++ one 4 r.a ++ one 5 r.b ++ one 6 r.c
    ++ (match cx.pks[r.m.toNat]? with
        | none => [(5, 7)]
        | some pk =>
          if [4, 5, 6, 7].any (fun k => (pk.extractLsb' (2 * (k - 4)) 2 == 2#2) && decide ((r.par k).toNat > 7))
          then [(2, 0xB)] else [])

/-- The pairs of types `cvt` accepts, and whether SAT may be 1 with them (07 R130). -/
def cvtPair (src dst : Nat) : Option Bool :=
  let scalar := [9, 0xC, 0xD]
  let packed := [0xA, 0xB]
  if scalar.contains src && scalar.contains dst && src != dst then some (dst != 9)
  else if src == 9 && packed.contains dst then some true
  else if packed.contains src && packed.contains dst && src != dst then some true
  else if packed.contains src && scalar.contains dst then some (dst != 9)
  else if scalar.contains src && Enc.tyInt.contains dst then some false
  else if Enc.tyInt.contains src && scalar.contains dst then some false
  else none

/-- The types an atomic operation accepts (11 R198). -/
def atomTys (op : Nat) : List Nat :=
  match op with
  | 0 | 4 | 5 => Enc.tyWide
  | 1 | 2 | 3 | 6 | 7 => Enc.tyRaw
  | 8 => [9]
  | _ => []

/-- The types a `scan` or `redux` operation accepts (07 R140). -/
def scanTys (op : Nat) : List Nat :=
  match op with
  | 0 => Enc.tyWide
  | 1 | 2 => [5, 6, 7, 8, 9]
  | 3 | 4 | 5 => Enc.tyRaw
  | 6 => [9]
  | _ => []

open Enc in
/-- The entry of each opcode (02 R37 and the entries named there), seen from a word, since in some entries a field's
use depends on SUB; none for a reserved opcode. What a word takes whose SUB is not accepted, as the NF and MOD of `redux` with SUB 14, is the
model's choice (log 11). -/
def opSpec (r : Raw) : Option OpSpec :=
  let sub := r.sub.toNat
  let alu2 (tys : List Nat) (sat : Bool) : OpSpec := { d := dU, a := op, b := op, tys := tys, sat := sat }
  let alu1 (tys : List Nat) (sat : Bool) : OpSpec := { d := dU, a := op, tys := tys, sat := sat }
  let shift : OpSpec := { d := dU, a := op, b := op32, tys := tyRaw }
  let cnt : OpSpec := { d := dU32, a := op, tys := tyRaw }
  let f2 (tys : List Nat) : OpSpec := { d := dU, a := op, b := op, tys := tys, mod := .rnd, nf := true }
  let approx : OpSpec := { d := dV, a := op, tys := [9], nf := true }
  let scope6 := [0, 1, 2, 3, 4, 5]
  let bar : OpSpec := { a := uop, b := uop }
  let mul : OpSpec := { a := uop, b := uop, tys := upTo15, sat := true
                        extra := fun r => if r.sat = 0 && r.ty != 0 then [(5, 7)] else [] }
  let rect (s : OpSpec) : OpSpec :=
    if sub = 2 || sub = 3 then { s with lay := .four, c := some { u := true, im := true } }
    else s
  match r.opc.toNat with
  | 0x000 => some {}
  | 0x001 => some { immUse := true, seqOk := false }
  | 0x002 => some { a := reg32, seqOk := false }
  | 0x003 => some { d := dV32, immUse := true, seqOk := false }
  | 0x004 => some { a := reg32, seqOk := false }
  | 0x005 => some { seqOk := false }
  | 0x006 => some {}
  | 0x007 => some {}
  | 0x008 => some { immUse := true, seqOk := false }
  | 0x009 => some { a := op64, seqOk := false }
  | 0x00A => some { seqOk := false }
  | 0x00B => some { a := reg32, b := some { u := true }, seqOk := false }
  | 0x00C => some { d := dV32, a := op32, tys := [0, 1, 2, 3, 4, 5, 6], seqOk := false }
  | 0x00D => some { a := op32, seqOk := false }
  | 0x00E => some { a := op64, subs := [0, 1], seqOk := false }
  | 0x00F => some { lay := .mcall, seqOk := false }
  | 0x040 => some (alu2 tyInt true)
  | 0x041 => some (alu2 tyInt true)
  | 0x042 => some (alu2 tyInt true)
  | 0x043 => some (alu2 tyWide false)
  | 0x044 => some { lay := .four, d := dU, a := op, b := op, c := op, tys := tyInt, sat := true }
  | 0x045 => some (alu2 tyWide false)
  | 0x046 => some (alu2 tyWide false)
  | 0x047 => some (alu2 tyInt false)
  | 0x048 => some (alu2 tyInt false)
  | 0x049 => some (alu1 [1, 3, 5, 7] true)
  | 0x04A => some (alu1 [1, 3, 5, 7] true)
  | 0x04B => some (alu2 tyRaw false)
  | 0x04C => some (alu2 tyRaw false)
  | 0x04D => some (alu2 tyRaw false)
  | 0x04E => some (alu1 tyRaw false)
  | 0x04F => some (alu2 tyRaw false)
  | 0x050 => some shift
  | 0x051 => some shift
  | 0x052 => some shift
  | 0x053 => some shift
  | 0x054 => some cnt
  | 0x055 => some cnt
  | 0x056 => some cnt
  | 0x057 => some (alu1 tyRaw false)
  | 0x058 => some (alu1 tyRaw false)
  | 0x059 => some { d := dU, a := op, b := op32, tys := tyWide }
  | 0x05A => some { lay := .four, d := dU, a := op, b := op, c := op32, tys := tyRaw }
  | 0x05B => some { d := dP, a := op, b := op, tys := 0 :: 0xE :: tyInt, subs := [0, 1, 2, 3, 4, 5]
                    extra := fun r => if tyRaw.contains r.ty.toNat && [2, 3, 4, 5].contains r.sub.toNat
                                      then [(5, 7)] else [] }
  | 0x05C => some { lay := .four, d := dV, a := op, b := op, c := prd, tys := tyRaw }
  | 0x080 => some (alu1 tyRaw false)
  | 0x081 =>
    let n := match Opnd.ofBits r.a with | some (.sp n) => n.toNat | _ => 0x05
    some { d := some { v := true, u := !spLane.contains n, w := if spWide.contains n then .w64 else .w32, dst := true }
           a := some { sp := true } }
  | 0x082 => some { a := some { sp := true }, b := op32
                    extra := fun r => match Opnd.ofBits r.a with
                      | some (.sp n) => if spRw.contains n.toNat then [] else [(7, 4)]
                      | _ => [] }
  | 0x083 => some { d := dP, a := prd, b := if sub = 4 then none else some prd, skip := if sub > 4 then [5] else [], subs := [0, 1, 2, 3, 4] }
  | 0x084 => some { d := dV32 }
  | 0x085 => some { a := op32, b := op32 }
  | 0x086 => some { d := some { u := true, w := .ty, dst := true }, a := some { v := true, u := true, w := .ty }
                    tys := tyRaw, noUniRule := true }
  | 0x0C0 => some (f2 tyF3)
  | 0x0C1 => some (f2 [9])
  | 0x0C2 => some (f2 tyF3)
  | 0x0C3 => some { lay := .four, d := dU, a := op, b := op, c := op, tys := tyF3, mod := .rnd, nf := true }
  | 0x0C4 => some { d := dU, a := op, b := op, tys := tyF3, nf := true }
  | 0x0C5 => some { d := dU, a := op, b := op, tys := tyF3, nf := true }
  | 0x0C6 => some { d := dU, a := op, tys := tyF3 }
  | 0x0C7 => some { d := dU, a := op, tys := tyF3 }
  | 0x0C8 => some { d := dP, a := op, b := op, tys := [9], subs := [0, 1, 2, 3, 4, 5, 6, 7], nf := true }
  | 0x0C9 => some { d := dU, a := op, tys := [9, 0xC, 0xD] }
  | 0x0CA => some { d := dV, a := op, b := op, tys := [9], mod := .rnd, nf := true }
  | 0x0CB => some { d := dV, a := op, tys := [9], mod := .rnd, nf := true }
  | 0x0CC => some approx
  | 0x0CD => some approx
  | 0x0CE => some approx
  | 0x0CF => some approx
  | 0x0D0 => some approx
  | 0x0D1 => some { d := dU, a := op, tys := [9], mod := .rnd, nf := true }
  | 0x0D2 =>
    let pr := cvtPair sub r.ty.toNat
    let packed := sub = 0xA || sub = 0xB
    let dstPacked := r.ty.toNat = 0xA || r.ty.toNat = 0xB
    some { d := dU, a := some { op with w := .sub }
           b := if pr.isNone then none else if packed && !dstPacked then some op32
                else if sub = 9 && dstPacked then some { op with w := .sub } else none
           tys := upTo15, subs := upTo15, mod := .rnd, sat := true, nf := true
           extra := fun r => if pr.isNone || (pr == some false && r.sat = 1#1) then [(5, 7)] else [] }
  | 0x0D3 => some { d := dV32, a := some { v := true }, tys := [9], subs := [0, 1, 2], nf := true }
  | 0x0D4 => some { d := dU32, a := op, b := op, tys := [9], subs := [0, 1, 2] }
  | 0x0D5 => some { lay := .four, d := dU32, a := op, b := op, c := op32, tys := [0xA, 0xB], mod := .rnd, nf := true }
  | 0x100 => some { d := dV, a := some { v := true, w := .ty }, b := op32, tys := tyRaw, mod := .upTo 3
                    subs := [0, 1, 2, 3] }
  | 0x101 => some { d := dV, a := some { v := true, w := .ty }, tys := tyRaw, subs := [0, 1, 2] }
  | 0x102 => some { d := dV, a := some { v := true, w := .ty }, b := op32, tys := tyRaw }
  | 0x103 => some { d := dU32, a := prd, noUniRule := true }
  | 0x104 => some { d := dP, a := prd, subs := [0, 1, 2] }
  | 0x105 => some { d := dV32, a := some { v := true, w := .ty }, tys := tyRaw }
  | 0x106 | 0x107 =>
    let o := sub % 8
    let scan := r.opc.toNat = 0x106
    let ok := o < 7 && (scan || sub < 8)
    some { d := some { v := true, u := !scan, w := .ty, dst := true }, a := op
           tys := if ok then scanTys o else [0, 5, 6, 7, 8, 9, 0xE]
           subs := if ok then [sub] else []
           mod := if ok && o != 6 then .zero else .rnd, nf := o = 6, noUniRule := true }
  | 0x108 => some { d := dP }
  | 0x140 => some { d := dU, a := reg32, b := idx, tys := tyAll, mod := .upTo 3, immUse := true }
  | 0x141 => some { d := some { v := true, u := true, w := .ty }, a := reg32, b := idx, tys := tyAll, mod := .upTo 3
                    immUse := true }
  | 0x142 => some { d := dU, a := pair, b := idx, tys := tyAll, mod := .upTo 3, immUse := true }
  | 0x143 => some { d := some { v := true, u := true, w := .ty }, a := pair, b := idx, tys := tyAll, mod := .upTo 3
                    immUse := true }
  | 0x144 => some { a := uop, b := uop }
  | 0x145 => some { d := dU32, a := op64 }
  | 0x146 => some { d := dU64, a := op64 }
  | 0x147 => some { d := dU64, a := op32 }
  | 0x148 => some { a := op32, b := op32 }
  | 0x149 =>
    if sub = 0 then some { a := upair, b := uop }
    else if sub = 1 then some { d := dS64, a := uop, b := uop, subs := [1] }
    else if sub = 2 then some { a := upair, subs := [2] }
    else some { d := dS64, a := uop, b := uop, subs := [], skip := [3, 4, 5] }
  | 0x14A => some { a := upair }
  | 0x14B => some { d := dU32, a := pair }
  | 0x180 => some { lay := .mem, d := dU, a := pair, b := idx, tys := tyAll, mod := .upTo 3, ofsUse := true
                    ords := [0, 1], scopes := scope6, rproOrds := [1] }
  | 0x181 => some { lay := .mem, d := some { v := true, u := true, w := .ty }, a := pair, b := idx, tys := tyAll
                    mod := .upTo 3, ofsUse := true, ords := [0, 2], scopes := scope6 }
  | 0x182 => some { lay := .mem, a := pair, b := idx, mod := .upTo 3, ofsUse := true, ords := [0], scopes := [0] }
  | 0x183 => some { lay := .mem, ords := [1, 2, 3], scopes := scope6, chMax := 0
                    subs := if r.mw.ord = 3 then [0, 1] else [0] }
  | 0x184 =>
    some { lay := .memC, d := dU, a := pair, b := idx, c := some { v := true, u := true, im := sub != 7, w := .cas }
           tys := if sub < 9 then atomTys sub else [0, 5, 6, 7, 8, 9, 0xE], subs := if sub < 9 then [sub] else [], mod := .upTo 3
           ofsUse := true, ords := [0, 1, 2, 3], scopes := scope6, rproOrds := [1, 3] }
  | 0x185 => some { lay := .mem, d := some { v := true, u := true, w := .ty }, a := pair, b := idx
                    tys := if [0, 1, 2, 3, 4, 5, 8].contains sub then atomTys sub else [0, 5, 6, 7, 8, 9, 0xE]
                    subs := [0, 1, 2, 3, 4, 5, 8], mod := .upTo 3, ofsUse := true, ords := [0, 2], scopes := scope6 }
  | 0x1C0 =>
    let uni := match Opnd.ofBits r.d with | some (.s _) => true | _ => false
    let uniC := match Opnd.ofBits r.c with | some (.s _) => true | _ => false
    some { lay := .memC, d := dU32, a := pair, b := idx, c := some { v := true, u := true, im := true, w := .w64 }
           subs := upTo15, mod := .upTo 3, ofsUse := true, ords := [0], scopes := scope6
           ssOk := fun ss => ss.getLsbD 1, extra := fun _ => if uniC && !uni then [(7, 3)] else [] }
  | 0x1C1 => some { lay := .memC, d := pair, a := pair, b := idx
                    c := some { v := true, u := true, im := true, w := .w64 }, mod := .upTo 3, ofsUse := true
                    ords := [0, 2], scopes := scope6, ssOk := fun ss => ss.getLsbD 1 }
  | 0x1C2 => some { lay := .mem, d := dU64, a := pair, b := idx, subs := [0, 1], mod := .upTo 3, ofsUse := true
                    ords := [0, 1], scopes := scope6, ssOk := fun ss => ss.getLsbD 1 }
  | 0x1C3 => some { a := upair, subs := upTo15, mod := .upTo 5 }
  | 0x200 => some bar
  | 0x201 =>
    if sub = 0 then some { a := uop } else if sub = 1 then some { d := dS32, a := uop, subs := [1] }
    else some { d := dS32, a := uop, subs := [], skip := [3] }
  | 0x202 => some bar
  | 0x203 => some { a := uop }
  | 0x204 => some bar
  | 0x205 => some { d := dU32, a := uop }
  | 0x208 => some bar
  | 0x209 => some { a := uop, b := upair }
  | 0x20A => some { d := dS64, a := uop }
  | 0x20B => some { d := dS64, a := uop }
  | 0x20C => some { lay := .four, a := uop, b := uop, c := some { u := true, im := true } }
  | 0x240 => some { d := dS32, a := ublk }
  | 0x241 => some { d := dS32, a := ublk, b := uop }
  | 0x242 => some { d := dU32, a := uop }
  | 0x243 => some bar
  | 0x244 => some { a := uop }
  | 0x280 => some { mod := .upTo 4, subs := [0, 1, 2, 3, 4]
                    extra := fun r => if r.mod.toNat ≤ 4 && sub ≤ 4 && (decide (r.mod.toNat < 3) != decide (sub < 3))
                                      then [(5, 8)] else [] }
  | 0x281 => some { mul with subs := [0, 1] }
  | 0x282 => some { mul with subs := [0, 1, 2, 3] }
  | 0x283 => some { a := some { im := true, lit := true }, subs := [0, 1, 2, 3]
                    extra := fun r => if Opnd.ofBits r.a = some .lit && !(decide (-256 ≤ r.imm.toInt) && decide (r.imm.toInt ≤ 255))
                                      then [(5, 0xB)] else [] }
  | 0x284 => some { subs := [0, 1] }
  | 0x285 => some (rect { a := uop, b := uop, subs := [0, 1, 2, 3] })
  | 0x286 => some (rect { mul with subs := [0, 1, 2, 3], mod := .upTo 4 })
  | 0x287 => if sub = 0 then some { d := dS64, a := uop } else if sub = 1 then some { subs := [1] }
             else some { d := dS64, a := uop, subs := [], skip := [3, 4] }
  | 0x2C0 => some { d := dU32, a := pair }
  | 0x2C1 => some { d := dU, a := op32, tys := 0 :: 0xE :: tyInt }
  | 0x2C2 => some { a := some { u := true, im := true, lit := true, w := .w64 } }
  | 0x300 => some { a := op32 }
  | 0x301 => some { subs := [0, 1, 2], seqOk := false }
  | 0x302 => some {}
  | 0x303 => some {}
  | 0x304 => some { subs := upTo15 }
  | 0x305 => some { a := op32, seqOk := false }
  | 0x340 => some { a := ublk }
  | 0x341 => some { a := ublk }
  | 0x342 =>
    some { lay := .mem, a := ublk, b := some { u := true, im := sub != 7, w := .cas }
           tys := if sub < 9 then atomTys sub else [0, 5, 6, 7, 8, 9, 0xE], subs := if sub < 9 then [sub] else []
           ords := [0, 1, 2, 3], scopes := [4, 5], ssOk := fun ss => ss = 2 }
  | 0x343 => some { lay := .mem, a := ublk, b := some { u := true, im := true, w := .w64 }, subs := upTo15
                    ords := [0, 1, 2, 3], scopes := [4, 5], ssOk := fun ss => ss = 2 }
  | _ => none

/-- Every fault of a word, in no order (02 R35, R36). -/
def faults (cx : DecCtx) (r : Raw) : List DecErr :=
  (if r.grd = 0b1111#4 then [(2, 1)] else [])
  ++ (match opSpec r with
      | none => [(1, 0)]
      | some sp =>
        (if cx.inSeq && !sp.seqOk then [(1, 0)] else [])
        ++ (if r.nf = 1#1 && !sp.nf then [(4, 2)] else [])
        ++ (if sp.lay = .mcall then mcallErrs cx r
            else
              let uni := uniDest sp r
              let noLit := sp.lay == .four
              (if sp.skip.contains 3 then codeErrs 3 r.d else fieldErrs cx r 3 sp.d r.d uni noLit)
              ++ (if sp.skip.contains 4 then codeErrs 4 r.a else fieldErrs cx r 4 sp.a r.a uni noLit)
              ++ (if sp.skip.contains 5 then codeErrs 5 r.b else fieldErrs cx r 5 sp.b r.b uni noLit)
              ++ (if sp.c.isSome then fieldErrs cx r 6 sp.c r.c uni noLit else [])
              ++ (if sp.tys.contains r.ty.toNat then [] else [(5, 7)])
              ++ (if sp.mod.ok r.mod then []
                  else if sp.lay == .mem || sp.lay == .memC then [(6, 8)] else [(5, 8)])
              ++ (if r.sat = 0 || sp.sat then [] else [(5, 9)])
              ++ (if sp.subs.contains r.sub.toNat then [] else [(5, 0xA)])
              ++ (match sp.lay with
                  | .gen => litErrs sp r
                  | .four => if r.hi22 = 0 then [] else [(4, 0xB)]
                  | .mem => memErrs sp r ++ (if sp.ofsUse || r.ofs = 0 then [] else [(4, 0xB)])
                  | .memC => memErrs sp r
                  | .mcall => [])
              ++ sp.extra r))

/-- The order in which faults are reported: the first REASON row, then the lowest FIELD code (02 R36). -/
def DecErr.before (e f : DecErr) : Bool := e.1 < f.1 || (e.1 == f.1 && e.2 ≤ f.2)

/-- The fault a word reports, if it has one (02 R36). -/
def firstFault : List DecErr → Option DecErr
  | [] => none
  | e :: es => match firstFault es with
    | none => some e
    | some f => some (if DecErr.before e f then e else f)

/-! ### From fields to instructions and back -/

/-- The header fields of a word (02 R23, R24). -/
def Raw.hdr (r : Raw) : Hdr where
  look := r.look
  neg := r.grd.getLsbD 3
  pred := r.grd.extractLsb' 0 3
  nf := r.nf = 1#1
  yld := r.yld = 1#1
  ru := r.ru

/-- A word with a header, an opcode, operand fields and X. -/
def Raw.mk' (h : Hdr) (opc : BitVec 10) (d a b : BitVec 10) (x : BitVec 44) : Raw where
  opc := opc
  look := h.look
  grd := BitVec.ofBool h.neg ++ h.pred
  nf := BitVec.ofBool h.nf
  yld := BitVec.ofBool h.yld
  ru := h.ru
  d := d
  a := a
  b := b
  x := x


/-- The instruction of a word without faults: its fields, read by the entry of its opcode. -/
def build (r : Raw) : Option Instr :=
  let h := r.hdr
  let sub := r.sub.toNat
  match r.opc.toNat with
  | 0x000 => some (.nop h)
  | 0x001 => some (.bra h r.imm)
  | 0x002 => do let a ← Opnd.ofBits r.a; pure (.brx h a)
  | 0x003 => do let d ← Opnd.ofBits r.d; pure (.call h d r.imm)
  | 0x004 => do let a ← Opnd.ofBits r.a; pure (.ret h a)
  | 0x005 => some (.exit h)
  | 0x006 => some (.yieldTo h)
  | 0x007 => some (.gsync h)
  | 0x008 => some (.meet h r.imm)
  | 0x009 => do let a ← Opnd.ofBits r.a; pure (.meetg h a r.imm)
  | 0x00A => some (.unmeet h)
  | 0x00B => do let a ← Opnd.ofBits r.a; let b ← Opnd.ofBits r.b; pure (.dispatch h a b)
  | 0x00C => do let ty ← Ty.ofCode r.ty; let d ← Opnd.ofBits r.d; let a ← Opnd.ofBits r.a; pure (.gld h ty d a r.imm)
  | 0x00D => do let a ← Opnd.ofBits r.a; pure (.gadv h a r.imm)
  | 0x00E =>
    if sub = 0 then do let a ← Opnd.ofBits r.a; pure (.gset h a r.imm)
    else if sub = 1 then do let a ← Opnd.ofBits r.a; pure (.gsetLeave h a r.imm)
    else none
  | 0x00F => do let d ← Opnd.ofBits r.d; let a ← Opnd.ofBits r.a; let b ← Opnd.ofBits r.b; let c ← Opnd.ofBits r.c; pure (.mcall h d a b c (r.par 4) (r.par 5) (r.par 6) (r.par 7) r.m)
  | 0x040 => do let ty ← Ty.ofCode r.ty; let d ← Opnd.ofBits r.d; let a ← Opnd.ofBits r.a; let b ← Opnd.ofBits r.b; pure (.iadd h ty (r.sat = 1#1) d a b r.imm)
  | 0x041 => do let ty ← Ty.ofCode r.ty; let d ← Opnd.ofBits r.d; let a ← Opnd.ofBits r.a; let b ← Opnd.ofBits r.b; pure (.isub h ty (r.sat = 1#1) d a b r.imm)
  | 0x042 => do let ty ← Ty.ofCode r.ty; let d ← Opnd.ofBits r.d; let a ← Opnd.ofBits r.a; let b ← Opnd.ofBits r.b; pure (.imul h ty (r.sat = 1#1) d a b r.imm)
  | 0x043 => do let ty ← Ty.ofCode r.ty; let d ← Opnd.ofBits r.d; let a ← Opnd.ofBits r.a; let b ← Opnd.ofBits r.b; pure (.imulh h ty d a b r.imm)
  | 0x044 => do let ty ← Ty.ofCode r.ty; let d ← Opnd.ofBits r.d; let a ← Opnd.ofBits r.a; let b ← Opnd.ofBits r.b; let c ← Opnd.ofBits r.c; pure (.imad h ty (r.sat = 1#1) d a b c)
  | 0x045 => do let ty ← Ty.ofCode r.ty; let d ← Opnd.ofBits r.d; let a ← Opnd.ofBits r.a; let b ← Opnd.ofBits r.b; pure (.idiv h ty d a b r.imm)
  | 0x046 => do let ty ← Ty.ofCode r.ty; let d ← Opnd.ofBits r.d; let a ← Opnd.ofBits r.a; let b ← Opnd.ofBits r.b; pure (.irem h ty d a b r.imm)
  | 0x047 => do let ty ← Ty.ofCode r.ty; let d ← Opnd.ofBits r.d; let a ← Opnd.ofBits r.a; let b ← Opnd.ofBits r.b; pure (.imin h ty d a b r.imm)
  | 0x048 => do let ty ← Ty.ofCode r.ty; let d ← Opnd.ofBits r.d; let a ← Opnd.ofBits r.a; let b ← Opnd.ofBits r.b; pure (.imax h ty d a b r.imm)
  | 0x049 => do let ty ← Ty.ofCode r.ty; let d ← Opnd.ofBits r.d; let a ← Opnd.ofBits r.a; pure (.iabs h ty (r.sat = 1#1) d a r.imm)
  | 0x04A => do let ty ← Ty.ofCode r.ty; let d ← Opnd.ofBits r.d; let a ← Opnd.ofBits r.a; pure (.ineg h ty (r.sat = 1#1) d a r.imm)
  | 0x04B => do let ty ← Ty.ofCode r.ty; let d ← Opnd.ofBits r.d; let a ← Opnd.ofBits r.a; let b ← Opnd.ofBits r.b; pure (.and h ty d a b r.imm)
  | 0x04C => do let ty ← Ty.ofCode r.ty; let d ← Opnd.ofBits r.d; let a ← Opnd.ofBits r.a; let b ← Opnd.ofBits r.b; pure (.or h ty d a b r.imm)
  | 0x04D => do let ty ← Ty.ofCode r.ty; let d ← Opnd.ofBits r.d; let a ← Opnd.ofBits r.a; let b ← Opnd.ofBits r.b; pure (.xor h ty d a b r.imm)
  | 0x04E => do let ty ← Ty.ofCode r.ty; let d ← Opnd.ofBits r.d; let a ← Opnd.ofBits r.a; pure (.not h ty d a r.imm)
  | 0x04F => do let ty ← Ty.ofCode r.ty; let d ← Opnd.ofBits r.d; let a ← Opnd.ofBits r.a; let b ← Opnd.ofBits r.b; pure (.andn h ty d a b r.imm)
  | 0x050 => do let ty ← Ty.ofCode r.ty; let d ← Opnd.ofBits r.d; let a ← Opnd.ofBits r.a; let b ← Opnd.ofBits r.b; pure (.shl h ty d a b r.imm)
  | 0x051 => do let ty ← Ty.ofCode r.ty; let d ← Opnd.ofBits r.d; let a ← Opnd.ofBits r.a; let b ← Opnd.ofBits r.b; pure (.shr h ty d a b r.imm)
  | 0x052 => do let ty ← Ty.ofCode r.ty; let d ← Opnd.ofBits r.d; let a ← Opnd.ofBits r.a; let b ← Opnd.ofBits r.b; pure (.sar h ty d a b r.imm)
  | 0x053 => do let ty ← Ty.ofCode r.ty; let d ← Opnd.ofBits r.d; let a ← Opnd.ofBits r.a; let b ← Opnd.ofBits r.b; pure (.rol h ty d a b r.imm)
  | 0x054 => do let ty ← Ty.ofCode r.ty; let d ← Opnd.ofBits r.d; let a ← Opnd.ofBits r.a; pure (.popc h ty d a r.imm)
  | 0x055 => do let ty ← Ty.ofCode r.ty; let d ← Opnd.ofBits r.d; let a ← Opnd.ofBits r.a; pure (.clz h ty d a r.imm)
  | 0x056 => do let ty ← Ty.ofCode r.ty; let d ← Opnd.ofBits r.d; let a ← Opnd.ofBits r.a; pure (.ctz h ty d a r.imm)
  | 0x057 => do let ty ← Ty.ofCode r.ty; let d ← Opnd.ofBits r.d; let a ← Opnd.ofBits r.a; pure (.brev h ty d a r.imm)
  | 0x058 => do let ty ← Ty.ofCode r.ty; let d ← Opnd.ofBits r.d; let a ← Opnd.ofBits r.a; pure (.bswap h ty d a r.imm)
  | 0x059 => do let ty ← Ty.ofCode r.ty; let d ← Opnd.ofBits r.d; let a ← Opnd.ofBits r.a; let b ← Opnd.ofBits r.b; pure (.bfx h ty d a b r.imm)
  | 0x05A => do let ty ← Ty.ofCode r.ty; let d ← Opnd.ofBits r.d; let a ← Opnd.ofBits r.a; let b ← Opnd.ofBits r.b; let c ← Opnd.ofBits r.c; pure (.bfi h ty d a b c)
  | 0x05B => do let ty ← Ty.ofCode r.ty; let d ← Opnd.ofBits r.d; let a ← Opnd.ofBits r.a; let b ← Opnd.ofBits r.b; pure (.icmp h ty r.sub d a b r.imm)
  | 0x05C => do let ty ← Ty.ofCode r.ty; let d ← Opnd.ofBits r.d; let a ← Opnd.ofBits r.a; let b ← Opnd.ofBits r.b; let c ← Opnd.ofBits r.c; pure (.sel h ty d a b c)
  | 0x080 => do let ty ← Ty.ofCode r.ty; let d ← Opnd.ofBits r.d; let a ← Opnd.ofBits r.a; pure (.mov h ty d a r.imm)
  | 0x081 => do let d ← Opnd.ofBits r.d; let a ← Opnd.ofBits r.a; pure (.rdsp h d a)
  | 0x082 => do let a ← Opnd.ofBits r.a; let b ← Opnd.ofBits r.b; pure (.wrsp h a b r.imm)
  | 0x083 => do let d ← Opnd.ofBits r.d; let a ← Opnd.ofBits r.a; let b ← Opnd.ofBits r.b; pure (.plop h r.sub d a b)
  | 0x084 => do let d ← Opnd.ofBits r.d; pure (.p2v h d)
  | 0x085 => do let a ← Opnd.ofBits r.a; let b ← Opnd.ofBits r.b; pure (.v2p h a b r.imm)
  | 0x086 => do let ty ← Ty.ofCode r.ty; let d ← Opnd.ofBits r.d; let a ← Opnd.ofBits r.a; pure (.rdfirst h ty d a)
  | 0x0C0 => do let ty ← Ty.ofCode r.ty; let d ← Opnd.ofBits r.d; let a ← Opnd.ofBits r.a; let b ← Opnd.ofBits r.b; pure (.fadd h ty r.mod d a b r.imm)
  | 0x0C1 => do let d ← Opnd.ofBits r.d; let a ← Opnd.ofBits r.a; let b ← Opnd.ofBits r.b; pure (.fsub h r.mod d a b r.imm)
  | 0x0C2 => do let ty ← Ty.ofCode r.ty; let d ← Opnd.ofBits r.d; let a ← Opnd.ofBits r.a; let b ← Opnd.ofBits r.b; pure (.fmul h ty r.mod d a b r.imm)
  | 0x0C3 => do let ty ← Ty.ofCode r.ty; let d ← Opnd.ofBits r.d; let a ← Opnd.ofBits r.a; let b ← Opnd.ofBits r.b; let c ← Opnd.ofBits r.c; pure (.ffma h ty r.mod d a b c)
  | 0x0C4 => do let ty ← Ty.ofCode r.ty; let d ← Opnd.ofBits r.d; let a ← Opnd.ofBits r.a; let b ← Opnd.ofBits r.b; pure (.fmin h ty d a b r.imm)
  | 0x0C5 => do let ty ← Ty.ofCode r.ty; let d ← Opnd.ofBits r.d; let a ← Opnd.ofBits r.a; let b ← Opnd.ofBits r.b; pure (.fmax h ty d a b r.imm)
  | 0x0C6 => do let ty ← Ty.ofCode r.ty; let d ← Opnd.ofBits r.d; let a ← Opnd.ofBits r.a; pure (.fabs h ty d a r.imm)
  | 0x0C7 => do let ty ← Ty.ofCode r.ty; let d ← Opnd.ofBits r.d; let a ← Opnd.ofBits r.a; pure (.fneg h ty d a r.imm)
  | 0x0C8 => do let d ← Opnd.ofBits r.d; let a ← Opnd.ofBits r.a; let b ← Opnd.ofBits r.b; pure (.fcmp h r.sub d a b r.imm)
  | 0x0C9 => do let ty ← Ty.ofCode r.ty; let d ← Opnd.ofBits r.d; let a ← Opnd.ofBits r.a; pure (.fcls h ty d a r.imm)
  | 0x0CA => do let d ← Opnd.ofBits r.d; let a ← Opnd.ofBits r.a; let b ← Opnd.ofBits r.b; pure (.fdiv h r.mod d a b r.imm)
  | 0x0CB => do let d ← Opnd.ofBits r.d; let a ← Opnd.ofBits r.a; pure (.fsqrt h r.mod d a r.imm)
  | 0x0CC => do let d ← Opnd.ofBits r.d; let a ← Opnd.ofBits r.a; pure (.frcp h d a r.imm)
  | 0x0CD => do let d ← Opnd.ofBits r.d; let a ← Opnd.ofBits r.a; pure (.frsq h d a r.imm)
  | 0x0CE => do let d ← Opnd.ofBits r.d; let a ← Opnd.ofBits r.a; pure (.fexp2 h d a r.imm)
  | 0x0CF => do let d ← Opnd.ofBits r.d; let a ← Opnd.ofBits r.a; pure (.flog2 h d a r.imm)
  | 0x0D0 => do let d ← Opnd.ofBits r.d; let a ← Opnd.ofBits r.a; pure (.ftanh h d a r.imm)
  | 0x0D1 => do let d ← Opnd.ofBits r.d; let a ← Opnd.ofBits r.a; pure (.frnd h r.mod d a r.imm)
  | 0x0D2 => do let ty ← Ty.ofCode r.ty; let sty ← Ty.ofCode r.sub; let d ← Opnd.ofBits r.d; let a ← Opnd.ofBits r.a; let b ← Opnd.ofBits r.b; pure (.cvt h ty sty r.mod (r.sat = 1#1) d a b r.imm)
  | 0x0D3 => do let d ← Opnd.ofBits r.d; let a ← Opnd.ofBits r.a; pure (.bxq h r.sub d a)
  | 0x0D4 => do let d ← Opnd.ofBits r.d; let a ← Opnd.ofBits r.a; let b ← Opnd.ofBits r.b; pure (.bxd h r.sub d a b r.imm)
  | 0x0D5 => do let ty ← Ty.ofCode r.ty; let d ← Opnd.ofBits r.d; let a ← Opnd.ofBits r.a; let b ← Opnd.ofBits r.b; let c ← Opnd.ofBits r.c; pure (.fdot2 h ty r.mod d a b c)
  | 0x100 => do let ty ← Ty.ofCode r.ty; let d ← Opnd.ofBits r.d; let a ← Opnd.ofBits r.a; let b ← Opnd.ofBits r.b; pure (.shfl h ty r.mod r.sub d a b r.imm)
  | 0x101 => do let ty ← Ty.ofCode r.ty; let d ← Opnd.ofBits r.d; let a ← Opnd.ofBits r.a; pure (.qswap h ty r.sub d a)
  | 0x102 => do let ty ← Ty.ofCode r.ty; let d ← Opnd.ofBits r.d; let a ← Opnd.ofBits r.a; let b ← Opnd.ofBits r.b; pure (.qbcast h ty d a b r.imm)
  | 0x103 => do let d ← Opnd.ofBits r.d; let a ← Opnd.ofBits r.a; pure (.ballot h d a)
  | 0x104 => do let d ← Opnd.ofBits r.d; let a ← Opnd.ofBits r.a; pure (.vote h r.sub d a)
  | 0x105 => do let ty ← Ty.ofCode r.ty; let d ← Opnd.ofBits r.d; let a ← Opnd.ofBits r.a; pure (.matchLanes h ty d a)
  | 0x106 => do let ty ← Ty.ofCode r.ty; let d ← Opnd.ofBits r.d; let a ← Opnd.ofBits r.a; pure (.scan h ty r.mod r.sub d a r.imm)
  | 0x107 => do let ty ← Ty.ofCode r.ty; let d ← Opnd.ofBits r.d; let a ← Opnd.ofBits r.a; pure (.redux h ty r.mod r.sub d a r.imm)
  | 0x108 => do let d ← Opnd.ofBits r.d; pure (.elect h d)
  | 0x140 => do let ty ← Ty.ofCode r.ty; let d ← Opnd.ofBits r.d; let a ← Opnd.ofBits r.a; let b ← Opnd.ofBits r.b; pure (.lds h ty r.mod d a b r.imm)
  | 0x141 => do let ty ← Ty.ofCode r.ty; let d ← Opnd.ofBits r.d; let a ← Opnd.ofBits r.a; let b ← Opnd.ofBits r.b; pure (.sts h ty r.mod d a b r.imm)
  | 0x142 => do let ty ← Ty.ofCode r.ty; let d ← Opnd.ofBits r.d; let a ← Opnd.ofBits r.a; let b ← Opnd.ofBits r.b; pure (.ldh h ty r.mod d a b r.imm)
  | 0x143 => do let ty ← Ty.ofCode r.ty; let d ← Opnd.ofBits r.d; let a ← Opnd.ofBits r.a; let b ← Opnd.ofBits r.b; pure (.sth h ty r.mod d a b r.imm)
  | 0x144 => do let a ← Opnd.ofBits r.a; let b ← Opnd.ofBits r.b; pure (.spzero h a b r.imm)
  | 0x145 => do let d ← Opnd.ofBits r.d; let a ← Opnd.ofBits r.a; pure (.tlook h d a r.imm)
  | 0x146 => do let d ← Opnd.ofBits r.d; let a ← Opnd.ofBits r.a; pure (.tins h d a r.imm)
  | 0x147 => do let d ← Opnd.ofBits r.d; let a ← Opnd.ofBits r.a; pure (.tinv h d a r.imm)
  | 0x148 => do let a ← Opnd.ofBits r.a; let b ← Opnd.ofBits r.b; pure (.tmark h a b r.imm)
  | 0x149 =>
    if sub = 0 then do let a ← Opnd.ofBits r.a; let b ← Opnd.ofBits r.b; pure (.hgive h a b r.imm)
    else if sub = 1 then do let d ← Opnd.ofBits r.d; let a ← Opnd.ofBits r.a; let b ← Opnd.ofBits r.b; pure (.hgiveNew h d a b r.imm)
    else if sub = 2 then do let a ← Opnd.ofBits r.a; pure (.hgiveRetire h a)
    else none
  | 0x14A => do let a ← Opnd.ofBits r.a; pure (.htake h a)
  | 0x14B => do let d ← Opnd.ofBits r.d; let a ← Opnd.ofBits r.a; pure (.hqry h d a)
  | 0x180 => do let ty ← Ty.ofCode r.ty; let d ← Opnd.ofBits r.d; let a ← Opnd.ofBits r.a; let b ← Opnd.ofBits r.b; pure (.ld h ty r.mod d a b r.mw r.ofs)
  | 0x181 => do let ty ← Ty.ofCode r.ty; let d ← Opnd.ofBits r.d; let a ← Opnd.ofBits r.a; let b ← Opnd.ofBits r.b; pure (.st h ty r.mod d a b r.mw r.ofs)
  | 0x182 => do let a ← Opnd.ofBits r.a; let b ← Opnd.ofBits r.b; pure (.pf h r.mod a b r.mw r.ofs)
  | 0x183 => some (.fence h r.sub r.mw)
  | 0x184 => do let ty ← Ty.ofCode r.ty; let d ← Opnd.ofBits r.d; let a ← Opnd.ofBits r.a; let b ← Opnd.ofBits r.b; let c ← Opnd.ofBits r.c; pure (.atom h ty r.mod r.sub d a b c r.mw r.ofs10)
  | 0x185 => do let ty ← Ty.ofCode r.ty; let d ← Opnd.ofBits r.d; let a ← Opnd.ofBits r.a; let b ← Opnd.ofBits r.b; pure (.red h ty r.mod r.sub d a b r.mw r.ofs)
  | 0x1C0 => do let d ← Opnd.ofBits r.d; let a ← Opnd.ofBits r.a; let b ← Opnd.ofBits r.b; let c ← Opnd.ofBits r.c; pure (.stx h r.mod r.sub d a b c r.mw r.ofs10)
  | 0x1C1 => do let d ← Opnd.ofBits r.d; let a ← Opnd.ofBits r.a; let b ← Opnd.ofBits r.b; let c ← Opnd.ofBits r.c; pure (.stinit h r.mod d a b c r.mw r.ofs10)
  | 0x1C2 => do let d ← Opnd.ofBits r.d; let a ← Opnd.ofBits r.a; let b ← Opnd.ofBits r.b; pure (.stqry h r.mod r.sub d a b r.mw r.ofs)
  | 0x1C3 => do let a ← Opnd.ofBits r.a; pure (.stload h r.mod r.sub a)
  | 0x200 => do let a ← Opnd.ofBits r.a; let b ← Opnd.ofBits r.b; pure (.binit h a b r.imm)
  | 0x201 =>
    if sub = 0 then do let a ← Opnd.ofBits r.a; pure (.barrive h a r.imm)
    else if sub = 1 then do let d ← Opnd.ofBits r.d; let a ← Opnd.ofBits r.a; pure (.barrivePh h d a r.imm)
    else none
  | 0x202 => do let a ← Opnd.ofBits r.a; let b ← Opnd.ofBits r.b; pure (.bwait h a b r.imm)
  | 0x203 => do let a ← Opnd.ofBits r.a; pure (.bsync h a r.imm)
  | 0x204 => do let a ← Opnd.ofBits r.a; let b ← Opnd.ofBits r.b; pure (.bexpect h a b r.imm)
  | 0x205 => do let d ← Opnd.ofBits r.d; let a ← Opnd.ofBits r.a; pure (.bqry h d a r.imm)
  | 0x208 => do let a ← Opnd.ofBits r.a; let b ← Opnd.ofBits r.b; pure (.qinit h a b r.imm)
  | 0x209 => do let a ← Opnd.ofBits r.a; let b ← Opnd.ofBits r.b; pure (.qpush h a b r.imm)
  | 0x20A => do let d ← Opnd.ofBits r.d; let a ← Opnd.ofBits r.a; pure (.qpop h d a r.imm)
  | 0x20B => do let d ← Opnd.ofBits r.d; let a ← Opnd.ofBits r.a; pure (.qtry h d a r.imm)
  | 0x20C => do let a ← Opnd.ofBits r.a; let b ← Opnd.ofBits r.b; let c ← Opnd.ofBits r.c; pure (.qallow h a b c)
  | 0x240 => do let d ← Opnd.ofBits r.d; let a ← Opnd.ofBits r.a; pure (.cpy h d a)
  | 0x241 => do let d ← Opnd.ofBits r.d; let a ← Opnd.ofBits r.a; let b ← Opnd.ofBits r.b; pure (.cpyt h d a b r.imm)
  | 0x242 => do let d ← Opnd.ofBits r.d; let a ← Opnd.ofBits r.a; pure (.cpwp h d a r.imm)
  | 0x243 => do let a ← Opnd.ofBits r.a; let b ← Opnd.ofBits r.b; pure (.cpwait h a b r.imm)
  | 0x244 => do let a ← Opnd.ofBits r.a; pure (.cpfence h a r.imm)
  | 0x280 => some (.mcfg h r.mod r.sub)
  | 0x281 => do let a ← Opnd.ofBits r.a; let b ← Opnd.ofBits r.b; pure (.mldb h r.ty (r.sat = 1#1) r.sub a b r.imm)
  | 0x282 => do let a ← Opnd.ofBits r.a; let b ← Opnd.ofBits r.b; pure (.mmb h r.ty (r.sat = 1#1) r.sub a b r.imm)
  | 0x283 => do let a ← Opnd.ofBits r.a; pure (.scacc h r.sub a r.imm)
  | 0x284 => some (.mzero h r.sub)
  | 0x285 => do let a ← Opnd.ofBits r.a; let b ← Opnd.ofBits r.b; pure (.mldc h r.sub a b r.imm)
  | 0x286 => do let a ← Opnd.ofBits r.a; let b ← Opnd.ofBits r.b; pure (.mdrain h r.ty r.mod (r.sat = 1#1) r.sub a b r.imm)
  | 0x287 =>
    if sub = 0 then do let d ← Opnd.ofBits r.d; let a ← Opnd.ofBits r.a; pure (.merr h d a r.imm)
    else if sub = 1 then some (.merrClr h)
    else none
  | 0x2C0 => do let d ← Opnd.ofBits r.d; let a ← Opnd.ofBits r.a; pure (.enq h d a)
  | 0x2C1 => do let ty ← Ty.ofCode r.ty; let d ← Opnd.ofBits r.d; let a ← Opnd.ofBits r.a; pure (.ldqe h ty d a r.imm)
  | 0x2C2 => do let a ← Opnd.ofBits r.a; pure (.tmset h a r.imm)
  | 0x300 => do let a ← Opnd.ofBits r.a; pure (.trap h a r.imm)
  | 0x301 =>
    if sub = 0 then some (.rtiRe h)
    else if sub = 1 then some (.rtiNext h)
    else if sub = 2 then some (.rtiDrop h)
    else none
  | 0x302 => some (.region h)
  | 0x303 => some (.ppoint h)
  | 0x304 => some (.brk h r.sub)
  | 0x305 => do let a ← Opnd.ofBits r.a; pure (.sleep h a r.imm)
  | 0x340 => do let a ← Opnd.ofBits r.a; pure (.xput h a)
  | 0x341 => do let a ← Opnd.ofBits r.a; pure (.xget h a)
  | 0x342 => do let ty ← Ty.ofCode r.ty; let a ← Opnd.ofBits r.a; let b ← Opnd.ofBits r.b; pure (.xatom h ty r.sub a b r.mw)
  | 0x343 => do let a ← Opnd.ofBits r.a; let b ← Opnd.ofBits r.b; pure (.xstx h r.sub a b r.mw)
  | _ => none

/-- The fields of an instruction's word, written from the same entries; none for an event, which is no word. -/
def rawOf : Instr → Option Raw
  | .nop h => some (Raw.mk' h 0x000 0 0 0 (Raw.gen 0x0 0 0 0 0))
  | .bra h imm => some (Raw.mk' h 0x001 0 0 0 (Raw.gen 0x0 0 0 0 imm))
  | .brx h a => some (Raw.mk' h 0x002 0 a.bits 0 (Raw.gen 0x0 0 0 0 0))
  | .call h d imm => some (Raw.mk' h 0x003 d.bits 0 0 (Raw.gen 0x0 0 0 0 imm))
  | .ret h a => some (Raw.mk' h 0x004 0 a.bits 0 (Raw.gen 0x0 0 0 0 0))
  | .exit h => some (Raw.mk' h 0x005 0 0 0 (Raw.gen 0x0 0 0 0 0))
  | .yieldTo h => some (Raw.mk' h 0x006 0 0 0 (Raw.gen 0x0 0 0 0 0))
  | .gsync h => some (Raw.mk' h 0x007 0 0 0 (Raw.gen 0x0 0 0 0 0))
  | .meet h imm => some (Raw.mk' h 0x008 0 0 0 (Raw.gen 0x0 0 0 0 imm))
  | .meetg h a imm => some (Raw.mk' h 0x009 0 a.bits 0 (Raw.gen 0x0 0 0 0 imm))
  | .unmeet h => some (Raw.mk' h 0x00A 0 0 0 (Raw.gen 0x0 0 0 0 0))
  | .dispatch h a b => some (Raw.mk' h 0x00B 0 a.bits b.bits (Raw.gen 0x0 0 0 0 0))
  | .gld h ty d a imm => some (Raw.mk' h 0x00C d.bits a.bits 0 (Raw.gen ty.code 0 0 0 imm))
  | .gadv h a imm => some (Raw.mk' h 0x00D 0 a.bits 0 (Raw.gen 0x0 0 0 0 imm))
  | .gset h a imm => some (Raw.mk' h 0x00E 0 a.bits 0 (Raw.gen 0x0 0 0 0 imm))
  | .gsetLeave h a imm => some (Raw.mk' h 0x00E 0 a.bits 0 (Raw.gen 0x0 0 0 1 imm))
  | .mcall h d a b c p4 p5 p6 p7 m => some (Raw.mk' h 0x00F d.bits a.bits b.bits (m ++ p7 ++ p6 ++ p5 ++ p4 ++ c.bits))
  | .iadd h ty sat d a b imm => some (Raw.mk' h 0x040 d.bits a.bits b.bits (Raw.gen ty.code 0 (BitVec.ofBool sat) 0 imm))
  | .isub h ty sat d a b imm => some (Raw.mk' h 0x041 d.bits a.bits b.bits (Raw.gen ty.code 0 (BitVec.ofBool sat) 0 imm))
  | .imul h ty sat d a b imm => some (Raw.mk' h 0x042 d.bits a.bits b.bits (Raw.gen ty.code 0 (BitVec.ofBool sat) 0 imm))
  | .imulh h ty d a b imm => some (Raw.mk' h 0x043 d.bits a.bits b.bits (Raw.gen ty.code 0 0 0 imm))
  | .imad h ty sat d a b c => some (Raw.mk' h 0x044 d.bits a.bits b.bits (Raw.gen ty.code 0 (BitVec.ofBool sat) 0 (0#22 ++ c.bits)))
  | .idiv h ty d a b imm => some (Raw.mk' h 0x045 d.bits a.bits b.bits (Raw.gen ty.code 0 0 0 imm))
  | .irem h ty d a b imm => some (Raw.mk' h 0x046 d.bits a.bits b.bits (Raw.gen ty.code 0 0 0 imm))
  | .imin h ty d a b imm => some (Raw.mk' h 0x047 d.bits a.bits b.bits (Raw.gen ty.code 0 0 0 imm))
  | .imax h ty d a b imm => some (Raw.mk' h 0x048 d.bits a.bits b.bits (Raw.gen ty.code 0 0 0 imm))
  | .iabs h ty sat d a imm => some (Raw.mk' h 0x049 d.bits a.bits 0 (Raw.gen ty.code 0 (BitVec.ofBool sat) 0 imm))
  | .ineg h ty sat d a imm => some (Raw.mk' h 0x04A d.bits a.bits 0 (Raw.gen ty.code 0 (BitVec.ofBool sat) 0 imm))
  | .and h ty d a b imm => some (Raw.mk' h 0x04B d.bits a.bits b.bits (Raw.gen ty.code 0 0 0 imm))
  | .or h ty d a b imm => some (Raw.mk' h 0x04C d.bits a.bits b.bits (Raw.gen ty.code 0 0 0 imm))
  | .xor h ty d a b imm => some (Raw.mk' h 0x04D d.bits a.bits b.bits (Raw.gen ty.code 0 0 0 imm))
  | .not h ty d a imm => some (Raw.mk' h 0x04E d.bits a.bits 0 (Raw.gen ty.code 0 0 0 imm))
  | .andn h ty d a b imm => some (Raw.mk' h 0x04F d.bits a.bits b.bits (Raw.gen ty.code 0 0 0 imm))
  | .shl h ty d a b imm => some (Raw.mk' h 0x050 d.bits a.bits b.bits (Raw.gen ty.code 0 0 0 imm))
  | .shr h ty d a b imm => some (Raw.mk' h 0x051 d.bits a.bits b.bits (Raw.gen ty.code 0 0 0 imm))
  | .sar h ty d a b imm => some (Raw.mk' h 0x052 d.bits a.bits b.bits (Raw.gen ty.code 0 0 0 imm))
  | .rol h ty d a b imm => some (Raw.mk' h 0x053 d.bits a.bits b.bits (Raw.gen ty.code 0 0 0 imm))
  | .popc h ty d a imm => some (Raw.mk' h 0x054 d.bits a.bits 0 (Raw.gen ty.code 0 0 0 imm))
  | .clz h ty d a imm => some (Raw.mk' h 0x055 d.bits a.bits 0 (Raw.gen ty.code 0 0 0 imm))
  | .ctz h ty d a imm => some (Raw.mk' h 0x056 d.bits a.bits 0 (Raw.gen ty.code 0 0 0 imm))
  | .brev h ty d a imm => some (Raw.mk' h 0x057 d.bits a.bits 0 (Raw.gen ty.code 0 0 0 imm))
  | .bswap h ty d a imm => some (Raw.mk' h 0x058 d.bits a.bits 0 (Raw.gen ty.code 0 0 0 imm))
  | .bfx h ty d a b imm => some (Raw.mk' h 0x059 d.bits a.bits b.bits (Raw.gen ty.code 0 0 0 imm))
  | .bfi h ty d a b c => some (Raw.mk' h 0x05A d.bits a.bits b.bits (Raw.gen ty.code 0 0 0 (0#22 ++ c.bits)))
  | .icmp h ty sub d a b imm => some (Raw.mk' h 0x05B d.bits a.bits b.bits (Raw.gen ty.code 0 0 sub imm))
  | .sel h ty d a b c => some (Raw.mk' h 0x05C d.bits a.bits b.bits (Raw.gen ty.code 0 0 0 (0#22 ++ c.bits)))
  | .mov h ty d a imm => some (Raw.mk' h 0x080 d.bits a.bits 0 (Raw.gen ty.code 0 0 0 imm))
  | .rdsp h d a => some (Raw.mk' h 0x081 d.bits a.bits 0 (Raw.gen 0x0 0 0 0 0))
  | .wrsp h a b imm => some (Raw.mk' h 0x082 0 a.bits b.bits (Raw.gen 0x0 0 0 0 imm))
  | .plop h sub d a b => some (Raw.mk' h 0x083 d.bits a.bits b.bits (Raw.gen 0x0 0 0 sub 0))
  | .p2v h d => some (Raw.mk' h 0x084 d.bits 0 0 (Raw.gen 0x0 0 0 0 0))
  | .v2p h a b imm => some (Raw.mk' h 0x085 0 a.bits b.bits (Raw.gen 0x0 0 0 0 imm))
  | .rdfirst h ty d a => some (Raw.mk' h 0x086 d.bits a.bits 0 (Raw.gen ty.code 0 0 0 0))
  | .fadd h ty mod d a b imm => some (Raw.mk' h 0x0C0 d.bits a.bits b.bits (Raw.gen ty.code mod 0 0 imm))
  | .fsub h mod d a b imm => some (Raw.mk' h 0x0C1 d.bits a.bits b.bits (Raw.gen 0x9 mod 0 0 imm))
  | .fmul h ty mod d a b imm => some (Raw.mk' h 0x0C2 d.bits a.bits b.bits (Raw.gen ty.code mod 0 0 imm))
  | .ffma h ty mod d a b c => some (Raw.mk' h 0x0C3 d.bits a.bits b.bits (Raw.gen ty.code mod 0 0 (0#22 ++ c.bits)))
  | .fmin h ty d a b imm => some (Raw.mk' h 0x0C4 d.bits a.bits b.bits (Raw.gen ty.code 0 0 0 imm))
  | .fmax h ty d a b imm => some (Raw.mk' h 0x0C5 d.bits a.bits b.bits (Raw.gen ty.code 0 0 0 imm))
  | .fabs h ty d a imm => some (Raw.mk' h 0x0C6 d.bits a.bits 0 (Raw.gen ty.code 0 0 0 imm))
  | .fneg h ty d a imm => some (Raw.mk' h 0x0C7 d.bits a.bits 0 (Raw.gen ty.code 0 0 0 imm))
  | .fcmp h sub d a b imm => some (Raw.mk' h 0x0C8 d.bits a.bits b.bits (Raw.gen 0x9 0 0 sub imm))
  | .fcls h ty d a imm => some (Raw.mk' h 0x0C9 d.bits a.bits 0 (Raw.gen ty.code 0 0 0 imm))
  | .fdiv h mod d a b imm => some (Raw.mk' h 0x0CA d.bits a.bits b.bits (Raw.gen 0x9 mod 0 0 imm))
  | .fsqrt h mod d a imm => some (Raw.mk' h 0x0CB d.bits a.bits 0 (Raw.gen 0x9 mod 0 0 imm))
  | .frcp h d a imm => some (Raw.mk' h 0x0CC d.bits a.bits 0 (Raw.gen 0x9 0 0 0 imm))
  | .frsq h d a imm => some (Raw.mk' h 0x0CD d.bits a.bits 0 (Raw.gen 0x9 0 0 0 imm))
  | .fexp2 h d a imm => some (Raw.mk' h 0x0CE d.bits a.bits 0 (Raw.gen 0x9 0 0 0 imm))
  | .flog2 h d a imm => some (Raw.mk' h 0x0CF d.bits a.bits 0 (Raw.gen 0x9 0 0 0 imm))
  | .ftanh h d a imm => some (Raw.mk' h 0x0D0 d.bits a.bits 0 (Raw.gen 0x9 0 0 0 imm))
  | .frnd h mod d a imm => some (Raw.mk' h 0x0D1 d.bits a.bits 0 (Raw.gen 0x9 mod 0 0 imm))
  | .cvt h ty sty mod sat d a b imm => some (Raw.mk' h 0x0D2 d.bits a.bits b.bits (Raw.gen ty.code mod (BitVec.ofBool sat) sty.code imm))
  | .bxq h sub d a => some (Raw.mk' h 0x0D3 d.bits a.bits 0 (Raw.gen 0x9 0 0 sub 0))
  | .bxd h sub d a b imm => some (Raw.mk' h 0x0D4 d.bits a.bits b.bits (Raw.gen 0x9 0 0 sub imm))
  | .fdot2 h ty mod d a b c => some (Raw.mk' h 0x0D5 d.bits a.bits b.bits (Raw.gen ty.code mod 0 0 (0#22 ++ c.bits)))
  | .shfl h ty mod sub d a b imm => some (Raw.mk' h 0x100 d.bits a.bits b.bits (Raw.gen ty.code mod 0 sub imm))
  | .qswap h ty sub d a => some (Raw.mk' h 0x101 d.bits a.bits 0 (Raw.gen ty.code 0 0 sub 0))
  | .qbcast h ty d a b imm => some (Raw.mk' h 0x102 d.bits a.bits b.bits (Raw.gen ty.code 0 0 0 imm))
  | .ballot h d a => some (Raw.mk' h 0x103 d.bits a.bits 0 (Raw.gen 0x0 0 0 0 0))
  | .vote h sub d a => some (Raw.mk' h 0x104 d.bits a.bits 0 (Raw.gen 0x0 0 0 sub 0))
  | .matchLanes h ty d a => some (Raw.mk' h 0x105 d.bits a.bits 0 (Raw.gen ty.code 0 0 0 0))
  | .scan h ty mod sub d a imm => some (Raw.mk' h 0x106 d.bits a.bits 0 (Raw.gen ty.code mod 0 sub imm))
  | .redux h ty mod sub d a imm => some (Raw.mk' h 0x107 d.bits a.bits 0 (Raw.gen ty.code mod 0 sub imm))
  | .elect h d => some (Raw.mk' h 0x108 d.bits 0 0 (Raw.gen 0x0 0 0 0 0))
  | .lds h ty mod d a b imm => some (Raw.mk' h 0x140 d.bits a.bits b.bits (Raw.gen ty.code mod 0 0 imm))
  | .sts h ty mod d a b imm => some (Raw.mk' h 0x141 d.bits a.bits b.bits (Raw.gen ty.code mod 0 0 imm))
  | .ldh h ty mod d a b imm => some (Raw.mk' h 0x142 d.bits a.bits b.bits (Raw.gen ty.code mod 0 0 imm))
  | .sth h ty mod d a b imm => some (Raw.mk' h 0x143 d.bits a.bits b.bits (Raw.gen ty.code mod 0 0 imm))
  | .spzero h a b imm => some (Raw.mk' h 0x144 0 a.bits b.bits (Raw.gen 0x0 0 0 0 imm))
  | .tlook h d a imm => some (Raw.mk' h 0x145 d.bits a.bits 0 (Raw.gen 0x0 0 0 0 imm))
  | .tins h d a imm => some (Raw.mk' h 0x146 d.bits a.bits 0 (Raw.gen 0x0 0 0 0 imm))
  | .tinv h d a imm => some (Raw.mk' h 0x147 d.bits a.bits 0 (Raw.gen 0x0 0 0 0 imm))
  | .tmark h a b imm => some (Raw.mk' h 0x148 0 a.bits b.bits (Raw.gen 0x0 0 0 0 imm))
  | .hgive h a b imm => some (Raw.mk' h 0x149 0 a.bits b.bits (Raw.gen 0x0 0 0 0 imm))
  | .hgiveNew h d a b imm => some (Raw.mk' h 0x149 d.bits a.bits b.bits (Raw.gen 0x0 0 0 1 imm))
  | .hgiveRetire h a => some (Raw.mk' h 0x149 0 a.bits 0 (Raw.gen 0x0 0 0 2 0))
  | .htake h a => some (Raw.mk' h 0x14A 0 a.bits 0 (Raw.gen 0x0 0 0 0 0))
  | .hqry h d a => some (Raw.mk' h 0x14B d.bits a.bits 0 (Raw.gen 0x0 0 0 0 0))
  | .ld h ty mod d a b mw ofs => some (Raw.mk' h 0x180 d.bits a.bits b.bits (Raw.gen ty.code mod 0 0 (mw.bits ++ ofs)))
  | .st h ty mod d a b mw ofs => some (Raw.mk' h 0x181 d.bits a.bits b.bits (Raw.gen ty.code mod 0 0 (mw.bits ++ ofs)))
  | .pf h mod a b mw ofs => some (Raw.mk' h 0x182 0 a.bits b.bits (Raw.gen 0x0 mod 0 0 (mw.bits ++ ofs)))
  | .fence h sub mw => some (Raw.mk' h 0x183 0 0 0 (Raw.gen 0x0 0 0 sub (mw.bits ++ 0#20)))
  | .atom h ty mod sub d a b c mw ofs10 => some (Raw.mk' h 0x184 d.bits a.bits b.bits (Raw.gen ty.code mod 0 sub (mw.bits ++ ofs10 ++ c.bits)))
  | .red h ty mod sub d a b mw ofs => some (Raw.mk' h 0x185 d.bits a.bits b.bits (Raw.gen ty.code mod 0 sub (mw.bits ++ ofs)))
  | .stx h mod sub d a b c mw ofs10 => some (Raw.mk' h 0x1C0 d.bits a.bits b.bits (Raw.gen 0x0 mod 0 sub (mw.bits ++ ofs10 ++ c.bits)))
  | .stinit h mod d a b c mw ofs10 => some (Raw.mk' h 0x1C1 d.bits a.bits b.bits (Raw.gen 0x0 mod 0 0 (mw.bits ++ ofs10 ++ c.bits)))
  | .stqry h mod sub d a b mw ofs => some (Raw.mk' h 0x1C2 d.bits a.bits b.bits (Raw.gen 0x0 mod 0 sub (mw.bits ++ ofs)))
  | .stload h mod sub a => some (Raw.mk' h 0x1C3 0 a.bits 0 (Raw.gen 0x0 mod 0 sub 0))
  | .binit h a b imm => some (Raw.mk' h 0x200 0 a.bits b.bits (Raw.gen 0x0 0 0 0 imm))
  | .barrive h a imm => some (Raw.mk' h 0x201 0 a.bits 0 (Raw.gen 0x0 0 0 0 imm))
  | .barrivePh h d a imm => some (Raw.mk' h 0x201 d.bits a.bits 0 (Raw.gen 0x0 0 0 1 imm))
  | .bwait h a b imm => some (Raw.mk' h 0x202 0 a.bits b.bits (Raw.gen 0x0 0 0 0 imm))
  | .bsync h a imm => some (Raw.mk' h 0x203 0 a.bits 0 (Raw.gen 0x0 0 0 0 imm))
  | .bexpect h a b imm => some (Raw.mk' h 0x204 0 a.bits b.bits (Raw.gen 0x0 0 0 0 imm))
  | .bqry h d a imm => some (Raw.mk' h 0x205 d.bits a.bits 0 (Raw.gen 0x0 0 0 0 imm))
  | .qinit h a b imm => some (Raw.mk' h 0x208 0 a.bits b.bits (Raw.gen 0x0 0 0 0 imm))
  | .qpush h a b imm => some (Raw.mk' h 0x209 0 a.bits b.bits (Raw.gen 0x0 0 0 0 imm))
  | .qpop h d a imm => some (Raw.mk' h 0x20A d.bits a.bits 0 (Raw.gen 0x0 0 0 0 imm))
  | .qtry h d a imm => some (Raw.mk' h 0x20B d.bits a.bits 0 (Raw.gen 0x0 0 0 0 imm))
  | .qallow h a b c => some (Raw.mk' h 0x20C 0 a.bits b.bits (Raw.gen 0x0 0 0 0 (0#22 ++ c.bits)))
  | .cpy h d a => some (Raw.mk' h 0x240 d.bits a.bits 0 (Raw.gen 0x0 0 0 0 0))
  | .cpyt h d a b imm => some (Raw.mk' h 0x241 d.bits a.bits b.bits (Raw.gen 0x0 0 0 0 imm))
  | .cpwp h d a imm => some (Raw.mk' h 0x242 d.bits a.bits 0 (Raw.gen 0x0 0 0 0 imm))
  | .cpwait h a b imm => some (Raw.mk' h 0x243 0 a.bits b.bits (Raw.gen 0x0 0 0 0 imm))
  | .cpfence h a imm => some (Raw.mk' h 0x244 0 a.bits 0 (Raw.gen 0x0 0 0 0 imm))
  | .mcfg h mod sub => some (Raw.mk' h 0x280 0 0 0 (Raw.gen 0x0 mod 0 sub 0))
  | .mldb h bar arv sub a b imm => some (Raw.mk' h 0x281 0 a.bits b.bits (Raw.gen bar 0 (BitVec.ofBool arv) sub imm))
  | .mmb h bar arv sub a b imm => some (Raw.mk' h 0x282 0 a.bits b.bits (Raw.gen bar 0 (BitVec.ofBool arv) sub imm))
  | .scacc h sub a imm => some (Raw.mk' h 0x283 0 a.bits 0 (Raw.gen 0x0 0 0 sub imm))
  | .mzero h sub => some (Raw.mk' h 0x284 0 0 0 (Raw.gen 0x0 0 0 sub 0))
  | .mldc h sub a b imm => some (Raw.mk' h 0x285 0 a.bits b.bits (Raw.gen 0x0 0 0 sub imm))
  | .mdrain h bar mod arv sub a b imm => some (Raw.mk' h 0x286 0 a.bits b.bits (Raw.gen bar mod (BitVec.ofBool arv) sub imm))
  | .merr h d a imm => some (Raw.mk' h 0x287 d.bits a.bits 0 (Raw.gen 0x0 0 0 0 imm))
  | .merrClr h => some (Raw.mk' h 0x287 0 0 0 (Raw.gen 0x0 0 0 1 0))
  | .enq h d a => some (Raw.mk' h 0x2C0 d.bits a.bits 0 (Raw.gen 0x0 0 0 0 0))
  | .ldqe h ty d a imm => some (Raw.mk' h 0x2C1 d.bits a.bits 0 (Raw.gen ty.code 0 0 0 imm))
  | .tmset h a imm => some (Raw.mk' h 0x2C2 0 a.bits 0 (Raw.gen 0x0 0 0 0 imm))
  | .trap h a imm => some (Raw.mk' h 0x300 0 a.bits 0 (Raw.gen 0x0 0 0 0 imm))
  | .rtiRe h => some (Raw.mk' h 0x301 0 0 0 (Raw.gen 0x0 0 0 0 0))
  | .rtiNext h => some (Raw.mk' h 0x301 0 0 0 (Raw.gen 0x0 0 0 1 0))
  | .rtiDrop h => some (Raw.mk' h 0x301 0 0 0 (Raw.gen 0x0 0 0 2 0))
  | .region h => some (Raw.mk' h 0x302 0 0 0 (Raw.gen 0x0 0 0 0 0))
  | .ppoint h => some (Raw.mk' h 0x303 0 0 0 (Raw.gen 0x0 0 0 0 0))
  | .brk h sub => some (Raw.mk' h 0x304 0 0 0 (Raw.gen 0x0 0 0 sub 0))
  | .sleep h a imm => some (Raw.mk' h 0x305 0 a.bits 0 (Raw.gen 0x0 0 0 0 imm))
  | .xput h a => some (Raw.mk' h 0x340 0 a.bits 0 (Raw.gen 0x0 0 0 0 0))
  | .xget h a => some (Raw.mk' h 0x341 0 a.bits 0 (Raw.gen 0x0 0 0 0 0))
  | .xatom h ty sub a b mw => some (Raw.mk' h 0x342 0 a.bits b.bits (Raw.gen ty.code 0 0 sub (mw.bits ++ 0#20)))
  | .xstx h sub a b mw => some (Raw.mk' h 0x343 0 a.bits b.bits (Raw.gen 0x0 0 0 sub (mw.bits ++ 0#20)))
  | .trapEntry _ _ => none
  | .longLatencyResult _ _ _ _ => none
  | .rebundle _ _ _ => none
  | .holdLimitExpiry _ _ => none
  | .gatherWindowExpiry _ _ => none
  | .workgroupPlacement _ _ _ _ => none
  | .workgroupEnd _ => none
  | .admissionDecision _ => none
  | .coreGrant _ => none
  | .distributorSteal _ _ _ _ => none
  | .coreTakeBack _ _ => none
  | .politeWithdrawal _ => none
  | .politeSave _ => none
  | .politeWindowEnd _ => none
  | .freeze _ => none
  | .killTimeout _ => none
  | .contextKill _ => none
  | .budgetFold _ => none
  | .overrunWindowExpiry _ _ => none
  | .deadlineKill _ _ => none
  | .entryCompletion _ _ => none
  | .timerExpiry _ => none
  | .sleepEnd _ _ => none
  | .wcbLineDrain _ _ => none
  | .storePerform _ _ _ => none
  | .combiningEntrySend _ _ => none
  | .atomicAtHome _ => none
  | .granuleClearDone _ => none
  | .patrolScrub _ => none
  | .faultRecordRetry _ _ => none
  | .pageMappedWake _ _ => none
  | .faultTimeout _ _ => none
  | .translationInvalidate _ => none
  | .stagedTransition _ => none
  | .chainedTransition _ => none
  | .parkWake _ _ => none
  | .parkTableRetry _ _ => none
  | .copyChunk _ _ => none
  | .copyCompletion _ _ => none
  | .anvilInstructionDone _ => none
  | .linkReqReceived _ _ => none
  | .linkRespReceived _ _ => none
  | .linkAckReceived _ _ => none
  | .linkNakReceived _ _ => none
  | .linkAckTimer _ _ _ => none
  | .linkRetxTimeout _ _ _ => none
  | .linkStreamTimeout _ _ _ => none
  | .kick _ _ => none
  | .slotFetch _ _ => none
  | .mappingPass _ => none
  | .queueAgeStep _ _ => none
  | .qcbPageOut _ _ _ => none
  | .qcbPageIn _ _ => none
  | .watchdogExpiry _ => none
  | .stateTableWrite _ => none
  | .liveUpdate _ _ _ _ => none
  | .monitorSetParams _ _ => none
  | .monitorServiceFault _ _ _ => none
  | .debugWrite _ _ _ => none
  | .attestationReport _ _ => none
  | .contextMigration _ _ => none
  | .partitionReset _ => none
  | .coldReset => none
  | .warmReset => none
  | .bringUpPhase _ _ => none
  | .monitorSample _ => none
  | .refClockLoss => none
  | .hearthMemoryError _ => none
  | .hostCompletionTimeout _ _ _ => none
  | .farRequestTimeout _ _ _ => none
  | .piece => none
  | .start => none
  | .abort => none
  | .recoveryPieceCopied => none
  | .recoveryVerifyDone => none
  | .registerWrite _ _ => none
  | .queueCreate _ _ _ => none
  | .queueDestroy _ _ => none
  | .regionRegister _ _ _ => none
  | .regionRevoke _ _ => none
  | .pageTableEntryChange _ _ _ _ => none
  | .contextCreate _ _ _ _ _ => none
  | .exportTableWrite _ _ _ => none
  | .peerTableWrite _ _ _ => none
  | .partitionSetup _ _ => none
  | .linkChunkSend _ _ => none

/-- Decode a word in a context: the instruction, or the fault that %tinfo reports (02 R35, R36). -/
def decodeIn (cx : DecCtx) (w : IWord) : Except DecErr Instr :=
  let r := Raw.ofWord w
  match firstFault (faults cx r) with
  | some e => .error e
  | none => match build r with
    | some i => .ok i
    | none => .error (1, 0)

/-- Decode a word as a kernel at the device limits meets it. -/
def decode (w : IWord) : Except DecErr Instr := decodeIn .std w

/-- The word of an instruction (02 R23, R37); none for an event. -/
def encode (i : Instr) : Option IWord := (rawOf i).map Raw.toWord

/-- Little-endian value of bytes (03 R43). -/
def leVal : List Byte → Nat
  | [] => 0
  | b :: bs => b.toNat + 256 * leVal bs

/-- The word whose twelve bytes lie in order (02 R22). -/
def wordOfBytes (bs : List Byte) : IWord := BitVec.ofNat 96 (leVal bs)

/-- The `n` little-endian bytes of a value (03 R43). -/
def leBytes : Nat → Nat → List Byte
  | 0, _ => []
  | n + 1, v => BitVec.ofNat 8 v :: leBytes n (v / 256)

/-- The instruction read from a word whose bits the opcode table numbers from bit 0 of the first word: words are stored
little-endian, the first at the lowest address, so bit k of the number is bit k of the 96-bit word (02 R22). -/
def decodeTableWord (nbits w : Nat) : Option Instr :=
  match decode (wordOfBytes (leBytes 12 (w % 2 ^ nbits))) with
  | .ok i => some i
  | .error _ => none

end Sys2Proof
end

