-- ==== Sys2Proof/Machine/Bits.lean ====
section
/-!
DEFINITION. Bits.lean: bit fields of numbers, sign extension, byte order, and finite maps as sorted lists.
-/
namespace Sys2Proof.Machine

/-- Bits [hi:lo] of a number (00 R3). -/
def bits (n hi lo : Nat) : Nat := n / 2 ^ lo % 2 ^ (hi + 1 - lo)

/-- Bit k of a number. -/
def bit (n k : Nat) : Bool := n / 2 ^ k % 2 == 1

/-- A Bool as a number. -/
def b2n (b : Bool) : Nat := if b then 1 else 0

/-- The two's complement value of the low w bits of n (03 R41). -/
def sext (w n : Nat) : Int :=
  let m := n % 2 ^ w
  if 2 * m < 2 ^ w then (m : Int) else (m : Int) - (2 ^ w : Nat)

/-- An integer wrapped to w bits. -/
def wrap (w : Nat) (i : Int) : Nat := (i % ((2 ^ w : Nat) : Int)).toNat

/-- Round a number up to a multiple of m. -/
def roundUp (n m : Nat) : Nat := (n + m - 1) / m * m

/-- Ceiling of a quotient. -/
def ceilDiv (n m : Nat) : Nat := (n + m - 1) / m

/-- The numbers from a to a + n - 1. -/
def rangeFrom (a : Nat) : Nat → List Nat
  | 0 => []
  | n + 1 => a :: rangeFrom (a + 1) n

/-- Little-endian value of n bytes that a function gives by offset (03 R43). -/
def leOf (f : Nat → Byte) : Nat → Nat
  | 0 => 0
  | n + 1 => (f 0).toNat + 256 * leOf (fun k => f (k + 1)) n

/-- Change the element at a place of a list. -/
def modAt {α : Type} (l : List α) (i : Nat) (f : α → α) : List α :=
  match l, i with
  | [], _ => []
  | a :: as, 0 => f a :: as
  | a :: as, i + 1 => a :: modAt as i f

/-! ### Finite maps: lists sorted by key, without entries at the default value -/

namespace SMap
variable {α : Type}

/-- The value at a key. -/
def get (d : α) : List (Nat × α) → Nat → α
  | [], _ => d
  | (k, v) :: m, i => if i = k then v else if i < k then d else get d m i

/-- Put a value at a key of a sorted list; the default removes the entry. -/
def set [DecidableEq α] (d : α) : List (Nat × α) → Nat → α → List (Nat × α)
  | [], i, x => if x = d then [] else [(i, x)]
  | (k, v) :: m, i, x =>
    if i < k then (if x = d then (k, v) :: m else (i, x) :: (k, v) :: m)
    else if i = k then (if x = d then m else (i, x) :: m)
    else (k, v) :: set d m i x

/-- The canonical form: keys strictly rising from `lo`, no entry at the default. -/
def wfFrom [DecidableEq α] (d : α) : Nat → List (Nat × α) → Bool
  | _, [] => true
  | lo, (k, v) :: m => decide (lo ≤ k) && decide (v ≠ d) && wfFrom d (k + 1) m

/-- The canonical form of a map. -/
def wf [DecidableEq α] (d : α) (m : List (Nat × α)) : Bool := wfFrom d 0 m

/-- Put n values, by offset, at consecutive keys. -/
def setMany [DecidableEq α] (d : α) (m : List (Nat × α)) (i : Nat) : List α → List (Nat × α)
  | [] => m
  | x :: xs => setMany d (set d m i x) (i + 1) xs

/-- Remove the entries with keys in [i, i + n). -/
def clearRange (m : List (Nat × α)) (i n : Nat) : List (Nat × α) :=
  m.filter (fun e => !(decide (i ≤ e.1) && decide (e.1 < i + n)))

/-- The value of an optional entry. -/
def find (m : List (Nat × α)) (i : Nat) : Option α := (m.find? (fun e => e.1 == i)).map Prod.snd

/-- Replace or add an entry, by key, in a sorted list. -/
def put (m : List (Nat × α)) (i : Nat) (x : α) : List (Nat × α) :=
  match m with
  | [] => [(i, x)]
  | (k, v) :: m => if i < k then (i, x) :: (k, v) :: m else if i = k then (i, x) :: m else (k, v) :: put m i x

/-- Remove an entry. -/
def del (m : List (Nat × α)) (i : Nat) : List (Nat × α) := m.filter (fun e => e.1 != i)
end SMap

/-- Insert a number into a rising list without repeats. -/
def insNat (l : List Nat) (n : Nat) : List Nat :=
  match l with
  | [] => [n]
  | m :: ms => if n < m then n :: m :: ms else if n = m then m :: ms else m :: insNat ms n

end Sys2Proof.Machine
end

