-- ==== Sys2Proof/Config.lean ====
section
/-!
DEFINITION. Config.lean: the figures of the device (01 R8) and the values the spec leaves open, which are constants
without a body: no proof can see them.
-/
namespace Sys2Proof

/-- What the model's step may be told to do: issue a bundle, perform an event, let time pass, or a soft error
(01 R20). The spec leaves the order of these open (04 R65, 11 R188, 21 R345). -/
inductive Move where
  | issue (w k : Nat)                    -- issue bundle k of workgroup w
  | event (i : Instr)                    -- a step of the device
  | elapse (n : Nat)                     -- n core cycles pass
  | showReg (w t k v : Nat)              -- the destinations of outstanding instruction k of a thread show another value (02 R27)
  | zeroStart (w k : Nat)                -- bundle k of workgroup w issues an `spzero` that has all its words still to write (08 R149)
  | zeroWord (w id a : Nat)              -- an `spzero` in progress writes the word at data address a
  | arrayRead (w a : Nat)                -- the array reads one 8-byte word of an operand (15 R265)
  | arrayWrite (w : Nat)                 -- the array makes its next write (15 R261)
  | arrayAct (w : Nat)                   -- the array does what is left of its next instruction
  | hostWrite (pa : Nat) (b : Byte)      -- the host or a peer writes a byte of host, far or global memory
  | badMem (pa : Nat) (bad : Bool)       -- an error in the 32-byte word of memory at pa: uncorrectable, or corrected
  | badData (w a : Nat)                  -- an uncorrectable error in the scratchpad word at data address a
  | corrected (die : Nat)                -- a read corrects an error in storage of a die
  | badText (core kernel idx : Nat)      -- an uncorrectable instruction word
  | badSeq (core kernel seq op : Nat)    -- an uncorrectable operation in the control store
  | badReg (w t : Nat) (o : Opnd)        -- an uncorrectable register
  | badTag (w set : Nat)                 -- an uncorrectable error in a set of a tag table
  | badAnswer (w t k : Nat)              -- an error in a home slice or park table, met by access k of a thread
  | badElem (w : Nat) (c : Bool) (bank row col : Nat)   -- a parity error of a P or C element
  deriving DecidableEq, Repr, Inhabited

namespace Config
/-- Cores, cores of a die, cores of a core-cluster (01 R8). -/
def cores : Nat := 128
def coresPerDie : Nat := 32
def coresPerCluster : Nat := 4
/-- Bytes of HBM of one compute die: 96 GiB (10 R169). -/
def dieBytes : Nat := 96 * 2 ^ 30
/-- Bytes of HBM of the device (01 R8). -/
def hbmBytes : Nat := 4 * dieBytes
/-- Bytes of a core's scratchpad (01 R8). -/
def spBytes : Nat := 8 * 2 ^ 20
/-- What an unlisted byte of memory reads as (DESIGN CHOICE, log 2). -/
def memDefault : Byte := 0

/-- The move the model makes when none is decided (log 5): any. -/
opaque nextMove : Nat → Move
/-- What the partition's event arbiter presents next, among what could come next (17 R277, 21 R345): any. -/
opaque arbiter : Nat → Nat
/-- The difference of a core's cycle count from the model's clock: "the counts of different cores are unrelated"
(17 R293). -/
opaque cycOffset : Nat → Nat
/-- The epoch a device draws at a reset: nonzero, 16 bits (22 R364); the model takes `epochDraw n % 65535 + 1`. -/
opaque epochDraw : Nat → Nat
/-- Whether the signatures of an image verify: first ECDSA P-384, then LMS (01 R15, 22 R355, 21 R348). -/
opaque ecdsaOk : List Byte → Bool
opaque lmsOk : List Byte → Bool
/-- Whether an uploaded image's header is well formed (22 R356 ERR 5; the format is not given). -/
opaque imageHeaderOk : List Byte → Bool
/-- The signatures of a report under the attestation keys of one reset, as numbers: ECDSA, 96 bytes, and LMS, 2,668 bytes, with the number of
the one-time key (22 R360, R361). -/
opaque ecdsaSign : Nat → List Byte → Nat
opaque lmsSign : Nat → Nat → List Byte → Nat
/-- The public attestation keys that the monitor creates at one reset, of each kind (22 R361). -/
opaque ecdsaKey : Nat → List Byte
opaque lmsKey : Nat → List Byte
/-- The certificates of a key under the device identity keys, of each kind (22 R361). -/
opaque ecdsaCertify : List Byte → List Byte
opaque lmsCertify : List Byte → List Byte
/-- The device's identity public keys, and its 20-bit device identifier (22 R360, R362). -/
opaque identityKeys : List Byte
opaque deviceId : BitVec 20
/-- FWVER and STVER of the scheduler image that bring-up loads (21 R349). -/
opaque bootVersions : Nat → Nat × Nat
/-- A partition's configuration as its digest in a report reads it (22 R360; the layout is not given). -/
opaque partConfig : PartSetup → PartParams → List Byte
/-- The images that run: scheduler and monitor (22 R360). -/
opaque schedImage : Nat → List Byte
opaque monitorImage : Nat → List Byte
/-- The 64 KiB granule of virtual memory that a byte of a region is logged as (10 R175, 22 R358: a region is held by its physical
base only). -/
opaque regionGranule : Nat → Nat → Nat
/-- Whether a walk uses the old translation while an invalidation is in progress (10 R172). -/
opaque nextPick : Nat → Bool
/-- The bytes that a link packet with some data bytes is charged as (17 R287 does not say which bytes count). -/
opaque packetBytes : Nat → Nat
/-- How far beyond the next expected packet an acknowledgement raises a credit limit, modulo 2^30 (22 R364: it never moves backward). -/
opaque creditGrant : Nat → Nat
/-- The 14-bit hash of the source port of a stream (22 R363). -/
opaque portHash : Nat → Nat → Nat → BitVec 14
/-- The firmware's state table, of a number of bytes (21 R348; the layout is not given). -/
opaque stateTable : List Nat → Nat
/-- The 32-byte record of an event (21 R349; the layout is not given). -/
opaque eventRecord : List Nat → BitVec 256
/-- What a slot's save area of 4 KiB holds after a step of its loop (21 R343; the layout is not given). -/
opaque slotArea : Nat → BitVec 32768
end Config

end Sys2Proof
end

