-- ==== Sys2Proof/Machine/State.lean ====
section
/-!
DEFINITION. State.lean: the state of the machine as plain data, everything the spec gives it, and its value after reset.
The tables of small things are lists sorted by key without entries at the default (`SMap` in Machine/Ops.lean).
-/
namespace Sys2Proof.Machine

/-! ### Threads (04 R60, 18 R302) -/

/-- What a lane is (04 R59). -/
inductive LaneKind where
  | real | helper | absent
  deriving DecidableEq, Repr

/-- A register write of an instruction's result: uniform or vector, number, value. -/
structure RegWrite where
  uni : Bool
  reg : Nat
  val : Word
  deriving DecidableEq, Repr

/-- Where a long-latency instruction's result comes from. -/
inductive LLSrc where
  | known                                    -- its writes are known
  | load (pa : Nat) (ty : Ty) (d : Opnd) (rpro : Bool)   -- bytes to be read at a physical address; with promotion (11 R193)
  | req (id : Nat) (ty : Ty) (d c : Opnd)    -- the answer of a request at a home slice, with where an `stx` puts old data
  deriving DecidableEq, Repr

/-- What is a lane's own: what an `stx` that faults leaves as it was at its issue (18 R299). -/
structure LaneRegs where
  v      : List (Nat × Word)
  badv   : List (Nat × DWord)
  preds  : BitVec 7
  fflags : Word
  frm    : Word
  gbase  : Word
  gpc    : DWord
  gpcb   : DWord
  gop    : Word
  inGuest : Bool
  meet   : DWord
  irs    : Word
  moves  : Nat
  th     : Bool
  tarr   : Option Bool
  arrived : Option Bool
  oneShot : Bool
  deriving DecidableEq, Repr

/-- The write of a uniform register by a word in the window of an `stx` that is not answered (18 R299): one number for the lanes that share
it, the register, what it held, and what was written. -/
structure Undo where
  num : Nat
  reg : Nat
  was : Word
  bad : Option DWord
  now : Word
  deriving DecidableEq, Repr

/-- An outstanding long-latency instruction of a thread (02 R26, R27). -/
structure Pend where
  tok     : Nat               -- one number for all lanes that share the result (uniform destination)
  left    : Nat               -- instructions of its window still to issue
  src     : LLSrc
  writes  : List RegWrite
  flags   : Word              -- %fflags bits it raises
  closeTo : Option Word       -- the position %irs takes when a region-closing one completes (18 R305)
  origin  : Option Word       -- the position of an `stx`, to which a PARK answer rewinds (13 R214)
  acq     : BitVec 4          -- the mask of an acquire not yet performed: later accesses in it wait (11 R185, R188)
  bad     : Option DWord      -- uncorrectable data: the %taddr its consumer reports (02 R27)
  mine    : Bool              -- this lane performs it; false in a lane that is guarded off and shares the destination
  olds    : List RegWrite     -- its destinations before it (02 R27)
  seen    : Option (List RegWrite × List RegWrite)   -- what its destinations show in the window, and what that hides (02 R27)
  snap    : Option LaneRegs   -- of an `stx`: the lane's registers at its issue
  undo    : List Undo         -- of an `stx`: the uniform registers written in its window, latest first
  deriving DecidableEq, Repr

/-- What a thread waits for (04 R62, 18 R311). -/
inductive Wait where
  | none
  | barrier (b : Nat) (sync : Bool)          -- a phase of a barrier, in `bsync` or in `bwait` (14 R233)
  | push (q : Nat) (h : DWord)               -- an allowance of a queue (14 R236)
  | pop (q : Nat) (d : Opnd)                 -- an entry of a queue (14 R236)
  | take (idx gen : Nat)                     -- a buffer (08 R156)
  | sleep (n : Nat)                          -- cycles of residence (18 R324)
  | rebundle                                 -- `sleep #0`: the next rebundling (18 R324)
  | park (pa : Nat)                          -- a staged object (13 R214)
  | ring                                     -- the context's spill ring (13 R215)
  | parkRetry                                -- a park-table entry (13 R214)
  | fault (rec : Nat) (va : Nat) (wr : Bool) -- a page, by fault record, with the lane's address (10 R179)
  | faultRetry                               -- a fault record (10 R179)
  | drain                                    -- a release that waits for the buffers (10 R177, 11 R196)
  | copyRec                                  -- a copy record (14 R237)
  | linkRec                                  -- a link record (22 R368)
  | anvilQ                                   -- a place of the array queue (15 R252)
  | merr                                     -- the array queue to empty (15 R264)
  | zero (id : Nat) (left : List Nat)        -- an `spzero` in progress, and the 8-byte words it has still to write (08 R149, 18 R309)
  | cpwait (c : Nat) (t : Word) (id : Nat)   -- a write pointer; with the number of its issue (14 R246)
  | cpfence (m : Nat) (js : List Nat) (id : Nat)   -- copies of the channels in a mask, by number (14 R246)
  deriving DecidableEq, Repr

/-- What a release fence orders before a thread's later stores and read-modify-writes of some kinds of storage: what is older than a number,
in those kinds; with the core's buffers or not (11 R185, R188). -/
structure Order where
  bound : Nat
  ss    : BitVec 4
  wide  : Bool
  deriving DecidableEq, Repr

/-- A thread: its registers and control state (04 R60, 06 R97, 18 R302). -/
structure Thread where
  kind    : LaneKind
  live    : Bool
  npc     : Word
  seqS    : Bool              -- inside a sequence (05 R93)
  seqM    : Nat
  seqQ    : Nat
  gpc     : DWord
  gpcb    : DWord
  gop     : Word
  gbase   : Word
  inGuest : Bool
  meet    : DWord
  irs     : Word
  moves   : Nat               -- how often %irs has been written (15 R267)
  preds   : BitVec 7          -- p0 to p6
  v       : List (Nat × Word)
  badv    : List (Nat × DWord)   -- vector registers that hold uncorrectable data (02 R27)
  frm     : Word
  fflags  : Word
  th      : Bool              -- in-handler bit (18 R304)
  tcause  : Word
  tnpc    : Word
  tgpcb   : DWord
  tgop    : Word
  tgv     : Word
  taddr   : DWord
  tinfo   : DWord
  tsq     : Word
  tarr    : Option Bool       -- the note of an arrived `bsync`, kept while in the handler (18 R301)
  oneShot : Bool              -- no breakpoint or step on the next instruction (18 R317)
  wait    : Wait
  arrived : Option Bool       -- `bsync` has arrived, in this parity (18 R301)
  pend    : List Pend
  early   : List Pend         -- completed before their windows ended: written again at the end (02 R27)
  held    : Option Nat        -- periods since the first of its set was held at its meet target (04 R70)
  gather  : Option Nat        -- periods gathered at a dispatch (04 R73)
  freed   : Bool              -- released: issues its target without being held again (04 R70)
  stopped : Bool              -- stopped at a `ppoint` (18 R322)
  due     : Option (Nat × DWord × DWord)   -- a trap found and not yet entered: cause, information, address (18 R302)
  async   : List (Nat × DWord)             -- pending 0x0F and 0x10, with information (18 R303)
  relAt   : Option Nat        -- stamp below which an awaited release drains (the model's, log 4)
  order   : List Order        -- of its release fences (11 R188)
  rewound : Bool              -- restarts at %irs after its restore (18 R310)
  deriving DecidableEq, Repr

/-- The uniform registers of a group (06 R97). -/
structure Group where
  u    : List (Nat × Word)
  badu : List (Nat × DWord)
  deriving DecidableEq, Repr

/-! ### A workgroup's resources (14, 15, 08) -/

/-- The record of a faulted copy or link operation (14 R247, 22 R372). -/
structure FRec where
  taddr : DWord
  tinfo : DWord
  cause : Nat                -- of the trap that reports it
  deriving DecidableEq, Repr

/-- The engine command that an arrival ends (14 R231). -/
inductive ArrSrc where
  | copy (num : Nat)
  | anvil (num : Nat)
  | link (num : Nat)
  deriving DecidableEq, Repr

/-- A named barrier (14 R229). -/
structure Barrier where
  ph   : Bool
  g    : Nat
  arr  : BitVec 16
  e    : Int
  wait : BitVec 16
  flt  : Bool
  lf   : Bool
  frec : FRec
  held : List (ArrSrc × Option FRec)   -- held engine arrivals, oldest first, each with its command and its fault
  deriving DecidableEq, Repr

/-- A named queue (14 R235). -/
structure Queue where
  depth : Nat
  fifo  : List (DWord × Nat)
  allow : List (Nat × Nat)      -- send allowance of each group
  pushW : List Nat              -- groups that wait to push, oldest first
  popW  : List Nat
  deriving DecidableEq, Repr

/-- A way of the tag table (08 R159). -/
structure TagWay where
  v   : Bool
  key : Nat
  d   : Bool
  p   : Bool
  age : Nat
  deriving DecidableEq, Repr

/-- A streamer channel of a workgroup (14 R237). -/
structure Channel where
  ip    : Word
  wp    : Word
  fault : Option (Word × FRec)  -- first pointer value of the faulted copy, and its record
  deriving DecidableEq, Repr

/-- A dimension of a tensor copy (14 R241). -/
structure Dim where
  dstr : Int
  sstr : Int
  soff : Int
  sext : Nat
  dext : Nat
  deriving DecidableEq, Repr

/-- The descriptor of a tensor copy (14 R241). -/
structure Desc where
  kind : Nat
  rank : Nat
  pad  : Word
  auxs : DWord
  auxd : Word
  dims : List Dim
  deriving DecidableEq, Repr

/-- A copy record (14 R237, R245, 18 R313). -/
structure Copy where
  num    : Nat               -- number of the copy in its workgroup
  chan   : Nat
  ticket : Word
  len    : Nat
  ctl    : Word
  src    : DWord
  dst    : DWord
  cobj   : DWord
  desc   : Option Desc
  chunk  : Nat               -- first chunk not acknowledged
  failed : Option FRec
  relAt  : Nat               -- stamp below which its release drains (the model's, log 4)
  begun  : Bool              -- its completion steps have begun (18 R308)
  moved  : Bool              -- its transition has been performed or skipped
  held   : Option Nat        -- its transition is held at a home slice, as this request (13 R215)
  deriving DecidableEq, Repr

/-- A tile staged in a B slot (15 R250): elements by 16 * column + k, exponents by column, lost columns. -/
structure Tile where
  fmt  : Nat
  elem : List (Nat × Int)    -- signed magnitude, doubled where the pair exponent bit is 0 (15 R256)
  exp  : List (Nat × Nat)
  deriving DecidableEq, Repr

/-- A P bank with its latched exponents (15 R250). -/
structure PBank where
  p   : List (Nat × Int)     -- by 128 * row + column
  ea  : List (Nat × Nat)
  eb  : List (Nat × Nat)
  bad : List Nat             -- elements with a parity error
  deriving DecidableEq, Repr

/-- A C bank (15 R250). -/
structure CBank where
  c      : List (Nat × Word)
  bad    : List Nat          -- elements with a parity error
  logged : List Nat          -- of these, the ones an error was logged for
  deriving DecidableEq, Repr

/-- A rectangle of a C bank (15 R259). -/
structure Rect where
  row : Nat
  col : Nat
  h : Nat
  w : Nat
  deriving DecidableEq, Repr

/-- What an accepted array instruction does, with its operands as they were at its issue (15 R255 to R261). -/
inductive ACmd where
  | config (fb : Nat)
  | stage (slot : Bool) (f a e : Nat)
  | multiply (slot pb : Bool) (f a e : Nat)
  | accumulate (pb cb : Bool) (k : Int)
  | zero (cb : Bool)
  | load (cb : Bool) (r : Rect) (a b : Nat)
  | drain (cb : Bool) (r : Rect) (out a b : Nat)
  deriving DecidableEq, Repr

/-- An accepted array instruction that has not completed (15 R252). -/
structure AJob where
  num   : Nat
  grp   : Nat                -- its issuing group
  moves : Nat                -- how often %irs had been written in the group's lanes when it issued (15 R267)
  arv   : Option Nat
  cmd   : ACmd
  span  : List (Nat × Nat)   -- the data addresses it reads or writes: first, and bytes
  got   : List (Nat × DWord × Bool)   -- 8-byte words it has read: address, contents, uncorrectable (15 R265)
  wrote : Nat                -- writes it has made
  acted : Bool               -- all its accesses are performed, and the array state is as it leaves it
  errs  : List DWord         -- the errors it met
  deriving DecidableEq, Repr

/-- The Anvil of its holder (15 R250). -/
structure Anvil where
  fa   : Nat
  fb   : Nat
  b0   : Tile
  b1   : Tile
  p0   : PBank
  p1   : PBank
  c0   : CBank
  c1   : CBank
  merr : Word
  log  : List DWord
  queue : List AJob
  jobNum : Nat
  deriving DecidableEq, Repr

/-- A kernel header (05 R87). -/
structure Header where
  magic : Nat
  dclass : Nat
  tlen : Nat
  entry : Nat
  traph : Nat
  vregs : Nat
  sregs : Nat
  sdata : Nat
  bars : Nat
  queues : Nat
  stcls : Nat
  tsets : Nat
  prodg : Nat
  array : Bool
  help : Bool
  policy : Nat
  gather : Nat
  hold : Nat
  seqn : Nat
  wgt : Nat
  seqofs : Nat
  rz : Nat           -- the reserved bits, zero in an accepted header
  deriving DecidableEq, Repr

/-- A fault record (10 R179). -/
structure FaultRec where
  num  : Nat
  ctx  : Nat
  page : Nat                 -- virtual address of the page
  size : Nat
  leaf : Nat                 -- physical address of its leaf entry
  level : Nat
  wr   : Bool
  at0  : Nat                 -- %dtime when it was posted
  deriving DecidableEq, Repr

/-- What becomes of a workgroup (04 R61, 18 R308, R311). -/
inductive WgStatus where
  | resident | cutting | saved | ended
  deriving DecidableEq, Repr

/-- A link operation (22 R366, R369). -/
structure LinkOp where
  num    : Nat
  op     : Nat               -- 0 xput, 1 xget, 2 xatom, 3 xstx
  wg     : Nat
  die    : Nat
  dev    : Nat
  ch     : Nat
  opsn   : Nat
  ctl    : Word
  len    : Nat
  loc    : DWord             -- local operand
  rem    : DWord             -- remote handle
  cobj   : DWord
  sub    : Nat
  ty     : Nat
  ord    : Nat
  scope  : Nat
  data   : DWord             -- data of `xatom`, `xstx`
  data2  : DWord             -- expected value of `.cas`
  chunk  : Nat               -- next chunk to send
  got    : Nat               -- result chunks received
  failed : Option Nat        -- fault reason
  answered : Bool
  cancelled : Bool           -- killed: no further chunk, no completion step; those sent are still acknowledged (18 R315)
  result : List (Nat × List Byte)   -- results for scratchpad kept while its context is switched out, by offset (22 R371)
  relAt  : Nat               -- stamp below which its release drains (the model's, log 4)
  performed : Bool           -- its transition has been performed or skipped
  held   : Option Nat
  deriving DecidableEq, Repr

/-- A workgroup (04 R57), resident or saved. -/
structure Wg where
  status  : WgStatus
  part    : Nat
  ctx     : Nat
  qe      : Nat              -- index of its launch entry (17 R294)
  order   : Nat              -- and the number of its admission, which no other entry of the partition has
  wgid    : Nat
  clid    : Nat
  core    : Nat
  kernel  : Nat              -- physical address of its kernel header (05 R86)
  hdr     : Header
  threads : List Thread
  groups  : List Group
  data    : List Host.Cell   -- data region, by data address (08 R142)
  badd    : List Nat         -- uncorrectable 8-byte words of it (08 R145)
  base    : Nat              -- its core address (08 R141)
  bars    : List Barrier
  queues  : List Queue
  tags    : List (Nat × TagWay)
  tbase   : Nat              -- the first of its consecutive sets (08 R159)
  badTags : List Nat         -- sets of it with an uncorrectable error (01 R20)
  chans   : List Channel
  copies  : List Copy        -- in issue order
  copyNum : Nat
  anvil   : Option Anvil
  tmr     : Nat
  tmrDue  : Bool
  ctxcyc  : Nat
  bundles : List (List Nat)  -- thread numbers of each bundle (04 R63)
  savedOwn : List (Nat × Nat × Nat × Nat × Nat × Nat)   -- ownership entries saved with it (08 R153)
  savedFaults : List FaultRec   -- fault records saved with it (18 R311)
  cutAt   : Option Nat       -- when its cut began, in cycles (18 R308)
  deriving DecidableEq, Repr

/-! ### Cores, clusters, dies -/

/-- A line of a write-combining buffer (10 R177): bytes by offset in the line, with the copies' lines of a REPL page. -/
structure Line where
  stamp : Nat
  pa    : Nat                -- physical address of the 128-byte line
  bytes : List Host.Cell     -- written bytes, by offset
  draining : Bool
  ctx   : Nat
  part  : Nat
  prop  : Bool               -- its page is logged (10 R175)
  vgran : Nat                -- 64 KiB granule number of the virtual page
  after : List (Nat × BitVec 4)   -- what has a lower stamp, in these kinds of storage, is performed first: earlier releases (11 R188)
  repl  : List Nat           -- lines of the other copies (10 R173)
  done  : List Nat           -- copies already performed
  deriving DecidableEq, Repr

/-- A park-table entry (13 R214). -/
structure ParkEnt where
  pa   : Option Nat          -- the object; none when recorded against the spill ring (13 R215)
  ctx  : Nat
  wg   : Nat
  grp  : Nat
  mask : List Nat            -- threads that sleep in it
  wait : List Nat            -- threads whose answer is awaited
  deriving DecidableEq, Repr

/-- A sequence in the control store (05 R91). -/
structure MSeq where
  pk  : BitVec 8
  ops : List IWord
  bad : List Nat
  deriving DecidableEq, Repr

/-- The text region and sequences of a loaded kernel (05 R90). -/
structure Text where
  kernel : Nat
  base   : Nat               -- core address of its text region
  tlen   : Nat
  words  : List (Nat × IWord)
  bad    : List Nat          -- words the loader could not read, or with an uncorrectable error
  seqs   : List MSeq
  deriving DecidableEq, Repr

/-- A core (04, 10 R177, 13 R214, 17 R283). -/
structure Core where
  lines  : List Line         -- newest first
  parks  : List ParkEnt
  faults : List FaultRec
  preq   : Bool
  windowEnd : Option Nat     -- when the polite window ends, in ns (18 R307)
  grant  : Option (Nat × Nat)   -- partition and entry index that hold it (17 R283)
  texts  : List Text
  served : List (Nat × Nat)  -- the channels served, latest first: workgroup and channel (14 R237)
  deriving DecidableEq, Repr

/-- An entry of a core-cluster's ownership table (08 R151). -/
structure Own where
  live   : Bool
  gen    : Nat
  owner  : Nat × Nat × Nat   -- partition, number of admission of the entry, and first workgroup of the cluster
  spos   : Nat
  base   : Nat               -- in units of 256 bytes
  lenm   : Nat
  holder : Nat
  deriving DecidableEq, Repr

/-- Who has contributed to a combining entry: core, stamp of its earliest contribution, context, and page (11 R200). -/
structure Contrib where
  core  : Nat
  stamp : Nat
  ctx   : Nat
  part  : Nat
  prop  : Bool
  vgran : Nat
  deriving DecidableEq, Repr

/-- An entry of a cluster combining buffer (11 R200). -/
structure Comb where
  pa    : Nat
  ty    : Ty
  op    : Nat
  val   : DWord
  who   : List Contrib
  deriving DecidableEq, Repr

/-- One sequence space of a stream as the sender holds it (22 R364). -/
structure SendSpace where
  next   : Nat               -- PSN of the next new packet
  unacked : List (Nat × Packet)   -- each with the die by whose port it goes
  queue  : List (Nat × Packet)    -- new packets that wait for credit
  credit : Nat
  timeout : Nat              -- retransmission timeout in ns
  since  : Nat               -- %dtime of the last advance
  last   : Nat               -- %dtime of the last (re)transmission
  deriving DecidableEq, Repr

/-- One sequence space as the receiver holds it. -/
structure RecvSpace where
  expect : Nat
  credit : Nat
  owed   : Nat               -- accepted and not acknowledged
  since  : Nat               -- when the oldest of them was accepted
  deriving DecidableEq, Repr

/-- A stream of a partition (22 R362, log 105). `out` is true at the issuing side. -/
structure Stream where
  part   : Nat
  dev    : Nat
  ch     : Nat
  out    : Bool
  dEpoch : Nat               -- the other side's epoch as last learned
  snd    : SendSpace
  rcv    : RecvSpace
  opsn   : Nat
  results : List (Nat × List Byte × Nat)   -- results kept by OPSN, with REASON (22 R370)
  failed : List (Nat × Nat)                -- operations in progress that met a fault
  lost   : List Nat                        -- of an issuer: `xatom` and `xstx` that ended unacknowledged (22 R370)
  deriving DecidableEq, Repr

/-! ### Contexts and partitions -/

/-- A stage-class table (13 R211). -/
structure STable where
  n   : Nat
  ent : List (Nat × BitVec 16)   -- by 16 * state + transition
  deriving DecidableEq, Repr

/-- An admitted entry of a context that migrates: as it is presented again, with what its workgroups have come to (22 R359). -/
structure Migrant where
  raw     : BitVec 1024
  d       : Nat                  -- its absolute deadline; in what is copied, what is left of it
  ended   : List Nat
  lastEnd : Nat
  wgs     : List Wg              -- its saved workgroups
  deriving DecidableEq, Repr

/-- A context (10 R170, 13 R209, 14 R238, 18 R316). -/
structure Ctx where
  part    : Nat
  roots   : List Nat             -- one for each die of its partition, ascending
  classes : List (Nat × STable)
  regions : List (Nat × Region)
  exports : List (Nat × ExportEntry)
  dctl    : DWord
  swg     : DWord
  nbpa    : List (Nat × DWord)
  nbpk    : List (Nat × DWord)
  gbp     : List (Nat × DWord)
  spill   : List (BitVec 1024)
  migrants : List Migrant         -- admitted entries of another device, to be presented again (22 R359)
  dlog    : Nat                  -- physical address of its dirty-page log's control block
  dring   : Nat                  -- and of the ring
  quiet   : Bool                 -- quiesced for migration (22 R359)
  dead    : Bool                 -- killed (18 R315)
  revoked : Bool                 -- and its kill is over: its regions are revoked
  deriving DecidableEq, Repr

/-- A range of clusters not yet placed: saved clusters ahead of those never placed (17 R284, R285). -/
structure Range where
  saved : List Nat               -- saved clusters, ascending
  lo    : Nat                    -- the first of those never placed
  n     : Nat                    -- and their number
  deriving DecidableEq, Repr

/-- An admitted entry (17 R277 to R292). -/
structure Entry where
  qe      : Nat
  raw     : BitVec 1024
  ctx     : Nat
  d       : Nat                  -- absolute deadline in ns
  budget  : Nat
  charge  : Nat                  -- as of the latest fold
  fresh   : Nat                  -- cycles counted since
  order   : Nat
  demoted : Bool
  overrun : Option Nat           -- when it overran with OVC = 1, in ns
  hdr     : Header
  kernel  : Nat
  chip    : Range                -- the chip distributor's range
  dies    : List (Nat × Range)   -- each die distributor's range
  cls     : List (Nat × Range)   -- each cluster distributor's range
  pinned  : List Nat             -- pinned clusters not yet placed
  ended   : List Nat             -- workgroups that have ended
  lastEnd : Nat                  -- %dtime when the last of them ended
  status  : Option Nat           -- the status it ended with, until its completion is performed
  deriving DecidableEq, Repr

/-- A user queue as firmware and slots know it (21 R337 to R344). -/
structure UQueue where
  qcb    : Nat
  paged  : Option Nat            -- far-memory address of the paged QCB
  seen   : Option Nat            -- %dtime from which its present ageing step counts
  mapped : Option Nat            -- %dtime when it was mapped
  unmapped : Nat                 -- %dtime when it was unmapped
  lastW  : DWord                 -- WIDX last read
  deriving DecidableEq, Repr

/-- A hardware queue slot (21 R341). -/
structure Slot where
  queue  : Option Nat
  paused : Bool                  -- by a quiesced partition or context (22 R352, R359)
  inLoop : Bool                  -- it fetches up to the WIDX it has read (21 R341)
  qcb    : Nat                   -- the first 384 bits of the QCB, as the map loaded them (21 R343)
  area   : BitVec 32768          -- its save area (21 R343)
  ridx   : DWord                 -- RIDX and LACT while the queue is mapped (21 R343)
  lact   : DWord
  present : List (BitVec 1024)   -- copied and not yet presented
  deriving DecidableEq, Repr

/-- A record of a partition's event ring (21 R349). -/
inductive Report where
  | overrun (q err : Nat)
  | spurious (q : Nat)
  | doubleTrap (cause : Nat) (pos : Word) (core wgid gid lane : Nat)
  | watchdog
  | launchFault (kobj cfut : DWord) (ctrans status : Nat) (info : DWord)
  | aborted (stage : Nat)
  deriving DecidableEq, Repr

/-- A firmware state table (21 R348). -/
structure FwTable where
  version : Nat
  qcbs    : List (Nat × Nat × Option Nat)   -- QCB addresses and paging state, by queue
  slots   : List (Option Nat)
  faults  : List FaultRec
  doubles : List Report
  params  : PartParams
  deriving DecidableEq, Repr

/-- A partition (22 R350). -/
structure Part where
  setup   : Option PartSetup
  params  : PartParams
  quiet   : Bool
  store   : List (BitVec 1024 × Nat)      -- pending launches with their contexts (17 R296)
  entries : List Entry
  nextOrder : Nat
  lastFold : Nat
  pending : List Nat                      -- pending vector, ascending (21 R340)
  slots   : List Slot
  rr      : Nat                           -- the slot that presented last (21 R341)
  queues  : List (Nat × UQueue)
  events  : List Report
  evCount : Nat                           -- records written to the event ring (21 R349)
  doubles : List Report                   -- double-trap records not yet reported (18 R304, 21 R348)
  restarting : Bool                       -- the firmware has been restarted and has made no pass since (21 R347)
  table   : Option FwTable
  lastPass : Nat
  kicked  : Bool                          -- a kick interrupt awaits a mapping pass
  peers   : List (Nat × Peer)
  epoch   : Nat
  deriving DecidableEq, Repr

/-! ### Requests at home slices, and the device -/

/-- Who issued a transition or an atomic. -/
inductive Origin where
  | thread (w t tok : Nat)
  | copy (w num : Nat)
  | entry (p : Nat) (raw : BitVec 1024) (status : Nat)
  | link (num : Nat)
  | remote (die : Nat) (dev ch opsn : Nat)
  | none
  deriving DecidableEq, Repr

/-- What a request asks for (11 R199, 13 R213, R216). -/
inductive ReqKind where
  | atom (op : Nat) (ty : Ty) (rpro : Bool) (lanes : List (Nat × Nat × DWord × DWord))   -- thread, token, data, expected value
  | trans (tr : Nat) (x : DWord) (va : DWord)
  | chain (tr : Nat) (x : DWord) (va : DWord) (first : Word × Option DWord)
  deriving DecidableEq, Repr

/-- A request on its way to a home slice, or held there. -/
structure Req where
  id     : Nat
  stamp  : Nat
  origin : Origin
  who    : List Nat                  -- the threads of its workgroup that issued it
  wg     : Nat
  core   : Nat
  ctx    : Nat
  part   : Nat
  die    : Nat
  pa     : Nat
  ret    : Bool
  prop   : Bool
  vgran  : Nat
  kind   : ReqKind
  size   : Nat                       -- bytes it touches
  scope  : Nat                       -- AS of a transition
  ss     : BitVec 4                  -- and its SS
  after  : List (Nat × BitVec 4)     -- what its core has buffered that is performed first, as of a line (11 R188)
  behind : List Nat                  -- the requests of its threads that are performed first (11 R188)
  held   : Bool                      -- held for want of a place (13 R215)
  deriving DecidableEq, Repr

/-- A request to host memory, by the partition function of the issuing context: a byte of a posted write, a read of n bytes, or an AtomicOp
(22 R353, R354). -/
inductive HostReq where
  | write (fn pa : Nat) (b : Byte)
  | read (fn pa n : Nat)
  | atomic (fn pa op : Nat) (ty : Ty) (data expect : DWord)
  deriving DecidableEq, Repr

/-- A link packet as it is sent: by a die's port, with its UDP ports and the peer-table entry that addresses it, if there is one (22 R363, log
106). -/
structure Datagram where
  die     : Nat
  srcPort : Nat
  dstPort : Nat
  peer    : Option Peer
  pkt     : Packet
  deriving DecidableEq, Repr

/-- A page as it is copied in a migration: its virtual address and bytes, its contents by offset, and its uncorrectable 32-byte words (22
R359). -/
structure CtxPage where
  va    : Nat
  size  : Nat
  cells : List Host.Cell
  bad   : List Nat
  deriving DecidableEq, Repr

/-- What is copied of a context that migrates: its pages, its tables, its queues, its saved workgroups, and its admitted and pending entries (22
R359 steps 2, 4, 5). -/
structure CtxImage where
  ctx     : Nat
  classes : List (Nat × STable)
  regions : List (Nat × Region)
  exports : List (Nat × ExportEntry)
  queues  : List (Nat × Nat × Nat)       -- by number: where a QCB stands, and its contents with its save area
  pages   : List CtxPage
  migrants : List Migrant
  pending : List (BitVec 1024)
  deriving DecidableEq, Repr

/-- The recovery mailbox (22 R355, R356). -/
structure Recovery where
  state  : Nat
  err    : Nat
  rofs   : Word
  rlen   : Word
  rtot   : Word
  window : List Host.Cell
  image  : List Host.Cell
  deriving DecidableEq, Repr

/-- The device's registers and what its firmware complexes hold (01 R14 to R20, 21 R348, R349, 22 R361). -/
structure Dev where
  phase  : Nat
  tripc  : Nat
  fail   : Bool
  twarn  : BitVec 4
  twio   : Bool
  vwarn  : Bool
  pwarn  : Bool
  acth   : Nat
  maxt   : Nat
  hot    : Bool                    -- some die read 95 degrees or above in the last sample
  tripped : Bool                   -- held in reset after a trip
  sigFail : Bool                   -- phase 2 holds: a signature failed
  volts  : List Nat
  fwver  : Nat
  stver  : Nat
  hstate : Nat
  hfailA : Bool
  hfailB : Bool
  update : Option (Nat × Nat × Nat)    -- a live update: step done, new FWVER and STVER
  interrupts : List (Nat × Nat)        -- MSI-X function and vector raised
  corrected : List (Nat × Nat)         -- corrected errors of each die
  logged : List (Nat × Nat)            -- errors logged for a die, by physical address
  keyGen : Nat
  signed : Nat
  reports : List (List Byte)           -- attestation reports produced
  migrated : List (Nat × Nat)          -- contexts in migration and the step done
  images : List CtxImage               -- what a migration copies from device to device (22 R359)
  certs  : List (List Byte)            -- certificates of the attestation keys (22 R361)
  posted : List HostReq                -- requests to host memory, in order (22 R353, R354)
  sent   : List Datagram               -- link packets sent (22 R363)
  mailbox : Recovery
  deriving DecidableEq, Repr

/-- The bundle that is being issued: its workgroup and threads. -/
structure Bundle where
  wg    : Nat
  lanes : List Nat
  deriving DecidableEq, Repr

/-- The state of the machine. -/
structure State where
  dev     : Dev
  cyc     : Nat                        -- core cycles since the release of cold reset (01 R12)
  mem     : List Host.Cell             -- physical memory: HBM, far, host (10 R169)
  unsAll  : Bool                       -- every granule is unscrubbed but those listed (10 R174)
  unsEx   : List Nat                   -- the exceptions, ascending
  clearing : List Nat                  -- granules being cleared
  badMem  : List Nat                   -- 32-byte words with an uncorrectable error
  fixMem  : List Nat                   -- 32-byte words with a correctable error
  stale   : List (Nat × Nat × DWord)   -- changed page-table entries not yet invalidated: partition, address, old entry
  cores   : List (Nat × Core)
  owns    : List (Nat × Own)           -- by 64 * cluster + index
  combs   : List (Nat × List Comb)     -- combining buffer of each core-cluster
  streams : List Stream
  links   : List LinkOp                -- link operations in progress
  parts   : List Part
  ctxs    : List (Nat × Ctx)
  wgs     : List Wg
  reqs    : List Req
  wakes   : List (Nat × Option Nat × Nat)   -- wake messages: core, object or the ring, context (13 R214, R215)
  -- the model's own fields
  sched   : List Move                  -- moves already decided, taken first (log 5)
  tick    : Nat                        -- moves taken (log 5)
  bundle  : Bundle                     -- the bundle being issued (log 5)
  fresh   : Nat                        -- next unused number: tokens, requests, stamps, copies (log 4, 6)
  deriving DecidableEq, Repr

/-- Why the machine stops. -/
inductive Fault where
  /-- An access to a physical address that no storage of the device has. No meaning raises it: an entry of a page table that names such an
  address is malformed, and an access that gets there is a request that nothing answers, for both of which the spec describes what follows (10
  R171, 22 R357, log 7). Safe: no run stops here. -/
  | noSuchAddress (pa : Nat)
  deriving DecidableEq, Repr

/-- Why the model refuses. -/
inductive Refusal where
  /-- An instruction of the table without a meaning yet. Safe: nothing can be proved of a run through it. -/
  | notModelled (mnemonic : String)
  deriving DecidableEq, Repr

/-! ### Reset -/

/-- The default parameters of a partition (17 R272, 18 R307, R308, 21 R342, R344). -/
def PartParams.default : PartParams :=
  { lbound := 60000, polite := 2000, killTimeout := 8000, eligible := 200000, ageStep := 200000, pageOut := 50000000 }

/-- A slot without a queue. -/
def Slot.free : Slot := { queue := none, paused := false, inLoop := false, qcb := 0, area := 0, ridx := 0, lact := 0, present := [] }

/-- A partition that is not set up (22 R350), at a given epoch. -/
def Part.empty (epoch : Nat) : Part :=
  { setup := none, params := PartParams.default, quiet := false, store := [], entries := [], nextOrder := 0
    lastFold := 0, pending := [], slots := List.replicate 16 Slot.free
    rr := 0, queues := [], events := [], evCount := 0, doubles := [], restarting := false, table := none, lastPass := 0, kicked := false, peers := [], epoch := epoch }

/-- The recovery mailbox at cold reset (22 R356). -/
def Recovery.reset : Recovery :=
  { state := 0, err := 0, rofs := 0, rlen := 0, rtot := 0, window := [], image := [] }

/-- The certificates of the attestation keys of one reset: each key by each identity key (22 R361). -/
def certsOf (n : Nat) : List (List Byte) :=
  [Config.ecdsaCertify (Config.ecdsaKey n), Config.lmsCertify (Config.ecdsaKey n),
   Config.ecdsaCertify (Config.lmsKey n), Config.lmsCertify (Config.lmsKey n)]

/-- The device's registers at cold reset (01 R14, R19, 21 R349); voltages: log 3. -/
def Dev.reset : Dev :=
  { phase := 0, tripc := 0, fail := false, twarn := 0, twio := false, vwarn := false, pwarn := false, acth := 0
    maxt := 0, hot := false, tripped := false, sigFail := false, volts := [0, 0, 0, 0], fwver := 0, stver := 0, hstate := 0
    hfailA := false, hfailB := false, update := none, interrupts := [], corrected := [], logged := [], keyGen := 0
    signed := 0, reports := [], migrated := [], images := [], certs := certsOf 0, posted := [], sent := [], mailbox := Recovery.reset }

/-- A core that holds nothing. -/
def Core.empty : Core :=
  { lines := [], parks := [], faults := [], preq := false, windowEnd := none, grant := none, texts := [], served := [] }

/-- A free ownership entry (08 R151). -/
def Own.free : Own := { live := false, gen := 1, owner := (0, 0, 0), spos := 0, base := 0, lenm := 0, holder := 0 }

/-- The machine right after cold reset (01 R14): all state clear, no partition, no context, no workgroup. The epochs are
free (22 R364). -/
def State.reset : State :=
  { dev := Dev.reset, cyc := 0, mem := [], unsAll := false, unsEx := [], clearing := [], badMem := [], fixMem := []
    stale := [], cores := [], owns := [], combs := [], streams := [], links := []
    parts := [Part.empty (Config.epochDraw 0 % 65535 + 1), Part.empty (Config.epochDraw 1 % 65535 + 1),
              Part.empty (Config.epochDraw 2 % 65535 + 1), Part.empty (Config.epochDraw 3 % 65535 + 1)]
    ctxs := [], wgs := [], reqs := [], wakes := [], sched := [], tick := 0, bundle := { wg := 0, lanes := [] }
    fresh := 4 }

end Sys2Proof.Machine

namespace Sys2Proof.Config
open Sys2Proof.Machine
/-- What another device has copied of the context that comes from it, if one comes (22 R359, log 111); by the number of a moment. -/
opaque arrivingImage : Nat → Option CtxImage
end Sys2Proof.Config
end

