-- ==== Sys2Proof/Machine/Ops.lean ====
section
/-!
DEFINITION. Ops.lean: the named operations: access to the parts of the state, storage, translation, instruction fetch, positions,
taking a trap and returning from one.
-/
namespace Sys2Proof.Machine

/-! ### Parts of the state -/

/-- An absent lane (04 R59). -/
def Thread.none : Thread :=
  { kind := .absent, live := false, npc := 0, seqS := false, seqM := 0, seqQ := 0, gpc := 0, gpcb := 0, gop := 0, gbase := 0
    inGuest := false, meet := 0, irs := 0, moves := 0, preds := 0, v := [], badv := [], frm := 0, fflags := 0, th := false, tcause := 0
    tnpc := 0, tgpcb := 0, tgop := 0, tgv := 0, taddr := 0, tinfo := 0, tsq := 0, tarr := Option.none, oneShot := false, wait := .none
    arrived := Option.none, pend := [], early := [], held := Option.none, gather := Option.none, freed := false, stopped := false
    due := Option.none, async := [], relAt := Option.none, order := [], rewound := false }

/-- A kernel header of zeros. -/
def Header.zero : Header :=
  { magic := 0, dclass := 0, tlen := 0, entry := 0, traph := 0, vregs := 0, sregs := 0, sdata := 0, bars := 0, queues := 0
    stcls := 0, tsets := 0, prodg := 0, array := false, help := false, policy := 0, gather := 0, hold := 0, seqn := 0
    wgt := 0, seqofs := 0, rz := 0 }

/-- A workgroup that does not exist. -/
def Wg.none : Wg :=
  { status := .ended, part := 0, ctx := 0, qe := 0, order := 0, wgid := 0, clid := 0, core := 0, kernel := 0, hdr := Header.zero
    threads := [], groups := [], data := [], badd := [], base := 0, bars := [], queues := [], tags := [], tbase := 0, badTags := [], chans := []
    copies := [], copyNum := 0, anvil := Option.none, tmr := 0, tmrDue := false, ctxcyc := 0, bundles := [], savedOwn := [], savedFaults := []
    cutAt := Option.none }

/-- Workgroup w. -/
def getWg (s : State) (w : Nat) : Wg := s.wgs.getD w Wg.none
/-- Replace workgroup w. -/
def setWg (s : State) (w : Nat) (g : Wg) : State := { s with wgs := s.wgs.set w g }
/-- Change workgroup w. -/
def modWg (s : State) (w : Nat) (f : Wg → Wg) : State := setWg s w (f (getWg s w))
/-- Thread t of a workgroup. -/
def getTh (g : Wg) (t : Nat) : Thread := g.threads.getD t Thread.none
/-- Change thread t of a workgroup. -/
def Wg.modTh (g : Wg) (t : Nat) (f : Thread → Thread) : Wg := { g with threads := g.threads.set t (f (getTh g t)) }
/-- Change thread t of workgroup w. -/
def modTh (s : State) (w t : Nat) (f : Thread → Thread) : State := modWg s w (fun g => g.modTh t f)
/-- Thread t of workgroup w. -/
def thOf (s : State) (w t : Nat) : Thread := getTh (getWg s w) t
/-- The group of a thread (04 R57). -/
def grpOf (t : Nat) : Nat := t / 32
/-- The uniform registers of a group. -/
def getGroup (g : Wg) (k : Nat) : Group := g.groups.getD k { u := [], badu := [] }
/-- Change the uniform registers of a group. -/
def Wg.modGroup (g : Wg) (k : Nat) (f : Group → Group) : Wg := { g with groups := g.groups.set k (f (getGroup g k)) }
/-- A core. -/
def getCore (s : State) (c : Nat) : Core := SMap.get Core.empty s.cores c
/-- Change a core. -/
def modCore (s : State) (c : Nat) (f : Core → Core) : State :=
  { s with cores := SMap.set Core.empty s.cores c (f (getCore s c)) }
/-- A context, if it exists. -/
def getCtx (s : State) (c : Nat) : Option Ctx := SMap.find s.ctxs c
/-- Change a context that exists. -/
def modCtx (s : State) (c : Nat) (f : Ctx → Ctx) : State :=
  match getCtx s c with
  | some x => { s with ctxs := SMap.put s.ctxs c (f x) }
  | none => s
/-- A partition. -/
def getPart (s : State) (p : Nat) : Part := s.parts.getD p (Part.empty 0)
/-- Change a partition. -/
def modPart (s : State) (p : Nat) (f : Part → Part) : State := { s with parts := s.parts.set p (f (getPart s p)) }
/-- An unfinished entry of a partition's list, by index (17 R294). -/
def getEntry (s : State) (p e : Nat) : Option Entry :=
  (getPart s p).entries.find? (fun x => x.qe == e && x.status.isNone)
/-- The unfinished entry of a workgroup, by the number of its admission: its index may be another entry's once it has ended (17 R290, R294). -/
def entryOf (s : State) (g : Wg) : Option Entry :=
  (getPart s g.part).entries.find? (fun x => x.order == g.order && x.status.isNone)
/-- Change an unfinished entry of a partition's list. -/
def modEntry (s : State) (p e : Nat) (f : Entry → Entry) : State :=
  modPart s p (fun x => { x with entries := x.entries.map (fun y => if y.qe == e && y.status.isNone then f y else y) })
/-- Change the unfinished entry of a workgroup. -/
def modEntryOf (s : State) (g : Wg) (f : Entry → Entry) : State :=
  modPart s g.part (fun x => { x with entries := x.entries.map (fun y => if y.order == g.order && y.status.isNone then f y else y) })
/-- Whether a workgroup is of the unfinished entry at an index. -/
def ofEntry (s : State) (p e : Nat) (g : Wg) : Bool :=
  g.part == p && g.qe == e && (getEntry s p e).any (fun x => x.order == g.order)
/-- The ownership entry at an index of a core-cluster (08 R151). -/
def getOwn (s : State) (cl idx : Nat) : Own := SMap.get Own.free s.owns (64 * cl + idx)
/-- Replace an ownership entry. -/
def setOwn (s : State) (cl idx : Nat) (o : Own) : State := { s with owns := SMap.set Own.free s.owns (64 * cl + idx) o }
/-- The combining buffer of a core-cluster (11 R200). -/
def getCombs (s : State) (cl : Nat) : List Comb := SMap.get [] s.combs cl
/-- Replace a combining buffer. -/
def setCombs (s : State) (cl : Nat) (l : List Comb) : State := { s with combs := SMap.set [] s.combs cl l }
/-- The streams of a partition (22 R362). -/
def getStreams (s : State) (p : Nat) : List Stream := s.streams.filter (fun x => x.part == p)
/-- Change the device's registers. -/
def modDev (s : State) (f : Dev → Dev) : State := { s with dev := f s.dev }
/-- A number not used before (log 4, 6). -/
def State.bump (s : State) : State := { s with fresh := s.fresh + 1 }
/-- The core-cluster and the die of a core (04 R58). -/
def clusterOf (core : Nat) : Nat := core / Config.coresPerCluster
def dieOf (core : Nat) : Nat := core / Config.coresPerDie
/-- The dies of a partition (22 R350). -/
def Part.dies (p : Part) : List Nat := (p.setup.map PartSetup.dies).getD []
/-- The cores of a partition, ascending. -/
def Part.cores (p : Part) : List Nat := p.dies.flatMap (fun d => rangeFrom (d * Config.coresPerDie) Config.coresPerDie)

/-- %dtime in ns: it advances by 10 on each period of the 100 MHz reference oscillator, 12.5 core cycles (01 R12, R8). -/
def dtime (s : State) : Nat := 10 * (2 * s.cyc / 25)

/-! ### Physical memory (10 R169 to R176) -/

/-- Whether storage stands at a physical address: 384 GiB of HBM, at most 4 TiB of far memory, and host memory (10 R169, 01 R8, 22 R357). That
far memory stands at the bottom of its space is the model's choice (log 104). -/
def paOk (pa : Nat) : Bool :=
  match pa / 2 ^ 50 with
  | 0 => pa < Config.hbmBytes
  | 1 => pa % 2 ^ 50 < 4 * 2 ^ 40
  | 2 => true
  | _ => false

/-- A byte of physical memory. -/
def memByte (s : State) (pa : Nat) : Byte := SMap.get Config.memDefault s.mem pa

/-- The n bytes at a physical address as a number (03 R43). -/
def memRead (s : State) (pa n : Nat) : Nat := leOf (fun k => memByte s (pa + k)) n

/-- Write bytes at a physical address; a 32-byte word that is rewritten whole is good again, and one with a correctable error keeps it
(both the model's choice, log 17). -/
def memWriteBytes (s : State) (pa : Nat) (bs : List Byte) : State :=
  { s with
    mem := SMap.setMany Config.memDefault s.mem pa bs
    badMem := s.badMem.filter (fun w => !(decide (pa ≤ 32 * w) && decide (32 * w + 32 ≤ pa + bs.length))) }

/-- A request to host memory, by the function of a partition; to other memory there is none (22 R353, R354). -/
def askHost (s : State) (pa : Nat) (rs : List HostReq) : State :=
  if pa / 2 ^ 50 = 2 then modDev s (fun d => { d with posted := d.posted ++ rs }) else s

/-- Write bytes at a physical address for a partition: in host memory they are posted writes of its function (22 R353, R354). -/
def sendBytes (s : State) (part pa : Nat) (bs : List Byte) : State :=
  askHost (memWriteBytes s pa bs) pa (bs.mapIdx (fun k b => .write (part + 1) (pa + k) b))

/-- Write n bytes at a physical address. -/
def memWrite (s : State) (pa n v : Nat) : State := memWriteBytes s pa (leBytes n v)

/-- Whether a read of n bytes meets an uncorrectable error; the protection covers 32-byte words (01 R20). Where no storage stands, nothing
answers the request, which has the same outcome (22 R357, log 7). -/
def memBad (s : State) (pa n : Nat) : Bool :=
  s.badMem.any (fun w => decide (w * 32 < pa + n) && decide (pa < w * 32 + 32)) || !paOk pa

/-- The correctable errors that a read of n bytes of HBM meets are counted for their die (01 R20). -/
def countReads (s : State) (pa n : Nat) : State :=
  let k := (s.fixMem.filter (fun w => decide (w * 32 < pa + n) && decide (pa < w * 32 + 32))).length
  if k = 0 ∨ n = 0 ∨ pa / 2 ^ 50 ≠ 0 then s
  else modDev s (fun d => { d with corrected := SMap.set 0 d.corrected (pa / Config.dieBytes) (SMap.get 0 d.corrected (pa / Config.dieBytes) + k) })

/-- The read of n bytes at a physical address for a partition: the errors that it corrects are counted, and in host memory it is a request of the
partition's function (01 R20, 22 R353). -/
def readFrom (s : State) (part pa n : Nat) : State := askHost (countReads s pa n) pa [.read (part + 1) pa n]

/-- The 64 KiB granule of an HBM address. -/
def granuleOf (pa : Nat) : Nat := pa / 65536

/-- Whether a granule is unscrubbed (10 R174). -/
def unscrubbed (s : State) (g : Nat) : Bool := s.unsAll != s.unsEx.contains g

/-- Set or clear a granule's unscrubbed bit. -/
def setUnscrubbed (s : State) (g : Nat) (u : Bool) : State :=
  { s with unsEx := if u == s.unsAll then s.unsEx.filter (· != g) else insNat s.unsEx g }

/-- Start the clear of a granule that an access through an UNS page finds unscrubbed (10 R174). -/
def startClear (s : State) (uns : Bool) (pa : Nat) : State :=
  if uns && unscrubbed s (granuleOf pa) then { s with clearing := insNat s.clearing (granuleOf pa) } else s

/-- Whether an access waits at its home slice for a clear (10 R174). -/
def clearingAt (s : State) (pa : Nat) : Bool := s.clearing.contains (granuleOf pa) && decide (pa / 2 ^ 50 = 0)

/-- The channel of an HBM address within its die, and its home slice (10 R176). -/
def channelOf (pa : Nat) : Nat := bits pa 13 8 ^^^ bits pa 19 14
def sliceOf (pa : Nat) : Nat := channelOf pa / 2

/-- The point of coherence of an address: a home slice of a die, or the home agent of the I/O die (10 R176). -/
inductive Home where
  | slice (die k : Nat)
  | agent
  deriving DecidableEq, Repr

/-- Where an address has its point of coherence (10 R176). -/
def homeOf (pa : Nat) : Home :=
  if pa / 2 ^ 50 = 0 then .slice (pa / Config.dieBytes) (sliceOf pa) else .agent

/-- Log an error of a die (10 R171, 11 R199). -/
def logError (s : State) (pa : Nat) : State :=
  modDev s (fun d => { d with logged := d.logged ++ [(pa / Config.dieBytes % 4, pa)] })

/-! ### The write-combining buffer (10 R177) -/

/-- The byte a core reads at a physical address: the newest buffered one, else memory's. -/
def coreByte (s : State) (core pa : Nat) : Byte :=
  match (getCore s core).lines.findSome? (fun l =>
      if l.pa ≤ pa && pa < l.pa + 128 then SMap.find l.bytes (pa - l.pa) else none) with
  | some b => b
  | none => memByte s pa

/-- The n bytes a core reads at a physical address. -/
def coreRead (s : State) (core pa n : Nat) : Nat := leOf (fun k => coreByte s core (pa + k)) n

/-- Append granule `vgran` to a context's dirty-page log, or set OVF when the ring is full (22 R358). -/
def logDirty (s : State) (ctx vgran : Nat) : State :=
  match getCtx s ctx with
  | none => s
  | some c =>
    let head := memRead s c.dlog 8
    let tail := memRead s (c.dlog + 8) 8
    if (head + 2 ^ 64 - tail) % 2 ^ 64 < 65536 then
      memWrite (memWrite s (c.dring + 8 * (head % 65536)) 8 (vgran % 2 ^ 40)) c.dlog 8 ((head + 1) % 2 ^ 64)
    else memWrite s (c.dlog + 16) 1 (memRead s (c.dlog + 16) 1 / 2 * 2 + 1)

/-! ### The combining buffer of a core-cluster (11 R200) -/

/-- The integer and bitwise read-modify-write operations: new value from old m and data x (11 R198). -/
def redOp (op : Nat) (ty : Ty) (m x : Nat) : Nat :=
  let less (a b : Nat) : Bool := if ty.signed then decide (sext ty.width a < sext ty.width b) else decide (a < b)
  match op with
  | 0 => (m + x) % 2 ^ ty.width
  | 1 => m &&& x
  | 2 => m ||| x
  | 3 => m ^^^ x
  | 4 => if less x m then x else m
  | _ => if less m x then x else m

/-- Send a combining entry to its home: the reduction is performed, and logged where its page asks for it; an uncorrectable location
is logged and left unchanged (11 R199, R200). -/
def sendComb (s : State) (cl : Nat) (c : Comb) : State :=
  let s := setCombs s cl ((getCombs s cl).filter (fun x => x.pa != c.pa || x.op != c.op || x.ty != c.ty))
  let n := c.ty.width / 8
  let s := countReads s c.pa n
  if memBad s c.pa n then logError s c.pa
  else
    let s := memWrite s c.pa n (redOp c.op c.ty (memRead s c.pa n) c.val.toNat)
    ((c.who.filter Contrib.prop).map (fun x => (x.ctx, x.vgran))).eraseDups.foldl (fun s x => logDirty s x.1 x.2) s

/-- Send the entries of a core-cluster that overlap a range, so that another access there comes after them (11 R200). -/
def sendCombsAt (s : State) (cl pa n : Nat) : State :=
  (getCombs s cl).foldl (fun s c =>
    if c.pa < pa + n ∧ pa < c.pa + c.ty.width / 8 then sendComb s cl c else s) s

/-- Send every entry of a core-cluster's combining buffer. -/
def sendCombs (s : State) (cl : Nat) : State := (getCombs s cl).foldl (fun s c => sendComb s cl c) s

/-! ### Performing lines -/

/-- Write a line's bytes at the address of one of its copies; a 32-byte word that they rewrite whole is good again (log 17). -/
def writeLine (s : State) (part pa : Nat) (bs : List Host.Cell) : State :=
  let whole (w : Nat) : Bool := (rangeFrom (32 * w) 32).all (fun x => bs.any (fun c => pa + c.1 == x))
  let s := bs.foldl (fun s c => sendBytes s part (pa + c.1) [c.2]) s
  { s with badMem := s.badMem.filter (fun w => !whole w) }

/-- The addresses of a line's copies (10 R173). -/
def Line.copies (l : Line) : List Nat := l.pa :: l.repl

/-- Perform a line at copy number k; when every copy has taken it, it is acknowledged and leaves the buffer, after a logged
page's granule has been appended (10 R173, R175, R187). -/
def performLine (s : State) (core : Nat) (l : Line) (k : Nat) : State :=
  let pa := l.copies.getD k l.pa
  let done := insNat l.done k
  let s := sendCombsAt s (clusterOf core) pa 128
  let s := writeLine s l.part pa l.bytes
  if done.length ≥ l.copies.length then
    let s := if l.prop then logDirty s l.ctx l.vgran else s
    modCore s core (fun c => { c with lines := c.lines.filter (fun x => x.stamp != l.stamp) })
  else
    modCore s core (fun c => { c with
      lines := c.lines.map (fun x => if x.stamp == l.stamp then { x with done := done, draining := true } else x) })

/-- Perform a line at every copy it has not reached. -/
def performWhole (s : State) (core : Nat) (l : Line) : State :=
  (rangeFrom 0 l.copies.length).foldl (fun s k =>
    match (getCore s core).lines.find? (fun x => x.stamp == l.stamp) with
    | some x => if x.done.contains k then s else performLine s core x k
    | none => s) s

/-- Perform those of a core's lines that a test picks, oldest first. -/
def performLines (s : State) (core : Nat) (f : Line → Bool) : State :=
  ((getCore s core).lines.reverse.filter f).foldl (fun s l => performWhole s core l) s

/-- Whether no clear holds a granule of a line (10 R174). -/
def Line.free (s : State) (l : Line) : Bool := l.copies.all (fun q => !clearingAt s q)

/-- Whether a line covers a byte of [pa, pa + n). -/
def Line.overlaps (l : Line) (pa n : Nat) : Bool :=
  l.copies.any (fun q => decide (q < pa + n) && decide (pa < q + 128))

/-- What a store to a page carries into the buffer. -/
structure StoreAttr where
  ctx  : Nat
  part : Nat
  prop : Bool
  vgran : Nat
  after : List (Nat × BitVec 4) := []     -- what must be performed before it (11 R188)
  repl : List Nat      -- the stored byte's address in the other copies

/-- The lines of the other copies that a store reaches. -/
def StoreAttr.lines (a : StoreAttr) : List Nat := a.repl.map (fun q => q / 128 * 128)

/-- Put bytes into a core's buffer, merging with the latest line there if it has not begun to drain and goes to the same copies; a full
buffer first performs its oldest line (10 R173, R175, R177). -/
def bufferStore (s : State) (core pa : Nat) (bs : List Byte) (a : StoreAttr) : State :=
  let lpa := pa / 128 * 128
  match ((getCore s core).lines.find? (fun l => l.pa < pa + bs.length && pa < l.pa + 128)).filter (fun l =>
      l.pa == lpa && !l.draining && l.ctx == a.ctx && l.vgran == a.vgran && l.repl == a.lines) with
  | some l =>
    modCore s core (fun c => { c with lines := c.lines.map (fun x => if x == l then
      { x with bytes := bs.mapIdx (fun k b => (pa - lpa + k, b)) |>.foldl (fun m e => SMap.put m e.1 e.2) x.bytes
               prop := x.prop || a.prop, after := (x.after ++ a.after).eraseDups } else x) })
  | none =>
    let lines := (getCore s core).lines
    let s := if lines.length ≥ 64 then (match lines.getLast? with | some l => performWhole s core l | none => s) else s
    let l : Line :=
      { stamp := s.fresh, pa := lpa, bytes := bs.mapIdx (fun k b => (pa - lpa + k, b)), draining := false, ctx := a.ctx
        part := a.part, prop := a.prop, vgran := a.vgran, after := a.after, repl := a.lines, done := [] }
    (modCore s core (fun c => { c with lines := l :: c.lines })).bump

/-! ### Registers (06 R97 to R102) -/

/-- A vector register of a thread. -/
def Thread.rv (th : Thread) (n : Nat) : Word := SMap.get 0 th.v n
/-- Write a vector register; a write replaces data that was uncorrectable. -/
def Thread.wv (th : Thread) (n : Nat) (x : Word) : Thread :=
  { th with v := SMap.set 0 th.v n x, badv := SMap.del th.badv n }
/-- A uniform register of a group. -/
def Group.ru (g : Group) (n : Nat) : Word := SMap.get 0 g.u n
/-- Write a uniform register. -/
def Group.wu (g : Group) (n : Nat) (x : Word) : Group := { g with u := SMap.set 0 g.u n x, badu := SMap.del g.badu n }
/-- A predicate; p7 reads 1 (06 R102). -/
def Thread.rp (th : Thread) (n : Nat) : Bool := if n = 7 then true else th.preds.getLsbD n
/-- Write a predicate; a write to p7 is discarded (06 R102). -/
def Thread.wp (th : Thread) (n : Nat) (x : Bool) : Thread :=
  if n < 7 then
    { th with preds := (th.preds &&& ~~~(1#7 <<< n)) ||| (if x then 1#7 <<< n else 0#7) }
  else th

/-- Apply one register write in thread t's lane or group. -/
def Wg.write (g : Wg) (t : Nat) (w : RegWrite) : Wg :=
  if w.uni then g.modGroup (grpOf t) (fun x => x.wu w.reg w.val) else g.modTh t (fun x => x.wv w.reg w.val)

/-- Apply register writes in order. -/
def Wg.writeAll (g : Wg) (t : Nat) (ws : List RegWrite) : Wg := ws.foldl (fun g w => g.write t w) g

/-- The registers an operand names, in a value of n registers. -/
def regWrites (d : Opnd) (vals : List Word) : List RegWrite :=
  match d with
  | .v k => vals.mapIdx (fun i x => { uni := false, reg := k.toNat + i, val := x })
  | .s k => vals.mapIdx (fun i x => { uni := true, reg := k.toNat + i, val := x })
  | _ => []

/-- The register contents of a value of a type, extended to 32 bits as 03 R42 states. -/
def extTy (ty : Ty) (n : Nat) : List Word :=
  match ty.width with
  | 64 => [BitVec.ofNat 32 n, BitVec.ofNat 32 (n / 2 ^ 32)]
  | 32 => [BitVec.ofNat 32 n]
  | w => if ty.signed then [BitVec.ofInt 32 (sext w n)] else [BitVec.ofNat 32 (n % 2 ^ w)]

/-- The writes of a value of a type to a destination (03 R42). -/
def tyWrites (d : Opnd) (ty : Ty) (n : Nat) : List RegWrite := regWrites d (extTy ty n)

/-! ### Positions and fetch (05 R85 to R96) -/

/-- The kernel's text on a core. -/
def textOf (s : State) (core kernel : Nat) : Option Text := (getCore s core).texts.find? (fun x => x.kernel == kernel)

/-- The number of operations of a thread's sequence. -/
def seqLen (s : State) (g : Wg) (m : Nat) : Nat :=
  ((textOf s g.core g.kernel).bind (fun x => x.seqs[m]?)).elim 0 (fun q => q.ops.length)

/-- A position as %irs and %tsq lay it out (05 R93). -/
def posWord (sq : Bool) (q m idx : Nat) : Word :=
  BitVec.ofNat 32 (b2n sq * 2 ^ 29 + q % 64 * 2 ^ 23 + m % 64 * 2 ^ 17 + idx % 2 ^ 17)

/-- The position of a thread. -/
def Thread.pos (th : Thread) : Word :=
  if th.seqS then posWord true th.seqQ th.seqM th.npc.toNat else posWord false 0 0 th.npc.toNat

/-- Write %irs (18 R305). -/
def Thread.setIrs (th : Thread) (p : Word) : Thread := { th with irs := p, moves := th.moves + 1 }

/-- Put a thread at a position (05 R93). -/
def Thread.goPos (th : Thread) (p : Word) : Thread :=
  { th with npc := BitVec.ofNat 32 (p.toNat % 2 ^ 17), seqS := bit p.toNat 29, seqQ := bits p.toNat 28 23
            seqM := bits p.toNat 22 17 }

/-- The thread after its instruction: the next operation of its sequence, or the next instruction; the end of a sequence
ends its windows (05 R94, R96). -/
def Thread.advance (len : Nat) (th : Thread) : Thread :=
  if th.seqS && decide (th.seqQ + 1 < len) then { th with seqQ := th.seqQ + 1 }
  else if th.seqS then
    { th with seqS := false, seqQ := 0, seqM := 0, npc := th.npc + 1, pend := th.pend.map (fun p => { p with left := 0 }) }
  else { th with npc := th.npc + 1 }

/-- Close every window of a thread (02 R26). -/
def Thread.endWindows (th : Thread) : Thread := { th with pend := th.pend.map (fun p => { p with left := 0 }) }

/-- The encoding that replaces parameter slot p of a sequence operation, from the `mcall` word and PK (05 R95, R96). -/
def paramBits (mc : Raw) (pk : BitVec 8) (p : Nat) : BitVec 10 :=
  match p with
  | 0 => mc.d
  | 1 => mc.a
  | 2 => mc.b
  | 3 => mc.c
  | _ =>
    let x := mc.par p
    match (pk.extractLsb' (2 * (p - 4)) 2).toNat with
    | 0 => 0b000#3 ++ x
    | 1 => 0b010#3 ++ x
    | 2 => 0b0111001#7 ++ x.extractLsb' 0 3
    | _ => 0b10#2 ++ x.signExtend 8

/-- Replace a field that holds a parameter slot. -/
def substField (mc : Raw) (pk : BitVec 8) (b : BitVec 10) : BitVec 10 :=
  match Opnd.ofBits b with
  | some (.slot p) => paramBits mc pk p.toNat
  | _ => b

/-- A sequence operation with its parameter slots replaced (05 R96). -/
def substRaw (mc : Raw) (pk : BitVec 8) (r : Raw) : Raw :=
  let r := { r with d := substField mc pk r.d, a := substField mc pk r.a, b := substField mc pk r.b }
  match opSpec r with
  | some sp => if sp.c.isSome then { r with x := r.x.extractLsb' 10 34 ++ substField mc pk r.c } else r
  | none => r

/-- What a fetch finds: past the text, an uncorrectable word, or a word (05 R85). -/
inductive Fetch where
  | past
  | bad
  | word (r : Raw)

/-- Fetch the instruction or operation a thread issues next (05 R85, R93, R96). Its bounds are those of the text as it was loaded, also where
the object's header has changed since: R90 does not say (log 112). -/
def fetch (s : State) (g : Wg) (th : Thread) : Fetch :=
  match textOf s g.core g.kernel with
  | none => .past
  | some x =>
    let idx := th.npc.toNat
    if x.tlen ≤ idx then .past
    else if x.bad.contains idx then .bad
    else
      let r := Raw.ofWord (SMap.get 0 x.words idx)
      if th.seqS then
        match x.seqs[th.seqM]? with
        | none => .bad
        | some q =>
          if q.bad.contains th.seqQ then .bad
          else .word (substRaw r q.pk (Raw.ofWord (q.ops.getD th.seqQ 0)))
      else .word r

/-- The context of the encoding check for a thread's next word (02 R29, 05 R99). -/
def decCtx (s : State) (g : Wg) (th : Thread) : DecCtx where
  vregs := g.hdr.vregs
  sregs := g.hdr.sregs
  inSeq := th.seqS
  pks := ((textOf s g.core g.kernel).map (fun x => x.seqs.map MSeq.pk)).getD []

/-! ### Traps (18 R302 to R304, R320) -/

/-- The value of a 32-bit register operand in a lane. -/
def readReg32 (g : Wg) (t : Nat) : Opnd → Word
  | .v n => (getTh g t).rv n.toNat
  | .s n => (getGroup g (grpOf t)).ru n.toNat
  | _ => 0

/-- The index operand of the `dispatch` at which a thread stands, if it stands at one (04 R74). -/
def dispatchIndex (s : State) (g : Wg) (t : Nat) : Option Word :=
  match fetch s g (getTh g t) with
  | .word r => if r.opc = 0x00B#10 && !(getTh g t).seqS then (Opnd.ofBits r.a).map (readReg32 g t) else none
  | _ => none

/-- A lane ends as `exit` ends it (04 R79). -/
def Thread.exit (th : Thread) : Thread :=
  { th with live := false, pend := [], wait := .none, held := Option.none, gather := Option.none, due := Option.none
            async := [], stopped := false, relAt := Option.none, arrived := Option.none, tarr := Option.none }

/-- The causes that name the guest instruction about to run when taken at a `dispatch` (04 R74). -/
def guestCauses : List Nat := [0x12, 0x13, 0x16]

/-- The thread with its trap record written and at its handler (18 R302, 04 R74). -/
def Thread.trapTo (th : Thread) (cause : Nat) (info addr : DWord) (gi : Option Word) (traph : Nat) : Thread :=
  let gi := if guestCauses.contains cause then gi else Option.none
  { th with
    tcause := BitVec.ofNat 32 cause
    tinfo := info
    taddr := addr
    tnpc := th.npc
    tsq := th.pos
    tarr := th.arrived
    arrived := Option.none
    tgv := if gi.isSome || th.inGuest then 1 else 0
    tgpcb := if gi.isSome then th.gpc else if th.inGuest then th.gpcb else 0
    tgop := match gi with | some x => x | Option.none => if th.inGuest then th.gop else 0
    th := true
    npc := BitVec.ofNat 32 traph
    seqS := false
    seqQ := 0
    seqM := 0
    irs := posWord false 0 0 traph
    moves := th.moves + 1
    wait := .none
    due := Option.none
    gather := Option.none
    freed := false
    stopped := false
    relAt := Option.none
    oneShot := false }

/-- The contents of a report, as the record's layout takes them. -/
def Report.words : Report → List Nat
  | .overrun q err => [0, q, err]
  | .spurious q => [1, q]
  | .doubleTrap c pos core wg gid l => [2, c, pos.toNat, core, wg, gid, l]
  | .watchdog => [3]
  | .launchFault kobj cfut t st info => [4, kobj.toNat, cfut.toNat, t, st, info.toNat]
  | .aborted k => [5, k]

/-- A 32-byte record goes into a partition's event ring in host memory, which the driver has named, and raises MSI-X vector 1 of the partition's
function (21 R349, log 103). -/
def postEvent (s : State) (p : Nat) (r : Report) : State :=
  let x := getPart s p
  let s := match x.setup with
    | some c => if c.ringLen = 0 then s
        else sendBytes s p (c.ring + 32 * (x.evCount % c.ringLen)) (leBytes 32 (Config.eventRecord r.words).toNat)
    | none => s
  modDev (modPart s p (fun x => { x with events := x.events ++ [r], evCount := x.evCount + 1 }))
    (fun d => { d with interrupts := d.interrupts ++ [(p + 1, 1)] })

/-- A double-trap record stands at the active Hearth until the firmware reports it (18 R304, 21 R348, log 107). -/
def postDouble (s : State) (p : Nat) (r : Report) : State := modPart s p (fun x => { x with doubles := x.doubles ++ [r] })

/-- A lane takes a trap: entry to the handler (R302), or, with TH set, the end of the lane and a double-trap record to the
active Hearth (R304). -/
def enterTrap (s : State) (w t cause : Nat) (info addr : DWord) : State :=
  let g := getWg s w
  let th := getTh g t
  if th.th then
    postDouble (modTh s w t Thread.exit) g.part (.doubleTrap cause th.pos g.core g.wgid (grpOf t) (t % 32))
  else modTh s w t (fun th => th.trapTo cause info addr (dispatchIndex s g t) g.hdr.traph)

/-- A lane meets a trap: it enters at once, or, with long-latency instructions outstanding, when they have completed
(R300, R302). -/
def raiseTrap (s : State) (w t cause : Nat) (info addr : DWord) : State :=
  if (thOf s w t).pend.isEmpty then enterTrap s w t cause info addr
  else modTh s w t (fun th => { th with due := some (cause, info, addr) })

/-- Which return: to the trapped position, after it, or in the handler's own text (18 R318). -/
inductive Rti where
  | re | next | drop
  deriving DecidableEq, Repr

/-- The thread after a return from its handler (18 R320). `len` is the length of the sequence its record names. -/
def Thread.rtiTo (th : Thread) (k : Rti) (len : Nat) : Thread :=
  let back := th.goPos th.tsq
  let th' := match k with
    | .re => { back with oneShot := true, arrived := th.tarr }
    | .next => back.advance len
    | .drop => { th with npc := th.npc + 1, seqS := false, arrived := Option.none }
  { th' with th := false, irs := th'.pos, moves := th.moves + 1, tarr := Option.none }

/-! ### Translation (10 R168 to R179) -/

/-- A valid leaf as a walk finds it (10 R171). -/
structure Leaf where
  r : Bool
  w : Bool
  staged : Bool
  repl : Bool
  prop : Bool
  uns : Bool
  base : Nat
  size : Nat
  level : Nat
  at0 : Nat        -- physical address of the entry

/-- The outcome of an address check for one lane (10 R178). -/
inductive Xlat where
  | ok (pa : Nat) (leaf : Leaf)
  | trap (cause : Nat) (info : Nat)
  | badPte (pa info : Nat)               -- an entry with an uncorrectable error: logged, and malformed (R171)
  | park (leafPa level size : Nat)     -- a leaf with V = 0 and NVK 1 to 3

/-- The old entry of a page-table entry that was changed and not yet invalidated (10 R172). -/
def staleEntry (s : State) (p pa : Nat) : Option DWord :=
  (s.stale.find? (fun e => e.1 == p && e.2.1 == pa)).map (fun e => e.2.2)

/-- A page-table entry as a walk reads it; until the invalidation completes either the old or the new one (10 R172), by the free
choice `pick`. -/
def readPte (s : State) (p pa : Nat) (pick : Nat) : Nat :=
  match staleEntry s p pa with
  | some old => if Config.nextPick (s.fresh + pick) then old.toNat else memRead s pa 8
  | none => memRead s pa 8

/-- The levels of the tables: number, low bit of the index, its width, page size of a leaf (10 R170). -/
def walkLevels : List (Nat × Nat × Nat × Nat) :=
  [(0, 43, 13, 0), (1, 31, 12, 2 ^ 31), (2, 26, 5, 2 ^ 26), (3, 21, 5, 2 ^ 21), (4, 16, 5, 2 ^ 16)]

/-- Whether a leaf entry is well formed, at a level, for a space (10 R169 to R171, R174). One that maps HBM must point to HBM that a die has
(log 7). -/
def leafOk (e lvl space size : Nat) : Bool :=
  lvl != 0 && bits e 15 0 == 0 && (if bit e 63 then bits e 55 52 == 0 else decide (bits e 55 52 < 4))
    && (space == 0 || (!bit e 60 && !bit e 57))
    && bits e 51 16 * 65536 % size == 0
    && (!bit e 63 || (bits e 51 50 == space && (space != 0 || paOk (bits e 51 16 * 65536))))

/-- Whether a pointer entry is well formed (10 R171): a table lies in HBM (R170, log 7). -/
def pointerOk (e lvl : Nat) : Bool :=
  lvl != 4 && bits e 15 0 == 0 && bits e 62 57 == 0 && bits e 55 52 == 0 && bits e 51 50 == 0
    && (!bit e 63 || paOk (bits e 51 16 * 65536))

/-- Trap 0x06 with a level, the write bit and a reason (10 R178). -/
def xlatTrap (lvl : Nat) (wr : Bool) (reason : Nat) : Xlat := .trap 0x06 (lvl * 4096 + b2n wr * 256 + reason)

/-- Walk the tables from a root (10 R170, R171, checks 5 and 6 of R178). -/
def walk (s : State) (p va : Nat) (wr : Bool) (pick : Nat) : List (Nat × Nat × Nat × Nat) → Nat → Xlat
  | [], _ => xlatTrap 4 wr 0x04
  | (lvl, lo, n, size) :: rest, table =>
    let pa := table + 8 * bits va (lo + n - 1) lo
    let space := bits va 55 54
    if memBad s pa 8 then .badPte pa (lvl * 4096 + b2n wr * 256 + 0x04)
    else
      let e := readPte s p pa pick
      if bit e 56 then
        if !leafOk e lvl space size then xlatTrap lvl wr 0x04
        else if bit e 63 then
          let base := bits e 51 16 * 65536
          .ok (base + va % size)
            { r := bit e 62, w := bit e 61, staged := bit e 60, repl := bit e 59, prop := bit e 58, uns := bit e 57
              base := base, size := size, level := lvl, at0 := pa }
        else if bits e 55 52 = 0 then xlatTrap lvl wr 0x05
        else .park pa lvl size
      else if !pointerOk e lvl then xlatTrap lvl wr 0x04
      else if !bit e 63 then xlatTrap lvl wr 0x05
      else walk s p va wr pick rest (bits e 51 16 * 65536)

/-- What an access needs of a page (10 R178). -/
structure Need where
  align : Nat
  rd : Bool
  wr : Bool
  atomic : Bool := false     -- both rights, REPL refused (checks 7, 9)
  staged : Bool := false     -- a staged instruction (check 8)
  ss : BitVec 4              -- storage scope mask (check 4)

/-- The bit of SS for a space (02 R34, 10 R168). -/
def ssBit (ss : BitVec 4) (space : Nat) : Bool := ss.getLsbD (space + 1)

/-- The root a die's walker uses for a context (10 R170). -/
def rootOf (s : State) (ctx die : Nat) : Nat :=
  match getCtx s ctx with
  | none => 0
  | some c => ((getPart s c.part).dies.idxOf? die).elim 0 (fun k => c.roots.getD k 0)

/-- The checks of 10 R178, in order, for an address of a context on a die. -/
def checkAddr (s : State) (ctx die : Nat) (va : Nat) (n : Need) (pick : Nat) : Xlat :=
  let p := ((getCtx s ctx).map Ctx.part).getD 0
  if va % n.align ≠ 0 then .trap 0x04 0
  else if va / 2 ^ 56 ≠ 0 then xlatTrap 0 n.wr 0x01
  else if bits va 55 54 = 3 then xlatTrap 0 n.wr 0x02
  else if !ssBit n.ss (bits va 55 54) then xlatTrap 0 n.wr 0x03
  else
    match walk s p va n.wr pick walkLevels (rootOf s ctx die) with
    | .ok pa l =>
      if n.rd && !l.r then xlatTrap l.level n.wr 0x06
      else if n.wr && !l.w then xlatTrap l.level n.wr 0x07
      else if n.staged != l.staged then .trap 0x07 0
      else if l.repl && (n.atomic || n.staged) then xlatTrap l.level n.wr 0x0A
      else .ok pa l
    | x => x

/-- A plain read in the context's tables, used for structures the device reads (05 R88, 13 R215, 17 R296). -/
def Need.plainRead (align : Nat) : Need := { align := align, rd := true, wr := false, ss := 0b1110 }

/-- The entries that a walk reads in memory (10 R170); one whose invalidation is in progress may come from a core's cache. -/
def walkPath (s : State) (p va pick : Nat) : List (Nat × Nat × Nat × Nat) → Nat → List Nat
  | [], _ => []
  | (lvl, lo, n, _) :: rest, table =>
    let pa := table + 8 * bits va (lo + n - 1) lo
    let e := readPte s p pa pick
    pa :: (if memBad s pa 8 || bit e 56 || !pointerOk e lvl || !bit e 63 then [] else walkPath s p va pick rest (bits e 51 16 * 65536))

/-- The correctable errors that the walk for an address meets are counted (01 R20), as if no core had its entries in a cache (log 17). -/
def countWalk (s : State) (ctx die va : Nat) (n : Need) : State :=
  let p := ((getCtx s ctx).map Ctx.part).getD 0
  if s.fixMem.isEmpty || va % n.align != 0 || va / 2 ^ 56 != 0 || bits va 55 54 == 3 || !ssBit n.ss (bits va 55 54) then s
  else (walkPath s p va s.fresh walkLevels (rootOf s ctx die)).foldl (fun s pa => countReads s pa 8) s

/-- Whether a byte reads as zero because its granule is unscrubbed or being cleared (10 R174). -/
def zeroed (s : State) (l : Leaf) (pa : Nat) : Bool := (l.uns && unscrubbed s (granuleOf pa)) || clearingAt s pa

/-- The bytes [va, va + n) in a context's tables, when every one of them passes as an ordinary read; none otherwise. -/
def readVirt (s : State) (ctx die va : Nat) (n : Nat) : Option (List Byte) :=
  (rangeFrom va n).mapM (fun a => match checkAddr s ctx die a (Need.plainRead 1) 0 with
    | .ok pa l => some (if zeroed s l pa then 0 else memByte s pa)
    | _ => none)

/-- A number of n bytes in a context's tables. -/
def readVirtNat (s : State) (ctx die va n : Nat) : Option Nat := (readVirt s ctx die va n).map leVal

/-- Whether an uncorrectable error is among n bytes in a context's tables that can be read (01 R20). -/
def virtBad (s : State) (ctx die va n : Nat) : Bool :=
  (rangeFrom va n).any (fun a => match checkAddr s ctx die a (Need.plainRead 1) 0 with
    | .ok pa l => !zeroed s l pa && memBad s pa 1
    | _ => false)

/-- The parts of a range in its 64 KiB pages: first address and bytes. -/
def pageParts (va n : Nat) : List (Nat × Nat) :=
  (rangeFrom (va / 65536) ((va + n + 65535) / 65536 - va / 65536)).map (fun k =>
    let a := max va (65536 * k)
    (a, min (va + n) (65536 * (k + 1)) - a))

/-- Log the bad page-table entry that an address check met, if it met one (10 R171). -/
def logPte (s : State) : Xlat → State
  | .badPte pa _ => logError s pa
  | _ => s

/-- The address of a stored byte in the other dies' copies of a REPL page (10 R173); the first access starts the clears it meets
(R174). A die whose table does not map the page has no copy there (log 100). -/
def replCopies (s : State) (ctx die va : Nat) : State × List Nat :=
  match getCtx s ctx with
  | none => (s, [])
  | some c => ((getPart s c.part).dies.filter (· != die)).foldl (fun r d =>
      match walk r.1 c.part va true r.1.fresh walkLevels (rootOf r.1 ctx d) with
      | .ok pa l => (startClear (countWalk r.1 ctx d va (Need.plainRead 1)) l.uns pa, r.2 ++ [pa])
      | x => (logPte (countWalk r.1 ctx d va (Need.plainRead 1)) x, r.2)) (s, [])

/-- The checks of a range log the bad page-table entries they meet, and count the entries that were corrected (10 R171, 01 R20). -/
def logRange (s : State) (ctx die va n : Nat) : State :=
  (pageParts va n).foldl (fun s x =>
    countWalk (logPte s (checkAddr s ctx die x.1 (Need.plainRead 1) 0)) ctx die x.1 (Need.plainRead 1)) s

/-- What the read of a checked range by a unit of the device does: it starts the clears it meets, and the errors that it corrects are
counted (10 R174, 01 R20). -/
def meetRange (s : State) (ctx die va n : Nat) : State :=
  (pageParts va n).foldl (fun s x => match checkAddr s ctx die x.1 (Need.plainRead 1) 0 with
    | .ok pa l => if zeroed s l pa then startClear s l.uns pa else readFrom s (((getCtx s ctx).map Ctx.part).getD 0) pa x.2
    | _ => s) s

end Sys2Proof.Machine
end

