-- ==== Sys2Proof/Machine/Operands.lean ====
section
/-!
DEFINITION. Operands.lean: reading operands of every form and type (02 R28 to R30, 03 R42), guards and active lanes (02 R24,
04 R59), and the frames in which instructions act: per lane, once per group, and long-latency (06 R100, 02 R26).
-/
namespace Sys2Proof.Machine

/-! ### Values -/

/-- The bits of a small integer in a floating-point format of `eb` exponent and `fb` fraction bits; every value from -128 to 127
converts exactly (02 R30). -/
def smallFloat (eb fb : Nat) (i : Int) : Nat :=
  let m := i.natAbs
  if m = 0 then 0
  else
    let e := m.log2
    b2n (decide (i < 0)) * 2 ^ (eb + fb) + (e + 2 ^ (eb - 1) - 1) * 2 ^ fb + (m - 2 ^ e) * 2 ^ (fb - e)

/-- An inline immediate as a value of a type (02 R30). -/
def immValue (ty : Ty) (i : BitVec 8) : Nat :=
  match ty with
  | .f32 => smallFloat 8 23 i.toInt
  | .f16 => smallFloat 5 10 i.toInt
  | .bf16 => smallFloat 8 7 i.toInt
  | .f16x2 => smallFloat 5 10 i.toInt * 65537
  | .bf16x2 => smallFloat 8 7 i.toInt * 65537
  | _ => wrap ty.width i.toInt

/-- IMM32 as a value of a type (02 R30). -/
def litValue (ty : Ty) (imm : Word) : Nat :=
  match ty with
  | .n64 => imm.toNat
  | .i64 | .b64 => wrap 64 imm.toInt
  | _ => imm.toNat % 2 ^ ty.width

/-- The value of an operand of a type in thread t, as an unsigned number of the type's width (02 R30, 03 R42). -/
def readTy (g : Wg) (t : Nat) (ty : Ty) (o : Opnd) (imm : Word) : Nat :=
  match o with
  | .v n =>
    let th := getTh g t
    if ty.width = 64 then (pairOf (th.rv n.toNat) (th.rv (n.toNat + 1))).toNat else (th.rv n.toNat).toNat % 2 ^ ty.width
  | .s n =>
    let u := getGroup g (grpOf t)
    if ty.width = 64 then (pairOf (u.ru n.toNat) (u.ru (n.toNat + 1))).toNat else (u.ru n.toNat).toNat % 2 ^ ty.width
  | .imm i => immValue ty i
  | .lit => litValue ty imm
  | _ => 0

/-- A value of a type as an integer, signed or unsigned as the type says (03 R41). -/
def intOf (ty : Ty) (n : Nat) : Int := if ty.signed then sext ty.width n else n

/-- A predicate operand in a thread. -/
def readPred (g : Wg) (t : Nat) : Opnd → Bool
  | .p n => (getTh g t).rp n.toNat
  | _ => false

/-- Write a predicate operand in a thread. -/
def writePred (g : Wg) (t : Nat) (d : Opnd) (x : Bool) : Wg :=
  match d with
  | .p n => g.modTh t (fun th => th.wp n.toNat x)
  | _ => g

/-- Whether an operand is a uniform register. -/
def isUni : Opnd → Bool
  | .s _ => true
  | _ => false

/-- The virtual address of a memory-class form (02 R34, 10 R181). -/
def vaOf (g : Wg) (t : Nat) (a b : Opnd) (mod : BitVec 3) (ofs : Int) : Nat :=
  wrap 64 ((readTy g t .n64 a 0 : Int) + intOf .i32 (readTy g t .i32 b 0) * (2 ^ mod.toNat : Nat) + ofs)

/-- The address of `lds` and `sts`: base, scaled index and offset, modulo 2^32 (08 R148). -/
def spAddr (g : Wg) (t : Nat) (a b : Opnd) (mod : BitVec 3) (imm : Word) : Nat :=
  wrap 32 ((readTy g t .n32 a 0 : Int) + intOf .i32 (readTy g t .i32 b 0) * (2 ^ mod.toNat : Nat) + imm.toInt)

/-- The value of a 64-bit register operand. -/
def readPair (g : Wg) (t : Nat) (o : Opnd) : DWord := BitVec.ofNat 64 (readTy g t .n64 o 0)

/-! ### Guards and lanes -/

/-- Whether a lane's guard is true (02 R24). -/
def guardOn (h : Hdr) (th : Thread) : Bool := th.rp h.pred.toNat != h.neg

/-- Whether a lane of the issuing bundle is active; `helpers` says whether helper lanes take part (02 R24, 04 R59). -/
def activeIn (h : Hdr) (helpers : Bool) (th : Thread) : Bool :=
  th.live && guardOn h th && (match th.kind with | .real => true | .helper => helpers | .absent => false)

/-- The groups of a list of threads, ascending, each once. -/
def groupsOf (ts : List Nat) : List Nat := ts.foldl (fun gs t => insNat gs (grpOf t)) []

/-! ### How a lane leaves its instruction -/

/-- The end of an instruction in a lane. -/
inductive End where
  | adv                                             -- to the next position
  | goto (npc : Word)                               -- a control transfer
  | stay (w : Wait)                                 -- it has not performed; it waits and issues again
  | rest (w : Wait)                                 -- it has performed all but the end of its wait
  | gone                                            -- the lane has ended
  | trap (cause : Nat) (info addr : DWord)

/-- One instruction of every window has issued (02 R26). -/
def Thread.tick (th : Thread) : Thread := { th with pend := th.pend.map (fun p => { p with left := p.left - 1 }) }

/-- Leave an instruction (02 R26, 18 R299, R305): `closes` marks a region-closing one. An instruction that stays has not
performed, and uses up no window. -/
def finish (s : State) (w t : Nat) (closes : Bool) (e : End) : State :=
  let g := getWg s w
  match e with
  | .adv =>
    modTh s w t (fun th =>
      let th := th.tick.advance (seqLen s g th.seqM)
      let th := { th with wait := .none, relAt := none }
      if closes then th.setIrs th.pos else th)
  | .goto npc => modTh s w t (fun th => { th.endWindows with npc := npc, wait := .none })
  | .stay wt => modTh s w t (fun th => { th with wait := wt })
  | .rest wt => modTh s w t (fun th => { th.tick with wait := wt })
  | .gone => s
  | .trap c i a => raiseTrap s w t c i a

/-- What a meaning does in one lane: the state after its effect, and how the lane leaves. -/
abbrev LaneAct := State → Nat → Nat → State × End

/-- An instruction that acts lane by lane, in ascending order; lanes that are not active go on (00 R6, 02 R24). -/
def perLane (h : Hdr) (helpers closes : Bool) (act : LaneAct) (s : State) : State :=
  let w := s.bundle.wg
  s.bundle.lanes.foldl (fun s t =>
    if activeIn h helpers (thOf s w t) then
      let r := act s w t
      finish r.1 w t closes r.2
    else finish s w t closes .adv) s

/-- The same for an instruction that stores in the order of the lanes: behind a lane that waits for the buffers the later active ones wait
too. `idle` says whether it closes a region in the lanes that are not active. -/
def perLaneInOrder (h : Hdr) (helpers closes idle : Bool) (act : LaneAct) (s : State) : State :=
  let w := s.bundle.wg
  (s.bundle.lanes.foldl (fun (q : State × Bool) t =>
    if activeIn h helpers (thOf q.1 w t) then
      if q.2 then (finish q.1 w t closes (.stay .drain), true)
      else
        let r := act q.1 w t
        (finish r.1 w t closes r.2, match r.2 with | .stay .drain => true | _ => false)
    else (finish q.1 w t idle .adv, q.2)) (s, false)).1

/-- An instruction that acts once for each group with an active lane in the bundle; it leaves the same way in every lane of the group
in the bundle (06 R100). `act` gets the active lanes. -/
def perGroup (h : Hdr) (helpers closes : Bool) (act : State → Nat → List Nat → State × End) (s : State) : State :=
  let w := s.bundle.wg
  (groupsOf s.bundle.lanes).foldl (fun s k =>
    let ls := s.bundle.lanes.filter (fun t => grpOf t == k)
    let al := ls.filter (fun t => activeIn h helpers (thOf s w t))
    if al.isEmpty then ls.foldl (fun s t => finish s w t closes .adv) s
    else
      let r := act s w al
      ls.foldl (fun s t => finish s w t closes r.2) r.1) s

/-- Raise flags in a lane (03 R50); NF = 1 leaves them (02 R25). -/
def orFlags (h : Hdr) (fl : Word) (g : Wg) (t : Nat) : Wg :=
  if h.nf then g else g.modTh t (fun th => { th with fflags := th.fflags ||| fl })

/-- A result: register contents from the destination's number on, and flags raised. -/
structure Res where
  vals : List Word
  flags : Word := 0

/-- An instruction that computes registers from registers: per lane, or once for a group with a uniform destination, then with the
flags in every active lane (06 R100, 07 R119). -/
def execReg (h : Hdr) (d : Opnd) (f : Wg → Nat → Res) (s : State) : State :=
  if isUni d then
    perGroup h true false (fun s w al =>
      let g := getWg s w
      let t := al.headD 0
      let r := f g t
      (setWg s w (al.foldl (orFlags h r.flags) (g.writeAll t (regWrites d r.vals))), .adv)) s
  else
    perLane h true false (fun s w t =>
      let g := getWg s w
      let r := f g t
      (setWg s w (orFlags h r.flags (g.writeAll t (regWrites d r.vals)) t), .adv)) s

/-- An outstanding long-latency instruction whose window is the next LOOK instructions: its own end counts one (02 R26). -/
def Pend.start (h : Hdr) (tok : Nat) (src : LLSrc) (writes : List RegWrite) (flags : Word) : Pend :=
  { tok := tok, left := h.look.toNat + 1, src := src, writes := writes, flags := if h.nf then 0 else flags
    closeTo := none, origin := none, acq := 0, bad := none, mine := true, olds := [], seen := none, snap := none, undo := [] }

/-- The outstanding instruction as it is in a lane that is guarded off at it: it issued there too, so the lane awaits the uniform
register that the group's active lanes load, and nothing else of it is the lane's (02 R24, R26). -/
def Pend.shared (p : Pend) : Pend := { p with flags := 0, closeTo := none, origin := none, acq := 0, mine := false }

/-- The lanes of the issuing bundle in a group. -/
def laneGroup (s : State) (k : Nat) : List Nat := s.bundle.lanes.filter (fun t => grpOf t == k)

/-- Add an outstanding long-latency instruction to a thread (02 R26). -/
def addPend (s : State) (w t : Nat) (p : Pend) : State := modTh s w t (fun th => { th with pend := th.pend ++ [p] })

/-- Add an instruction with a uniform destination to every lane of its group in the bundle; `al` are the active ones (02 R24, R26). -/
def sharePend (s : State) (w : Nat) (al : List Nat) (p : Pend) : State :=
  (laneGroup s (grpOf (al.headD 0))).foldl (fun s t => addPend s w t (if al.contains t then p else p.shared)) s

/-- A long-latency instruction whose result is computed when it issues (02 R26). -/
def execRegLL (h : Hdr) (d : Opnd) (f : Wg → Nat → Res) (s : State) : State :=
  let mk (s : State) (r : Res) : Pend := Pend.start h s.fresh .known (regWrites d r.vals) r.flags
  if isUni d then
    perGroup h true false (fun s w al =>
      let p := mk s (f (getWg s w) (al.headD 0))
      ((sharePend s w al p).bump, .adv)) s
  else
    perLane h true false (fun s w t => ((addPend s w t (mk s (f (getWg s w) t))).bump, .adv)) s

/-! ### Long-latency results (02 R27) -/

/-- Whether two byte ranges overlap. -/
def overlap (a n b m : Nat) : Bool := decide (a < b + m) && decide (b < a + n)

/-- The bytes a pending load will read. -/
def Pend.range (p : Pend) : Option (Nat × Nat) :=
  match p.src with
  | .load pa ty _ _ => some (pa, ty.width / 8)
  | _ => none

/-- Whether a request that has not been performed is a thread's. -/
def Req.ofThread (r : Req) (w t : Nat) : Bool := r.wg == w && r.who.contains t

/-- Whether a range is touched by a request of a thread that no home slice has answered, issued before a number (11 R186). -/
def ownReqAt (s : State) (w t bound pa n : Nat) : Bool :=
  s.reqs.any (fun r => r.ofThread w t && decide (r.id < bound) && overlap r.pa r.size pa n)

/-- Whether a core's buffer holds the byte at an address (10 R177). -/
def buffered (s : State) (core a : Nat) : Bool :=
  (getCore s core).lines.any (fun l => l.pa ≤ a && decide (a < l.pa + 128) && (SMap.find l.bytes (a - l.pa)).isSome)

/-- Whether a read of a core meets an uncorrectable word: only bytes that come from memory do (10 R177, R181). -/
def coreBad (s : State) (core pa n : Nat) : Bool :=
  (!s.badMem.isEmpty || !paOk pa) && (rangeFrom pa n).any (fun a => memBad s a 1 && !buffered s core a)

/-- What the read of n bytes by a core does, unless its buffer holds them all (10 R177). -/
def coreMeets (s : State) (core part pa n : Nat) : State :=
  if (rangeFrom pa n).all (buffered s core) then s else readFrom s part pa n

/-- Remote promotion: every line and every combining entry of the partition's cores is performed (11 R193). -/
def promoteAll (s : State) (p : Nat) : State :=
  (getPart s p).cores.foldl (fun s c => performLines (sendCombs s (clusterOf c)) c (fun _ => true)) s

/-- Whether the granules of every buffered line and combining entry of a partition are free of clears. -/
def promotable (s : State) (p : Nat) : Bool :=
  s.clearing.isEmpty || (getPart s p).cores.all (fun c =>
    (getCore s c).lines.all (fun l => l.copies.all (fun q => !clearingAt s q))
      && (getCombs s (clusterOf c)).all (fun e => !clearingAt s e.pa))

/-- The lanes of a thread's group that perform an outstanding instruction together: those that have its number. -/
def sharersOf (s : State) (w t tok : Nat) : List Nat :=
  (rangeFrom (32 * grpOf t) 32).filter (fun u => (thOf s w u).pend.any (fun q => q.tok == tok && q.mine))

/-- Whether a load overlaps a range. -/
def Pend.hits (p : Pend) (pa n : Nat) : Bool :=
  match p.range with
  | some (q, m) => overlap pa n q m
  | none => false

/-- The kind of storage at a physical address, as a bit of a mask (02 R34, 10 R169). -/
def kindBit (pa : Nat) : BitVec 4 := 1#4 <<< (pa / 2 ^ 50 + 1)

/-- Whether an older outstanding instruction of a lane comes before a pending load: a load of a byte of its, or an acquire with its kind of
storage in the mask (11 R186, R188). -/
def Pend.precedes (q p : Pend) : Bool :=
  match p.range with
  | some (pa, n) => decide (q.tok < p.tok) && (q.hits pa n || q.acq &&& kindBit pa != 0)
  | none => false

/-- Whether what comes before a pending load is done in every lane that performs it: the lanes' own requests to its bytes have been answered,
their older loads there have read, and their older acquires are performed (11 R186, R188). -/
def sharersReady (s : State) (w t : Nat) (p : Pend) (pa n : Nat) : Bool :=
  (sharersOf s w t p.tok).all (fun u => !ownReqAt s w u p.tok pa n && !(thOf s w u).pend.any (fun q => q.precedes p))

/-- Whether a pending load may read now: no clear holds its granule (10 R174), and what comes before it in its lanes is done (11 R186,
R188). -/
def canCapture (s : State) (w t : Nat) (p : Pend) : Bool :=
  match p.src with
  | .load pa ty _ rpro => !clearingAt s pa && sharersReady s w t p pa (ty.width / 8)
      && (!rpro || promotable s (getWg s w).part)
  | _ => true

/-- A pending load reads its bytes, through the core's buffer (10 R177); an acquire is performed with it (11 R188). -/
def capturePend (s : State) (core : Nat) (p : Pend) : Pend :=
  match p.src with
  | .load pa ty d _ =>
    let n := ty.width / 8
    { p with src := .known, writes := tyWrites d ty (coreRead s core pa n), acq := 0
             bad := if coreBad s core pa n then p.bad else none }
  | _ => p

/-- The pending load of a number reads, in every lane that shares it: after promotion, and after the cluster's reductions there. -/
def captureTok (s : State) (w t : Nat) (p : Pend) : State :=
  match p.src with
  | .load pa ty _ rpro =>
    let g := getWg s w
    let s := if rpro then promoteAll s g.part else s
    let s := sendCombsAt s (clusterOf g.core) pa (ty.width / 8)
    let q := capturePend s g.core p
    let s := coreMeets s g.core g.part pa (ty.width / 8)
    (rangeFrom (32 * grpOf t) 32).foldl (fun s u =>
      if (thOf s w u).pend.any (fun x => x.tok == p.tok) then
        modTh s w u (fun th => { th with pend := th.pend.map (fun x =>
          if x.tok == p.tok then { x with src := q.src, writes := q.writes, acq := q.acq, bad := q.bad } else x) })
      else s) s
  | _ => s

/-- Those of a thread's outstanding instructions that pass a test, with what comes before them, oldest first. -/
def withOlder (ps : List Pend) (f : Pend → Bool) : List Pend :=
  ps.foldr (fun p l => if f p || l.any p.precedes then p :: l else l) []

/-- Perform those of a thread's loads that pass a test, after what comes before them, each if it may read. -/
def captureWhere (s : State) (w t : Nat) (f : Pend → Bool) : State :=
  (withOlder (thOf s w t).pend f).foldl (fun s p => if canCapture s w t p then captureTok s w t p else s) s

/-- Perform those of a thread's loads that overlap a range, so that what it does next there comes after them; false while one of them,
or one of its own requests there, still waits (11 R186). -/
def captureOver (s : State) (w t pa n : Nat) : State × Bool :=
  let s := captureWhere s w t (fun p => p.hits pa n)
  (s, !(thOf s w t).pend.any (fun p => p.hits pa n) && !ownReqAt s w t s.fresh pa n)

/-- Perform all of a thread's loads that may read (11 R188). -/
def captureAll (s : State) (w t : Nat) : State := captureWhere s w t (fun _ => true)

/-- Write the result of an outstanding instruction in a lane: registers, flags, uncorrectable data, and the restart point of a
region-closing one (02 R26, R27, 18 R305). -/
def applyPend (g : Wg) (t : Nat) (p : Pend) : Wg :=
  let g := g.writeAll t p.writes
  let g := match p.bad with
    | some a => p.writes.foldl (fun (g : Wg) (r : RegWrite) =>
        if r.uni then g.modGroup (grpOf t) (fun x => { x with badu := SMap.put x.badu r.reg a })
        else g.modTh t (fun x => { x with badv := SMap.put x.badv r.reg a })) g
    | none => g
  g.modTh t (fun th =>
    let th := { th with fflags := th.fflags ||| p.flags }
    match p.closeTo with | some x => th.setIrs x | none => th)

/-- The registers that an operand names from its number on. -/
def opndRegs (d : Opnd) (n : Nat) : List (Bool × Nat) :=
  match d with
  | .v k => (rangeFrom k.toNat n).map (fun r => (false, r))
  | .s k => (rangeFrom k.toNat n).map (fun r => (true, r))
  | _ => []

/-- The registers that an outstanding instruction writes, uniform or vector; of an `stx`, those that may get old data too. -/
def Pend.dests (p : Pend) : List (Bool × Nat) :=
  match p.src with
  | .known => p.writes.map (fun r => (r.uni, r.reg))
  | .load _ ty d _ => opndRegs d (if ty.width = 64 then 2 else 1)
  | .req _ ty d c => opndRegs d (if ty.width = 64 then 2 else 1) ++ opndRegs c 2

/-- Whether two outstanding instructions write a common register. -/
def Pend.meetsDest (p q : Pend) : Bool := p.dests.any q.dests.contains

/-- The contents of a register in thread t's lane or group, as a write of it. -/
def regNow (g : Wg) (t : Nat) (r : Bool × Nat) : RegWrite :=
  { uni := r.1, reg := r.2, val := if r.1 then (getGroup g (grpOf t)).ru r.2 else (getTh g t).rv r.2 }

/-- Take an outstanding instruction, by its number, out of the early results of a group's lanes. -/
def dropEarly (s : State) (w t tok : Nat) : State :=
  (rangeFrom (32 * grpOf t) 32).foldl (fun s u =>
    if (thOf s w u).early.any (fun p => p.tok == tok) then
      modTh s w u (fun th => { th with early := th.early.filter (fun p => p.tok != tok) }) else s) s

/-- An instruction of a lane has issued: results that came before the end of their windows are written again where the window ends, over
what window instructions wrote (02 R27); `all` where every window ends. A uniform register gets it once. -/
def endEarly (s : State) (w t : Nat) (all : Bool) : State :=
  if (thOf s w t).early.isEmpty then s
  else
    let es := (thOf s w t).early.map (fun p => { p with left := if all then 0 else p.left - 1 })
    let s := modTh s w t (fun th => { th with early := es.filter (fun p => p.left != 0) })
    (es.filter (fun p => p.left == 0)).foldl (fun s p =>
      let s := modWg s w (fun g => applyPend g t { p with flags := 0, closeTo := none })
      if p.dests.any Prod.fst then dropEarly s w t p.tok else s) s

/-- A lane that has left its wait by a trap takes it: its windows end (02 R27). -/
def trapNow (s : State) (w t cause : Nat) (info addr : DWord) : State := raiseTrap (endEarly s w t true) w t cause info addr

/-! ### Releases (10 R177, 11 R185, R188, R196) -/

/-- The bit of SS for a space (02 R34, 10 R168). -/
def inMask (ss : BitVec 4) (pa : Nat) : Bool := ss.getLsbD (pa / 2 ^ 50 + 1)

/-- Whether a thread has requests, issued before a number, to storage of some kinds, that no home slice has answered. -/
def ownReqsIn (s : State) (w t bound : Nat) (ss : BitVec 4) : Bool :=
  s.reqs.any (fun r => r.ofThread w t && decide (r.id < bound) && inMask ss r.pa)

/-- Whether the core's buffered stores to some kinds of storage, and its reductions there, with stamps below a bound have all been performed (10
R177, 11 R185, R196). -/
def drainedIn (s : State) (core bound : Nat) (ss : BitVec 4) : Bool :=
  !((getCore s core).lines.any (fun l => decide (l.stamp < bound) && inMask ss l.pa))
  && !((getCombs s (clusterOf core)).any (fun c => inMask ss c.pa && c.who.any (fun e => e.core == core && decide (e.stamp < bound))))

/-- Whether they have to every kind. -/
def drained (s : State) (core bound : Nat) : Bool := drainedIn s core bound 0b1111

/-- Whether what earlier releases order before a line has been performed (11 R188). -/
def Line.ripe (s : State) (core : Nat) (l : Line) : Bool := l.after.all (fun a => drainedIn s core a.1 a.2)

/-- The kinds of storage of which a release waits for the core's buffered stores: at die scope or wider it drains the buffer whole, at cluster
scope it orders those in its mask (10 R177, 11 R185). -/
def drainMask (scope : Nat) (ss : BitVec 4) : BitVec 4 := if scope ≥ 3 then 0b1111 else if scope = 2 then ss else 0

/-- Whether a pending load reads storage of some kinds. -/
def Pend.readsIn (p : Pend) (ss : BitVec 4) : Bool :=
  match p.range with
  | some (pa, _) => p.mine && inMask ss pa
  | none => false

/-- Whether a thread's earlier loads and requests to storage of some kinds are done. -/
def ownDone (s : State) (w t bound : Nat) (ss : BitVec 4) : Bool :=
  !ownReqsIn s w t bound ss && (thOf s w t).pend.all (fun p => !p.readsIn ss)

/-- Whether a thread's release of accesses to some kinds of storage, first tried when the stamp was `bound`, may complete; `drain` are the
kinds of which it waits for its core's lines and reductions (10 R177, 11 R185). -/
def releaseDone (s : State) (w t : Nat) (drain ss : BitVec 4) (bound : Nat) : Bool :=
  ownDone s w t bound ss && drainedIn s (getWg s w).core bound drain

/-- Whether something is left of what a release fence of a thread orders before its later stores (11 R188). -/
def Order.left (s : State) (w t : Nat) (o : Order) : Bool :=
  ownReqsIn s w t o.bound o.ss || (o.wide && !drainedIn s (getWg s w).core o.bound o.ss)

/-- The release fences of a thread that order what it stores to some kinds of storage (11 R185, R188). -/
def Thread.ordersOn (th : Thread) (kinds : BitVec 4) : List Order := th.order.filter (fun o => o.ss &&& kinds != 0)

/-- Whether nothing that a release fence of a thread orders before its stores to some kinds of storage is left (11 R188). -/
def orderDone (s : State) (w t : Nat) (kinds : BitVec 4) : Bool := ((thOf s w t).ordersOn kinds).all (fun o => !o.left s w t)

/-- Whether the requests that release fences order before a thread's stores to some kinds of storage are done (11 R188). -/
def ownOrdered (s : State) (w t : Nat) (kinds : BitVec 4) : Bool :=
  ((thOf s w t).ordersOn kinds).all (fun o => !ownReqsIn s w t o.bound o.ss)

/-- What its core has buffered that a thread's store to some kinds of storage is performed after (11 R188). -/
def Thread.afterOf (th : Thread) (kinds : BitVec 4) : List (Nat × BitVec 4) :=
  ((th.ordersOn kinds).filter Order.wide).map (fun o => (o.bound, o.ss))

/-- The requests of a thread that its read-modify-write of some kinds of storage is performed after (11 R188). -/
def behindOf (s : State) (w t : Nat) (kinds : BitVec 4) : List Nat :=
  (s.reqs.filter (fun r => r.ofThread w t
    && ((thOf s w t).ordersOn kinds).any (fun o => decide (r.id < o.bound) && inMask o.ss r.pa))).map Req.id

/-- Try a release, for the lanes `keep` of the bundle, of the accesses of the threads `ts` of one core to some kinds of storage, and of the
core's buffers for the kinds `drain`: their loads are performed; if buffers or requests remain, each lane of `keep` keeps the stamp it waits
for. -/
def tryRelease (s : State) (w : Nat) (ts keep : List Nat) (drain ss : BitVec 4) : State × Bool :=
  let s := ts.foldl (fun s t => captureWhere s w t (fun p => p.readsIn ss)) s
  let bound := (thOf s w (keep.headD 0)).relAt.getD s.fresh
  if ts.all (fun t => releaseDone s w t drain ss bound) then (s, true)
  else (keep.foldl (fun s t => modTh s w t (fun th => { th with relAt := some bound })) s, false)

/-- A release at system scope over host memory completes: its zero-length read follows the context's posted writes (22 R354). -/
def flushHost (s : State) (part scope : Nat) (ss : BitVec 4) : State :=
  if scope = 5 && ss.getLsbD 3 then modDev s (fun d => { d with posted := d.posted ++ [.read (part + 1) 0 0] }) else s

end Sys2Proof.Machine
end

