-- ==== Sys2Proof/Machine/Flags.lean ====
section
/-!
DEFINITION. Flags.lean: the floating-point formats, rounding, and every flag computation (03 R44 to R50).
-/
namespace Sys2Proof.Machine

/-- The flag bits of %fflags (03 R50). -/
def fNV : Word := 16
def fDZ : Word := 8
def fOF : Word := 4
def fUF : Word := 2
def fNX : Word := 1

/-- A scalar format: exponent and fraction bits (03 R44). -/
structure Fmt where
  eb : Nat
  fb : Nat
  deriving DecidableEq, Repr

def Fmt.f32 : Fmt := { eb := 8, fb := 23 }
def Fmt.f16 : Fmt := { eb := 5, fb := 10 }
def Fmt.bf16 : Fmt := { eb := 8, fb := 7 }

/-- The bias. -/
def Fmt.bias (f : Fmt) : Int := (2 : Int) ^ (f.eb - 1) - 1
/-- The all-ones exponent field. -/
def Fmt.emax (f : Fmt) : Nat := 2 ^ f.eb - 1
/-- The canonical NaN (03 R44). -/
def Fmt.nan (f : Fmt) : Nat := f.emax * 2 ^ f.fb + 2 ^ (f.fb - 1)
/-- An infinity. -/
def Fmt.inf (f : Fmt) (neg : Bool) : Nat := b2n neg * 2 ^ (f.eb + f.fb) + f.emax * 2 ^ f.fb
/-- A zero. -/
def Fmt.zero (f : Fmt) (neg : Bool) : Nat := b2n neg * 2 ^ (f.eb + f.fb)
/-- The largest finite value of a sign. -/
def Fmt.max (f : Fmt) (neg : Bool) : Nat := f.inf neg - 1

/-- The scalar format of a type (03 R44, R45). -/
def fmtOf : Ty → Fmt
  | .f16 | .f16x2 => Fmt.f16
  | .bf16 | .bf16x2 => Fmt.bf16
  | _ => Fmt.f32

/-- A value of a format: NaN (signalling or quiet), infinity, or (-1)^neg × mag × 2^exp. -/
inductive FV where
  | nan (sig : Bool)
  | inf (neg : Bool)
  | num (neg : Bool) (mag : Nat) (exp : Int)
  deriving DecidableEq, Repr

/-- The value of the bits of a format; with FTZ a subnormal reads as a zero of its sign (03 R44, R47). -/
def FV.ofBits (f : Fmt) (ftz : Bool) (n : Nat) : FV :=
  let neg := bit n (f.eb + f.fb)
  let e := n / 2 ^ f.fb % 2 ^ f.eb
  let fr := n % 2 ^ f.fb
  if e = f.emax then (if fr = 0 then .inf neg else .nan (!bit n (f.fb - 1)))
  else if e = 0 then .num neg (if ftz then 0 else fr) (1 - f.bias - f.fb)
  else .num neg (fr + 2 ^ f.fb) ((e : Int) - f.bias - f.fb)

def FV.isNan : FV → Bool
  | .nan _ => true
  | _ => false

/-- Whether a value is a signalling NaN. -/
def FV.sig : FV → Bool
  | .nan s => s
  | _ => false

/-- The rounding modes (03 R48). -/
inductive RM where
  | rne | rtz | rdn | rup | rna
  deriving DecidableEq, Repr

/-- A mode by its number in MOD or %frm; 5 to 7 are never held in %frm (02 R33, 03 R49). -/
def RM.ofCode (n : Nat) : RM :=
  match n with
  | 1 => .rtz
  | 2 => .rdn
  | 3 => .rup
  | 4 => .rna
  | _ => .rne

/-- The mode an instruction uses in a lane: MOD's, or %frm's when MOD is 5 (03 R48). -/
def modeOf (mod : BitVec 3) (frm : Word) : RM := if mod = 5 then RM.ofCode (frm.toNat % 8) else RM.ofCode mod.toNat

/-- The FTZ bit of %frm (03 R49). -/
def ftzOf (frm : Word) : Bool := bit frm.toNat 3

/-- Whether a magnitude with integer part m, remainder r out of d, and sign, rounds away from zero. -/
def roundsUp (rm : RM) (neg : Bool) (m r d : Nat) : Bool :=
  match rm with
  | .rne => decide (2 * r > d) || (decide (2 * r = d) && m % 2 == 1)
  | .rtz => false
  | .rdn => neg && decide (r > 0)
  | .rup => !neg && decide (r > 0)
  | .rna => decide (2 * r ≥ d)

/-- mag × 2^exp as a multiple of 2^q: integer part, remainder and divisor. -/
def scaleTo (mag : Nat) (exp q : Int) : Nat × Nat × Nat :=
  if exp ≥ q then (mag * 2 ^ (exp - q).toNat, 0, 1)
  else
    let d := 2 ^ (q - exp).toNat
    (mag / d, mag % d, d)

/-- The result of an overflow (03 R48). -/
def overflowTo (f : Fmt) (rm : RM) (neg : Bool) : Nat :=
  match rm with
  | .rne | .rna => f.inf neg
  | .rtz => f.max neg
  | .rdn => if neg then f.inf true else f.max false
  | .rup => if neg then f.max true else f.inf false

/-- Round (-1)^neg × mag × 2^exp once to a format: bits and flags. Tininess is judged after rounding with unbounded exponent
(DEDUCED, log 12); with FTZ a nonzero subnormal result becomes a zero of its sign with UF and NX (03 R47, R48). -/
def roundTo (f : Fmt) (rm : RM) (ftz : Bool) (neg : Bool) (mag : Nat) (exp : Int) : Nat × Word :=
  if mag = 0 then (f.zero neg, 0)
  else
    let e := (mag.log2 : Int) + exp
    let emin := 1 - f.bias
    let (m1, r1, d1) := scaleTo mag exp (e - f.fb)
    let m1 := m1 + b2n (roundsUp rm neg m1 r1 d1)
    let e1 := if m1 ≥ 2 ^ (f.fb + 1) then e + 1 else e
    let tiny := decide (e1 < emin)
    let q := max e emin - f.fb
    let (m, r, d) := scaleTo mag exp q
    let m := m + b2n (roundsUp rm neg m r d)
    let (m, q) := if m ≥ 2 ^ (f.fb + 1) then (m / 2, q + 1) else (m, q)
    let s := f.zero neg
    if m < 2 ^ f.fb then
      if ftz && m != 0 then (s, fUF ||| fNX)
      else (s + m, if r = 0 then 0 else if tiny then fUF ||| fNX else fNX)
    else
      let be := q + f.fb + f.bias
      if be ≥ (f.emax : Int) then (overflowTo f rm neg, fOF ||| fNX)
      else (s + be.toNat * 2 ^ f.fb + (m - 2 ^ f.fb), if r = 0 then 0 else if tiny then fUF ||| fNX else fNX)

/-- A term of an exact sum: sign, magnitude, exponent. -/
abbrev Term := Bool × Nat × Int

/-- The exact sum of terms, in units of 2^exp with the least exponent. -/
def sumTerms (ts : List Term) : Int × Int :=
  let e := ts.foldl (fun e t => min e t.2.2) 10000
  (ts.foldl (fun a t => a + (if t.1 then -1 else 1) * ((t.2.1 * 2 ^ (t.2.2 - e).toNat : Nat) : Int)) 0, e)

/-- Round an exact sum once; an exact zero keeps the common sign of its terms, and from opposite signs is +0, or -0 under RDN
(03 R48, 07 R121). -/
def roundSum (f : Fmt) (rm : RM) (ftz : Bool) (ts : List Term) : Nat × Word :=
  let (n, e) := sumTerms ts
  if n = 0 then
    (f.zero (if ts.all (fun t => t.1) then true else if ts.all (fun t => !t.1) then false else rm == .rdn), 0)
  else roundTo f rm ftz (decide (n < 0)) n.natAbs e

/-- NV when some operand is a signalling NaN (03 R46). -/
def sigFlags (xs : List FV) : Word := if xs.any FV.sig then fNV else 0

/-- The product of two values: none for ∞ × 0; NaNs are not given to it. -/
def mulFV : FV → FV → Option FV
  | .num s m e, .num s' m' e' => some (.num (s != s') (m * m') (e + e'))
  | .inf s, .num s' m _ => if m = 0 then none else some (.inf (s != s'))
  | .num s m _, .inf s' => if m = 0 then none else some (.inf (s != s'))
  | .inf s, .inf s' => some (.inf (s != s'))
  | _, _ => none

/-- The rounded sum of values none of which is a NaN: NV and the canonical NaN for ∞ − ∞ (07 R121). -/
def addFV (f : Fmt) (rm : RM) (ftz : Bool) (xs : List FV) : Nat × Word :=
  let pos := xs.any (· == .inf false)
  let neg := xs.any (· == .inf true)
  if pos && neg then (f.nan, fNV)
  else if pos then (f.inf false, 0)
  else if neg then (f.inf true, 0)
  else roundSum f rm ftz (xs.filterMap (fun x => match x with | .num s m e => some (s, m, e) | _ => none))

/-- Compare two numbers (not NaNs): negative, zero or positive. Both zeros compare equal. -/
def cmpFV : FV → FV → Int
  | .inf s, .inf s' => if s == s' then 0 else if s then -1 else 1
  | .inf s, _ => if s then -1 else 1
  | _, .inf s => if s then 1 else -1
  | .num s m e, .num s' m' e' => (sumTerms [(s, m, e), (!s', m', e')]).1
  | _, _ => 0

/-- Integer square root of n, from bit k down (structural). -/
def isqrtFrom (n : Nat) : Nat → Nat → Nat
  | 0, r => r
  | k + 1, r =>
    let c := r + 2 ^ k
    isqrtFrom n k (if c * c ≤ n then c else r)

/-- Integer square root. -/
def isqrt (n : Nat) : Nat := isqrtFrom n (n.log2 / 2 + 1) 0

/-- The integer saturation of 06 R106: clamp to a type's range, or wrap. -/
def narrow (ty : Ty) (sat : Bool) (i : Int) : Nat :=
  let w := ty.width
  let lo : Int := if ty.signed then -((2 ^ (w - 1) : Nat) : Int) else 0
  let hi : Int := if ty.signed then ((2 ^ (w - 1) : Nat) : Int) - 1 else ((2 ^ w : Nat) : Int) - 1
  wrap w (if sat then max lo (min hi i) else i)

end Sys2Proof.Machine
end

