-- ==== Sys2Proof/Machine/Integer.lean ====
section
/-!
DEFINITION. Integer.lean: the integer, bit and compare instructions (06 R105 to R113).
-/
namespace Sys2Proof.Machine

/-- A result of a type in registers. -/
def tyRes (ty : Ty) (n : Nat) : Res := { vals := extTy ty n }

/-- A result in one 32-bit register. -/
def wordRes (n : Nat) : Res := { vals := [BitVec.ofNat 32 n] }

/-- An instruction on two operands of a type, by their integers (06 R106). -/
def intOp2 (h : Hdr) (ty : Ty) (sat : Bool) (d a b : Opnd) (imm : Word) (f : Int → Int → Int) (s : State) : State :=
  execReg h d (fun g t =>
    tyRes ty (narrow ty sat (f (intOf ty (readTy g t ty a imm)) (intOf ty (readTy g t ty b imm))))) s

/-- An instruction on one operand of a type, by its integer (06 R106). -/
def intOp1 (h : Hdr) (ty : Ty) (sat : Bool) (d a : Opnd) (imm : Word) (f : Int → Int) (s : State) : State :=
  execReg h d (fun g t => tyRes ty (narrow ty sat (f (intOf ty (readTy g t ty a imm))))) s

/-- An instruction on the raw bits of two operands (06 R109). -/
def bitOp2 (h : Hdr) (ty : Ty) (d a b : Opnd) (imm : Word) (f : Nat → Nat → Nat) (s : State) : State :=
  execReg h d (fun g t => tyRes ty (f (readTy g t ty a imm) (readTy g t ty b imm))) s

/-- An instruction on the raw bits of one operand. -/
def bitOp1 (h : Hdr) (ty : Ty) (d a : Opnd) (imm : Word) (f : Nat → Nat) (s : State) : State :=
  execReg h d (fun g t => tyRes ty (f (readTy g t ty a imm))) s

/-- A shift, whose amount is read as n32 for both widths (06 R109): f width value amount. -/
def shiftOp (h : Hdr) (ty : Ty) (d a b : Opnd) (imm : Word) (f : Nat → Nat → Nat → Nat) (s : State) : State :=
  execReg h d (fun g t => tyRes ty (f ty.width (readTy g t ty a imm) (readTy g t .n32 b imm))) s

/-- A count, into one 32-bit register (06 R110). -/
def countOp (h : Hdr) (ty : Ty) (d a : Opnd) (imm : Word) (f : Nat → Nat → Nat) (s : State) : State :=
  execReg h d (fun g t => wordRes (f ty.width (readTy g t ty a imm))) s

/-- `iadd` (06 R106). -/
def execIadd (h : Hdr) (ty : Ty) (sat : Bool) (d a b : Opnd) (imm : Word) (s : State) :
    Host.Outcome State Fault Refusal := .next (intOp2 h ty sat d a b imm (fun x y => x + y) s)

/-- `isub` (06 R106). -/
def execIsub (h : Hdr) (ty : Ty) (sat : Bool) (d a b : Opnd) (imm : Word) (s : State) :
    Host.Outcome State Fault Refusal := .next (intOp2 h ty sat d a b imm (fun x y => x - y) s)

/-- `imul` (06 R106). -/
def execImul (h : Hdr) (ty : Ty) (sat : Bool) (d a b : Opnd) (imm : Word) (s : State) :
    Host.Outcome State Fault Refusal := .next (intOp2 h ty sat d a b imm (fun x y => x * y) s)

/-- `imulh`: the upper W bits of the exact product (06 R107). -/
def execImulh (h : Hdr) (ty : Ty) (d a b : Opnd) (imm : Word) (s : State) : Host.Outcome State Fault Refusal :=
  .next (intOp2 h ty false d a b imm (fun x y => x * y / (2 ^ ty.width : Nat)) s)

/-- `imad`: the exact product and sum, wrapped or saturated once (06 R106). -/
def execImad (h : Hdr) (ty : Ty) (sat : Bool) (d a b c : Opnd) (s : State) : Host.Outcome State Fault Refusal :=
  .next (execReg h d (fun g t => tyRes ty (narrow ty sat
    (intOf ty (readTy g t ty a 0) * intOf ty (readTy g t ty b 0) + intOf ty (readTy g t ty c 0)))) s)

/-- Quotient and remainder as 06 R108 fixes them. -/
def divRem (x y : Int) : Int × Int :=
  if y = 0 then (-1, x)
  else (x.tdiv y, x - x.tdiv y * y)

/-- `idiv` (06 R108): a quotient of all ones for a zero divisor; min / -1 wraps to min. -/
def execIdiv (h : Hdr) (ty : Ty) (d a b : Opnd) (imm : Word) (s : State) : Host.Outcome State Fault Refusal :=
  .next (execRegLL h d (fun g t => tyRes ty (narrow ty false
    (divRem (intOf ty (readTy g t ty a imm)) (intOf ty (readTy g t ty b imm))).1)) s)

/-- `irem` (06 R108). -/
def execIrem (h : Hdr) (ty : Ty) (d a b : Opnd) (imm : Word) (s : State) : Host.Outcome State Fault Refusal :=
  .next (execRegLL h d (fun g t => tyRes ty (narrow ty false
    (divRem (intOf ty (readTy g t ty a imm)) (intOf ty (readTy g t ty b imm))).2)) s)

/-- `imin` (06 R106). -/
def execImin (h : Hdr) (ty : Ty) (d a b : Opnd) (imm : Word) (s : State) : Host.Outcome State Fault Refusal :=
  .next (intOp2 h ty false d a b imm (fun x y => min x y) s)

/-- `imax` (06 R106). -/
def execImax (h : Hdr) (ty : Ty) (d a b : Opnd) (imm : Word) (s : State) : Host.Outcome State Fault Refusal :=
  .next (intOp2 h ty false d a b imm (fun x y => max x y) s)

/-- `iabs` (06 R106). -/
def execIabs (h : Hdr) (ty : Ty) (sat : Bool) (d a : Opnd) (imm : Word) (s : State) :
    Host.Outcome State Fault Refusal := .next (intOp1 h ty sat d a imm (fun x => (x.natAbs : Int)) s)

/-- `ineg` (06 R106). -/
def execIneg (h : Hdr) (ty : Ty) (sat : Bool) (d a : Opnd) (imm : Word) (s : State) :
    Host.Outcome State Fault Refusal := .next (intOp1 h ty sat d a imm (fun x => -x) s)

/-- `and` (06 R109). -/
def execAnd (h : Hdr) (ty : Ty) (d a b : Opnd) (imm : Word) (s : State) : Host.Outcome State Fault Refusal :=
  .next (bitOp2 h ty d a b imm (fun x y => x &&& y) s)

/-- `or` (06 R109). -/
def execOr (h : Hdr) (ty : Ty) (d a b : Opnd) (imm : Word) (s : State) : Host.Outcome State Fault Refusal :=
  .next (bitOp2 h ty d a b imm (fun x y => x ||| y) s)

/-- `xor` (06 R109). -/
def execXor (h : Hdr) (ty : Ty) (d a b : Opnd) (imm : Word) (s : State) : Host.Outcome State Fault Refusal :=
  .next (bitOp2 h ty d a b imm (fun x y => x ^^^ y) s)

/-- `not` (06 R109). -/
def execNot (h : Hdr) (ty : Ty) (d a : Opnd) (imm : Word) (s : State) : Host.Outcome State Fault Refusal :=
  .next (bitOp1 h ty d a imm (fun x => 2 ^ ty.width - 1 - x) s)

/-- `andn`: a AND NOT b (06 R109). -/
def execAndn (h : Hdr) (ty : Ty) (d a b : Opnd) (imm : Word) (s : State) : Host.Outcome State Fault Refusal :=
  .next (bitOp2 h ty d a b imm (fun x y => x &&& (2 ^ ty.width - 1 - y)) s)

/-- `shl` (06 R109): 0 for an amount of W or more. -/
def execShl (h : Hdr) (ty : Ty) (d a b : Opnd) (imm : Word) (s : State) : Host.Outcome State Fault Refusal :=
  .next (shiftOp h ty d a b imm (fun w x n => if n ≥ w then 0 else x * 2 ^ n % 2 ^ w) s)

/-- `shr` (06 R109). -/
def execShr (h : Hdr) (ty : Ty) (d a b : Opnd) (imm : Word) (s : State) : Host.Outcome State Fault Refusal :=
  .next (shiftOp h ty d a b imm (fun w x n => if n ≥ w then 0 else x / 2 ^ n) s)

/-- `sar` (06 R109): copies of the sign bit enter. -/
def execSar (h : Hdr) (ty : Ty) (d a b : Opnd) (imm : Word) (s : State) : Host.Outcome State Fault Refusal :=
  .next (shiftOp h ty d a b imm (fun w x n => wrap w (sext w x / (2 ^ min n w : Nat))) s)

/-- `rol` (06 R109): by the amount modulo W. -/
def execRol (h : Hdr) (ty : Ty) (d a b : Opnd) (imm : Word) (s : State) : Host.Outcome State Fault Refusal :=
  .next (shiftOp h ty d a b imm (fun w x n => (x * 2 ^ (n % w) + x / 2 ^ (w - n % w)) % 2 ^ w) s)

/-- The number of 1 bits among the low k bits. -/
def popCount (n : Nat) : Nat → Nat
  | 0 => 0
  | k + 1 => b2n (bit n k) + popCount n k

/-- The number of 0 bits below the lowest 1 bit, from bit i on, of the k bits there. -/
def trailZeros (n i : Nat) : Nat → Nat
  | 0 => 0
  | k + 1 => if bit n i then 0 else 1 + trailZeros n (i + 1) k

/-- Bit reversal of k bits. -/
def revBits (n : Nat) : Nat → Nat
  | 0 => 0
  | k + 1 => b2n (bit n 0) * 2 ^ k + revBits (n / 2) k

/-- Byte reversal of k bytes. -/
def revBytes (n : Nat) : Nat → Nat
  | 0 => 0
  | k + 1 => n % 256 * 256 ^ k + revBytes (n / 256) k

/-- `popc` (06 R110). -/
def execPopc (h : Hdr) (ty : Ty) (d a : Opnd) (imm : Word) (s : State) : Host.Outcome State Fault Refusal :=
  .next (countOp h ty d a imm (fun w x => popCount x w) s)

/-- `clz` (06 R110). -/
def execClz (h : Hdr) (ty : Ty) (d a : Opnd) (imm : Word) (s : State) : Host.Outcome State Fault Refusal :=
  .next (countOp h ty d a imm (fun w x => if x = 0 then w else w - 1 - x.log2) s)

/-- `ctz` (06 R110). -/
def execCtz (h : Hdr) (ty : Ty) (d a : Opnd) (imm : Word) (s : State) : Host.Outcome State Fault Refusal :=
  .next (countOp h ty d a imm (fun w x => trailZeros x 0 w) s)

/-- `brev` (06 R110). -/
def execBrev (h : Hdr) (ty : Ty) (d a : Opnd) (imm : Word) (s : State) : Host.Outcome State Fault Refusal :=
  .next (bitOp1 h ty d a imm (fun x => revBits x ty.width) s)

/-- `bswap` (06 R110). -/
def execBswap (h : Hdr) (ty : Ty) (d a : Opnd) (imm : Word) (s : State) : Host.Outcome State Fault Refusal :=
  .next (bitOp1 h ty d a imm (fun x => revBytes x (ty.width / 8)) s)

/-- The field of a control word in W bits: position and clipped length; length 0 when empty (06 R111). -/
def fieldOf (w k : Nat) : Nat × Nat :=
  let p := bits k 7 0
  if p ≥ w then (0, 0) else (p, min (bits k 15 8) (w - p))

/-- `bfx` (06 R111). -/
def execBfx (h : Hdr) (ty : Ty) (d a b : Opnd) (imm : Word) (s : State) : Host.Outcome State Fault Refusal :=
  .next (execReg h d (fun g t =>
    let x := readTy g t ty a imm
    let (p, n) := fieldOf ty.width (readTy g t .n32 b imm)
    let f := x / 2 ^ p % 2 ^ n
    tyRes ty (if n = 0 then 0 else if ty.signed then wrap ty.width (sext n f) else f)) s)

/-- `bfi` (06 R111). -/
def execBfi (h : Hdr) (ty : Ty) (d a b c : Opnd) (s : State) : Host.Outcome State Fault Refusal :=
  .next (execReg h d (fun g t =>
    let x := readTy g t ty a 0
    let y := readTy g t ty b 0
    let (p, n) := fieldOf ty.width (readTy g t .n32 c 0)
    tyRes ty (y / 2 ^ (p + n) * 2 ^ (p + n) + x % 2 ^ n * 2 ^ p + y % 2 ^ p)) s)

/-- Whether an integer condition holds (06 R112). -/
def condHolds (sub : BitVec 4) (x y : Int) : Bool :=
  match sub.toNat with
  | 0 => x == y
  | 1 => x != y
  | 2 => x < y
  | 3 => x ≤ y
  | 4 => x > y
  | _ => x ≥ y

/-- An instruction that writes a predicate in each active lane. -/
def execPred (h : Hdr) (d : Opnd) (f : Wg → Nat → Bool × Word) (s : State) : State :=
  perLane h true false (fun s w t =>
    let g := getWg s w
    let r := f g t
    (setWg s w (orFlags h r.2 (writePred g t d r.1) t), .adv)) s

/-- `icmp` (06 R112). -/
def execIcmp (h : Hdr) (ty : Ty) (sub : BitVec 4) (d a b : Opnd) (imm : Word) (s : State) :
    Host.Outcome State Fault Refusal :=
  .next (execPred h d (fun g t =>
    (condHolds sub (intOf ty (readTy g t ty a imm)) (intOf ty (readTy g t ty b imm)), 0)) s)

/-- `sel` (06 R113). -/
def execSel (h : Hdr) (ty : Ty) (d a b c : Opnd) (s : State) : Host.Outcome State Fault Refusal :=
  .next (execReg h d (fun g t => tyRes ty (if readPred g t c then readTy g t ty a 0 else readTy g t ty b 0)) s)

end Sys2Proof.Machine
end

