-- ==== Sys2Proof/Machine/Moves.lean ====
section
/-!
DEFINITION. Moves.lean: moves between registers, special registers and predicates (06 R103, R114 to R118).
-/
namespace Sys2Proof.Machine

/-- `mov` (06 R115). -/
def execMov (h : Hdr) (ty : Ty) (d a : Opnd) (imm : Word) (s : State) : Host.Outcome State Fault Refusal :=
  .next (bitOp1 h ty d a imm (fun x => x) s)

/-- The value of special register n in thread t of workgroup w, 64 bits wide (06 R103, 17 R293, R294). -/
def readSp (s : State) (w t n : Nat) : Nat :=
  let g := getWg s w
  let th := getTh g t
  let ent := entryOf s g
  match n with
  | 0x00 => t % 32
  | 0x01 => t % 32 / 4
  | 0x02 => grpOf t
  | 0x03 => g.wgid
  | 0x04 => g.clid
  | 0x05 => g.core
  | 0x06 => b2n (th.kind == .helper)
  | 0x08 => th.npc.toNat
  | 0x09 => th.gpc.toNat
  | 0x0A => th.gpcb.toNat
  | 0x0B => th.gop.toNat
  | 0x0C => th.gbase.toNat
  | 0x0D => th.meet.toNat
  | 0x0E => th.irs.toNat
  | 0x0F => b2n th.inGuest
  | 0x10 => (s.cyc + Config.cycOffset g.core) % 2 ^ 64
  | 0x11 => g.ctxcyc % 2 ^ 64
  | 0x12 => dtime s % 2 ^ 64
  | 0x13 => g.tmr
  | 0x14 => (ent.map (fun e => e.budget - e.charge)).getD 0
  | 0x15 => (ent.map (fun e => if e.demoted then 2 ^ 64 - 1 else e.d % 2 ^ 64)).getD 0
  | 0x16 => b2n (getCore s g.core).preq
  | 0x17 => g.qe
  | 0x18 => th.fflags.toNat
  | 0x19 => th.frm.toNat
  | 0x1A => (g.anvil.map (fun a => a.merr.toNat)).getD 0
  | 0x20 => th.tcause.toNat
  | 0x21 => th.tnpc.toNat
  | 0x22 => th.tgpcb.toNat
  | 0x23 => th.tgop.toNat
  | 0x24 => th.tgv.toNat
  | 0x25 => th.taddr.toNat
  | 0x26 => th.tinfo.toNat
  | 0x27 => th.tsq.toNat
  | _ => 0

/-- The number of the special register an operand names. -/
def spNum : Opnd → Nat
  | .sp n => n.toNat
  | _ => 0

/-- `rdsp` (06 R115). -/
def execRdsp (h : Hdr) (d a : Opnd) (s : State) : Host.Outcome State Fault Refusal :=
  .next (execReg h d (fun g t =>
    let n := spNum a
    let x := readSp { s with wgs := s.wgs.set s.bundle.wg g } s.bundle.wg t n
    tyRes (if spWide.contains n then .n64 else .n32) x) s)

/-- %frm after a write: reserved bits zero, RM 5 to 7 stored as 0 (03 R49). -/
def frmOf (x : Word) : Word :=
  BitVec.ofNat 32 (x.toNat % 16 / 8 * 8 + (if x.toNat % 8 ≥ 5 then 0 else x.toNat % 8))

/-- A thread with a writable special register written (06 R103, R115, 03 R49, R50). -/
def Thread.wsp (th : Thread) (n : Nat) (x : Word) : Thread :=
  match n with
  | 0x0C => { th with gbase := x }
  | 0x18 => { th with fflags := BitVec.ofNat 32 (x.toNat % 32) }
  | 0x19 => { th with frm := frmOf x }
  | _ => th

/-- `wrsp` (06 R115). -/
def execWrsp (h : Hdr) (a b : Opnd) (imm : Word) (s : State) : Host.Outcome State Fault Refusal :=
  .next (perLane h true false (fun s w t =>
    let x := BitVec.ofNat 32 (readTy (getWg s w) t .n32 b imm)
    (modTh s w t (fun th => th.wsp (spNum a) x), .adv)) s)

/-- `plop` (06 R116). -/
def execPlop (h : Hdr) (sub : BitVec 4) (d a b : Opnd) (s : State) : Host.Outcome State Fault Refusal :=
  .next (execPred h d (fun g t =>
    let x := readPred g t a
    let y := readPred g t b
    ((match sub.toNat with
      | 0 => x && y
      | 1 => x || y
      | 2 => x != y
      | 3 => x && !y
      | _ => !x), 0)) s)

/-- `p2v` (06 R117): p7 reads 1. -/
def execP2v (h : Hdr) (d : Opnd) (s : State) : Host.Outcome State Fault Refusal :=
  .next (execReg h d (fun g t => wordRes ((getTh g t).preds.toNat + 128)) s)

/-- `v2p` (06 R117). -/
def execV2p (h : Hdr) (a b : Opnd) (imm : Word) (s : State) : Host.Outcome State Fault Refusal :=
  .next (perLane h true false (fun s w t =>
    let g := getWg s w
    let x := readTy g t .n32 a imm
    let m := readTy g t .n32 b imm
    (modTh s w t (fun th => (rangeFrom 0 7).foldl (fun th i => if bit m i then th.wp i (bit x i) else th) th), .adv)) s)

/-- `rdfirst`: the value of the lowest active lane of the group in the bundle (06 R118). -/
def execRdfirst (h : Hdr) (ty : Ty) (d a : Opnd) (s : State) : Host.Outcome State Fault Refusal :=
  .next (execReg h d (fun g t => tyRes ty (readTy g t ty a 0)) s)

end Sys2Proof.Machine
end

