-- ==== Sys2Proof/Machine/Issue.lean ====
section
/-!
DEFINITION. Issue.lean: when a thread may issue (04 R62 to R73), what is checked before an instruction acts (18 R303), and the
issue of a bundle around the meaning of its instruction.
-/
namespace Sys2Proof.Machine

/-! ### Classes of opcodes -/

/-- The collective instructions (04 R67). R67 gives ranges of opcodes: that the reserved 0x206 and 0x207 inside 0x200 to 0x20C count as collective
too, and wait for their group before their trap 0x01, is the model's choice (log 122). -/
def collectiveOp (o : Nat) : Bool :=
  o == 0x007 || o == 0x0D3 || (decide (0x100 ≤ o) && decide (o ≤ 0x108)) || (decide (0x200 ≤ o) && decide (o ≤ 0x20C))
    || (decide (0x280 ≤ o) && decide (o ≤ 0x287))

/-- The long-latency instructions (02 R26 and the entries). -/
def longOp (o : Nat) : Bool :=
  [0x00C, 0x045, 0x046, 0x0CA, 0x0CB, 0x0CC, 0x0CD, 0x0CE, 0x0CF, 0x0D0, 0x140, 0x142, 0x180, 0x184, 0x1C0, 0x1C2, 0x2C0,
   0x2C1].contains o

/-- The region-closing instructions (18 R305). -/
def closingWord (r : Raw) : Bool :=
  let o := r.opc.toNat
  [0x146, 0x147, 0x149, 0x14A, 0x184, 0x1C0, 0x1C1, 0x201, 0x203, 0x204, 0x209, 0x20A, 0x20B, 0x240, 0x241, 0x280, 0x281,
   0x283, 0x284, 0x285, 0x2C0, 0x340, 0x341, 0x342, 0x343].contains o
  || ((o == 0x282 || o == 0x286) && r.sat == 1) || (o == 0x287 && r.sub == 1)

/-- The kinds of storage an instruction may access, as bits of a mask (11 R185): those that access none may issue while an acquire
is not yet performed (11 R188). -/
def storageOf (o : Nat) : BitVec 4 :=
  if (decide (0x040 ≤ o) && decide (o ≤ 0x13F)) || [0x000, 0x001, 0x002, 0x003, 0x004, 0x005, 0x006, 0x008, 0x009, 0x00A,
    0x00D, 0x00E, 0x00F, 0x182].contains o then 0
  else if [0x00B, 0x00C, 0x140, 0x141, 0x142, 0x143, 0x144].contains o then 0b0001
  else if o == 0x1C3 then 0b1110
  else 0b1111

/-- Whether a word names the address that it accesses: the memory-class forms on global, far and host memory (02 R34). -/
def hasAddress (o : Nat) : Bool := [0x180, 0x181, 0x184, 0x185, 0x1C0, 0x1C1, 0x1C2].contains o

/-- The kinds of storage that a thread's next word accesses: of a word with an address, the kind at it, if its SS holds that (11 R185). -/
def touches (g : Wg) (t : Nat) (r : Raw) : BitVec 4 :=
  if hasAddress r.opc.toNat then
    match Opnd.ofBits r.a, Opnd.ofBits r.b with
    | some a, some b =>
      let memC := [0x184, 0x1C0, 0x1C1].contains r.opc.toNat
      let va := vaOf g t a b r.mod (if memC then r.ofs10.toInt else r.ofs.toInt)
      (1#4 <<< (bits va 55 54 + 1)) &&& r.mw.ss
    | _, _ => r.mw.ss
  else storageOf r.opc.toNat

/-- The instructions that store as they issue: `sts`, `sth`, `spzero` and `stinit`. They issue after what a release fence of the lane orders
before them (11 R188); a store and a read-modify-write that go through the core's buffer or to a home slice are ordered there. -/
def storesOp (o : Nat) : Bool := o == 0x141 || o == 0x143 || o == 0x144 || o == 0x1C1

/-- The loads that read when their result comes: they may issue before an earlier acquire is performed, and read after it (11 R188). -/
def readsLate (o : Nat) : Bool := o == 0x180 || o == 0x182 || o == 0x1C2

/-- The words that act on their own lane and its group's uniform registers only, but for `exit`: they may issue in the window of an `stx` that is
not answered, and their effects can be taken back if it faults (02 R26, 13 R214, 18 R299). -/
def laneOnly (r : Raw) : Bool :=
  let o := r.opc.toNat
  (decide (o ≤ 0x108) && o != 0x005)
    || [0x140, 0x142, 0x14B, 0x180, 0x182, 0x183, 0x1C2, 0x205, 0x2C1, 0x300, 0x301, 0x303, 0x304, 0x305].contains o

/-- Whether an outstanding instruction is an `stx` that is not answered. -/
def Pend.unanswered (p : Pend) : Bool := p.origin.isSome && (match p.src with | .req _ _ _ _ => true | _ => false)

/-- Whether a thread has one. -/
def Thread.awaitsStx (th : Thread) : Bool := th.pend.any Pend.unanswered

/-- The instructions for which a helper lane is inactive (04 R59). -/
def helperOff (o : Nat) : Bool :=
  [0x141, 0x143, 0x144, 0x181, 0x184, 0x185, 0x1C0, 0x1C1, 0x1C3, 0x209, 0x20A, 0x20B, 0x240, 0x241, 0x2C0, 0x340, 0x341,
   0x342, 0x343].contains o

/-- The instructions that act once for a group whatever their destination (06 R100). -/
def groupOp (o : Nat) : Bool :=
  collectiveOp o || [0x144, 0x149, 0x14A, 0x1C3, 0x240, 0x241, 0x243, 0x244, 0x2C2, 0x340, 0x341, 0x342, 0x343].contains o

/-! ### Readiness (04 R62, R67, R70, R73) -/

/-- The word a thread issues next, if there is a readable one. -/
def nextWord (s : State) (g : Wg) (th : Thread) : Option Raw :=
  match fetch s g th with
  | .word r => some r
  | _ => none

/-- Whether a thread's next instruction has an opcode of a class. -/
def nextIs (s : State) (g : Wg) (th : Thread) (f : Nat → Bool) : Bool :=
  match nextWord s g th with
  | some r => f r.opc.toNat
  | none => false

/-- Whether a wait ends by issuing the instruction again, when what it waits for may be there (its meaning tells). -/
def Wait.retries : Wait → Bool
  | .none | .drain | .copyRec | .linkRec | .anvilQ | .merr => true
  | _ => false

/-- Whether a waiting thread will issue its instruction again, since it has not performed it. -/
def Wait.again : Wait → Bool
  | .drain | .copyRec | .linkRec | .anvilQ | .merr | .push _ _ | .take _ _ | .park _ | .ring | .parkRetry | .fault _ _ _ | .faultRetry => true
  | _ => false

/-- Whether a thread stands at its meet target (04 R70). -/
def Thread.meets (s : State) (g : Wg) (th : Thread) : Bool :=
  match th.meet.toNat / 2 ^ 62 with
  | 1 => !th.seqS && th.npc.toNat == th.meet.toNat % 2 ^ 62 && (match fetch s g th with | .past => false | _ => true)
  | 2 => !th.seqS && nextIs s g th (· == 0x00B) && th.gpc.toNat % 2 ^ 62 == th.meet.toNat % 2 ^ 62
  | _ => false

/-- Whether a thread is held by meeting (04 R70). -/
def Thread.isHeld (s : State) (g : Wg) (th : Thread) : Bool := !th.freed && th.meets s g

/-- Whether a thread waits for nothing but results of long-latency instructions (04 R62, R67). -/
def Thread.stands (th : Thread) : Bool :=
  th.live && th.kind != .absent && !th.stopped && th.due.isNone && th.wait.retries

/-- Whether a thread is ready: no result outside its window is awaited (04 R62). -/
def Thread.ready (th : Thread) : Bool := th.stands && th.pend.all (fun p => decide (p.left > 0))

/-- The live lanes of a group, as thread numbers (04 R67). -/
def liveOf (g : Wg) (k : Nat) : List Nat :=
  (rangeFrom (32 * k) 32).filter (fun t => (getTh g t).live && (getTh g t).kind != .absent)

/-- Whether the threads of a list are all at one position. -/
def samePos (g : Wg) (ts : List Nat) : Bool := ts.all (fun t => (getTh g t).pos == (getTh g (ts.headD 0)).pos)

/-- Whether the lanes of a collective are every live lane of one group (04 R67). -/
def wholeGroup (g : Wg) (ts : List Nat) : Bool := ts == liveOf g (grpOf (ts.headD 0))

/-- The registers that a word names, as sources or destinations. -/
def namedRegs (r : Raw) : List (Bool × Nat) :=
  match opSpec r with
  | none => []
  | some sp =>
    let one (f : Option FieldSpec) (b : BitVec 10) : List (Bool × Nat) :=
      match f, Opnd.ofBits b with
      | some fs, some o => opndRegs o (fs.w.regs r)
      | _, _ => []
    one sp.d r.d ++ one sp.a r.a ++ one sp.b r.b ++ one sp.c r.c

/-- Whether the uniform registers that a word names are settled for a lane: no other lane of its group awaits one of them from an
instruction that this lane did not issue. A uniform register takes its writes in issue order, and a read gets the latest (06 R101). -/
def uniSettled (g : Wg) (t : Nat) (r : Raw) : Bool :=
  let named := (namedRegs r).filter Prod.fst
  named.isEmpty || (rangeFrom (32 * grpOf t) 32).all (fun u => (getTh g u).pend.all (fun p =>
    !p.dests.any named.contains || (getTh g t).pend.any (fun q => q.tok == p.tok)))

/-- Whether a word makes what its group has accessed visible to others, as a release does: with ORD, as `fence` to release, and the
instructions that act as one (11 R188, R194, 14 R233, R236, 08 R156). -/
def ordersWord (r : Raw) : Bool :=
  let o := r.opc.toNat
  if [0x181, 0x184, 0x185, 0x1C1].contains o then r.mw.ord.getLsbD 1
  else if o == 0x183 then r.mw.ord.getLsbD 1
  else [0x007, 0x149, 0x1C0, 0x1C3, 0x201, 0x203, 0x204, 0x209, 0x240, 0x241, 0x2C0, 0x340, 0x341, 0x342, 0x343].contains o

/-- The data addresses that a word on the data region accesses, each first and at most how many bytes: of `lds` and `sts` (08 R148), of `gld` (04
R83), of `dispatch`, which reads its table (04 R82); of the others any. -/
def padSpans (g : Wg) (t : Nat) (r : Raw) : List (Nat × Nat) :=
  match r.opc.toNat, Opnd.ofBits r.a, Opnd.ofBits r.b with
  | 0x00B, some a, some b =>
    let table := readTy g t .n32 b 0
    [(table, 4), (table + 4 + 4 * readTy g t .n32 a 0, 4)]
  | 0x00C, some a, _ =>
    [(wrap 32 (((getTh g t).gbase.toNat + (getTh g t).gpc.toNat : Nat) + intOf .i32 (readTy g t .i32 a r.imm)), 8)]
  | 0x140, some a, some b | 0x141, some a, some b => [(spAddr g t a b r.mod r.imm, 8)]
  | _, _, _ => [(0, 2 ^ 32)]

/-- Whether a word comes after what the array instructions of its thread's group still have to do: a word on the data region where they
access it too, and one that orders the group's accesses (15 R265). -/
def arrayPasses (g : Wg) (t : Nat) (r : Raw) : Bool :=
  let o := r.opc.toNat
  match g.anvil with
  | none => true
  | some x => x.queue.all (fun j => j.acted || j.grp != grpOf t ||
      !(ordersWord r || ((o == 0x00B || o == 0x00C || (decide (0x140 ≤ o) && decide (o ≤ 0x144)))
        && j.span.any (fun p => (padSpans g t r).any (fun q => overlap p.1 p.2 q.1 q.2)))))

/-- What holds a ready thread's instruction back: results outstanding before a region-closing one, `region` or a `ppoint` with a
request (18 R300), a seventeenth long-latency one (02 R27), an acquire, or a release fence (11 R188), a uniform register that another
lane awaits (06 R101), before a word that acts outside its lane an `stx` that is not answered (18 R299, log 126), or the array (15 R265). -/
def mayPass (s : State) (w t : Nat) (r : Raw) : Bool :=
  let g := getWg s w
  let th := getTh g t
  let o := r.opc.toNat
  (th.pend.isEmpty || !(closingWord r || o == 0x302 || (o == 0x303 && (getCore s g.core).preq)))
    && (!longOp o || decide (th.pend.length < 16))
    && th.pend.all (fun p => readsLate o || p.acq &&& touches g t r == 0) && (!th.awaitsStx || laneOnly r)
    && (!storesOp o || orderDone s w t (touches g t r)) && uniSettled g t r && arrayPasses g t r

/-- Whether a thread's instruction has issued and awaits the buffers, and is one that a cut completes: any but a `fence` (18 R308 step 2). -/
def finishing (s : State) (g : Wg) (t : Nat) : Bool :=
  let th := getTh g t
  th.live && th.wait == .drain && nextIs s g th (· != 0x183)

/-- Whether the threads of a bundle may issue together now; during a cut only to complete what they have issued (18 R308). -/
def canIssue (s : State) (w : Nat) (ls : List Nat) : Bool :=
  let g := getWg s w
  (g.status == .resident || (g.status == .cutting && ls.all (finishing s g))) && !ls.isEmpty && samePos g ls
    && ls.all (fun t =>
      let th := getTh g t
      th.ready && !th.isHeld s g && (match nextWord s g th with | some r => mayPass s w t r | none => true))
    && (!nextIs s g (getTh g (ls.headD 0)) collectiveOp || wholeGroup g ls)

/-! ### Before the instruction acts (18 R303, R316, R317) -/

/-- The debug state of a workgroup's context: the lowest native breakpoint that matches an index; 8 when none does (18 R317). -/
def nativeBreak (c : Ctx) (kobj idx : Nat) : Nat :=
  ((rangeFrom 0 8).find? (fun n =>
    let a := (SMap.get 0 c.nbpa n).toNat
    let k := (SMap.get 0 c.nbpk n).toNat
    bit a 63 && bits a 31 0 == idx && (bits k 55 6 == 0 || bits k 55 6 == bits kobj 55 6))).getD 8

/-- The lowest guest breakpoint that matches; 8 when none does (18 R317). -/
def guestBreak (c : Ctx) (gpc : Nat) : Nat :=
  ((rangeFrom 0 8).find? (fun n =>
    let b := (SMap.get 0 c.gbp n).toNat
    bit b 63 && bits b 61 0 == gpc % 2 ^ 62)).getD 8

/-- Whether a thread is stepped (18 R317). -/
def isStepped (c : Ctx) (g : Wg) (t : Nat) : Bool :=
  bit c.dctl.toNat 3 || (bits c.swg.toNat 31 0 == g.wgid && bits c.dctl.toNat 11 8 == grpOf t)

/-- KOBJ of a workgroup's entry (17 R273). -/
def kobjOf (s : State) (g : Wg) : Nat := ((entryOf s g).map (fun e => e.raw.toNat % 2 ^ 64)).getD 0

/-- The asynchronous trap a lane would take at a boundary: the first of 0x0F and 0x10, outside a handler (18 R303, R304). -/
def asyncTrap (th : Thread) : Option (Nat × DWord) :=
  if th.th then none
  else match th.async.find? (fun a => a.1 == 0x0F) with
    | some a => some a
    | none => th.async.find? (fun a => a.1 == 0x10)

/-- The debug trap before an instruction: native step, then native breakpoint (18 R303, R317); none before one that has issued and is tried
again from its wait (18 R316). -/
def debugTrap (s : State) (g : Wg) (t : Nat) : Option (Nat × DWord) :=
  let th := getTh g t
  match getCtx s g.ctx with
  | none => none
  | some c =>
    if th.th || th.oneShot || th.wait != .none then none
    else if bit c.dctl.toNat 1 && isStepped c g t then some (0x13, 1)
    else
      let n := nativeBreak c (kobjOf s g) th.npc.toNat
      if !th.seqS && decide (n < 8) then some (0x11, BitVec.ofNat 64 n) else none

/-- What the fetch and the encoding check raise (05 R75, R85, 02 R35, R36). -/
def wordTrap (s : State) (g : Wg) (th : Thread) : Option (Nat × DWord × DWord) :=
  match fetch s g th with
  | .past => some (0x0A, 0, th.npc.setWidth 64)
  | .bad => some (0x15, 0, 0)
  | .word r =>
    match decodeIn (decCtx s g th) r.toWord with
    | .error e => some (0x01, BitVec.ofNat 64 (e.1 + 256 * e.2), 0)
    | .ok _ => none

/-- The trap a lane takes at an instruction boundary, the first in the order of 18 R303. -/
def boundaryTrap (s : State) (w t : Nat) : Option (Nat × DWord × DWord) :=
  let g := getWg s w
  let th := getTh g t
  match asyncTrap th with
  | some a => some (a.1, a.2, 0)
  | none =>
    match fetch s g th with
    | .past => wordTrap s g th
    | _ =>
      match debugTrap s g t with
      | some d => some (d.1, d.2, 0)
      | none => wordTrap s g th

/-- A lane takes the trap of its boundary; an asynchronous one is no longer pending. -/
def takeBoundary (s : State) (w t : Nat) (x : Nat × DWord × DWord) : State :=
  let s := modTh s w t (fun th =>
    if x.1 = 0x0F ∨ x.1 = 0x10 then { th with async := th.async.filter (fun a => a.1 != x.1) } else th)
  raiseTrap s w t x.1 x.2.1 x.2.2

/-! ### Uncorrectable sources (01 R20, 02 R27) -/

/-- The source operands of a word, each with the number of registers it names. -/
def sourcesOf (r : Raw) : List (Opnd × Nat) :=
  match opSpec r with
  | none => []
  | some sp =>
    let one (f : Option FieldSpec) (b : BitVec 10) : List (Opnd × Nat) :=
      match f, Opnd.ofBits b with
      | some fs, some o => if fs.dst then [] else [(o, fs.w.regs r)]
      | _, _ => []
    one sp.d r.d ++ one sp.a r.a ++ one sp.b r.b ++ one sp.c r.c

/-- The %taddr of the first source register of a lane that holds uncorrectable data. -/
def poisonOf (g : Wg) (t : Nat) (src : List (Opnd × Nat)) : Option DWord :=
  src.findSome? (fun e => match e.1 with
    | .v n => (rangeFrom n.toNat e.2).findSome? (fun k => SMap.find (getTh g t).badv k)
    | .s n => (rangeFrom n.toNat e.2).findSome? (fun k => SMap.find (getGroup g (grpOf t)).badu k)
    | _ => none)

/-- The lanes of a bundle that consume uncorrectable data, each with its %taddr: an instruction that acts once for a group traps every
lane of the group in the bundle (06 R100). Of an instruction that acts once, every active lane consumes its sources: also of `rdfirst`, whose result
uses one lane's, which is the model's choice (log 123). -/
def poisoned (g : Wg) (r : Raw) (ls : List Nat) : List (Nat × DWord) :=
  let src := sourcesOf r
  let once := groupOp r.opc.toNat || (match opSpec r with | some sp => uniDest sp r | none => false)
  let hit := ls.filterMap (fun t =>
    if activeIn r.hdr (!helperOff r.opc.toNat) (getTh g t) then (poisonOf g t src).map (fun a => (t, a)) else none)
  if once then ls.filterMap (fun t => (hit.find? (fun e => grpOf e.1 == grpOf t)).map (fun e => (t, e.2))) else hit

/-! ### The issue of a bundle -/

/-- A thread as its instruction issues: a gathering and the suppression of debug traps end, and a wait is tried again.
The suppression covers the instruction's own check too, so it ends when the instruction does. -/
def Thread.atIssue (th : Thread) : Thread :=
  { th with freed := false, gather := Option.none, wait := .none }

/-- The part of a bundle that goes on in this period: threads that are ready and not held, one bundle for each position
(04 R63, R77). -/
def splitBundle (s : State) (w : Nat) (ls : List Nat) : List (List Nat) :=
  let g := getWg s w
  let ls := ls.filter (fun t => (getTh g t).ready && !(getTh g t).isHeld s g && (getTh g t).gather.isNone)
  let ps := (ls.map (fun t => (getTh g t).pos)).eraseDups
  ps.map (fun p => ls.filter (fun t => (getTh g t).pos == p))

/-- After an issue, the bundle's place holds what it has become; after `yield` or `sleep #0` its lanes wait for the next rebuild. -/
def settleBundle (s : State) (w k : Nat) (ls : List Nat) (leaves : Bool) : State :=
  let new := if leaves then [] else splitBundle s w ls
  modWg s w (fun g => { g with bundles := g.bundles.take k ++ new ++ g.bundles.drop (k + 1) })

/-- End the suppression of debug traps on the lanes that have issued (18 R317). -/
def endOneShot (s : State) (w : Nat) (was ls : List Nat) : State :=
  (ls.filter was.contains).foldl (fun s t =>
    if !(thOf s w t).wait.again then modTh s w t (fun th => { th with oneShot := false }) else s) s

/-- Whether a word makes its lanes wait for the next rebuild: `yield`, and `sleep` (04 R77, 18 R324). -/
def leavesBundle (r : Raw) : Bool := r.opc = 0x006 || r.opc = 0x305

/-- Whether a word ends the windows of the threads that issue it, whatever its guard (02 R26). -/
def endsWindows (r : Raw) : Bool :=
  [0x001, 0x002, 0x003, 0x004, 0x005, 0x00B, 0x00F, 0x300, 0x301, 0x305].contains r.opc.toNat

/-- What is a lane's own. -/
def Thread.laneRegs (th : Thread) : LaneRegs :=
  { v := th.v, badv := th.badv, preds := th.preds, fflags := th.fflags, frm := th.frm, gbase := th.gbase, gpc := th.gpc, gpcb := th.gpcb
    gop := th.gop, inGuest := th.inGuest, meet := th.meet, irs := th.irs, moves := th.moves, th := th.th, tarr := th.tarr
    arrived := th.arrived, oneShot := th.oneShot }

/-- Keep with a lane's new outstanding instructions what their destinations held when they issued, and with an `stx` the lane's registers;
`g0` is the workgroup as it was then (02 R27, 18 R299). -/
def keepOlds (g0 : Wg) (s : State) (w t : Nat) : State :=
  let was := (getTh g0 t).pend.map Pend.tok
  if (thOf s w t).pend.all (fun p => was.contains p.tok) then s
  else modTh s w t (fun th => { th with pend := th.pend.map (fun p =>
    if was.contains p.tok then p
    else { p with olds := p.dests.map (regNow g0 t), snap := if p.origin.isSome then some (getTh g0 t).laneRegs else none }) })

/-- The lookahead windows of a lane after a word that it has issued: they end at one of the words that end them, at the end of a sequence,
and at a trap (02 R26, R27). A word that has not been performed leaves them. -/
def windowsAfter (g0 : Wg) (s : State) (w t : Nat) (r : Raw) : State :=
  let before := getTh g0 t
  let now := thOf s w t
  if now.wait.again then s
  else
    let s := if endsWindows r then modTh s w t Thread.endWindows else s
    endEarly s w t (endsWindows r || now.due.isSome || (now.th && !before.th) || (before.seqS && !now.seqS))

/-- The uniform registers that a word writes. -/
def uniDests (r : Raw) : List Nat :=
  match opSpec r with
  | none => []
  | some sp =>
    let one (f : Option FieldSpec) (b : BitVec 10) : List (Bool × Nat) :=
      match f, Opnd.ofBits b with
      | some fs, some o => if fs.dst then opndRegs o (fs.w.regs r) else []
      | _, _ => []
    ((one sp.d r.d ++ one sp.a r.a ++ one sp.b r.b ++ one sp.c r.c).filter Prod.fst).map Prod.snd

/-- A word writes uniform registers in the lanes `ls` of a group: the results of the group's other lanes that came early are not written
there again, as they were issued before it (06 R101), and what a fault of theirs would take back there stays. -/
def overwritten (s : State) (w k : Nat) (ls regs : List Nat) : State :=
  if regs.isEmpty then s
  else
    let mine := ls.flatMap (fun t => (thOf s w t).early.map Pend.tok)
    ((rangeFrom (32 * k) 32).filter (fun u => !ls.contains u)).foldl (fun s u => modTh s w u (fun th => { th with
      early := th.early.map (fun p => if mine.contains p.tok then p
        else { p with writes := p.writes.filter (fun x => !(x.uni && regs.contains x.reg)) })
      pend := th.pend.map (fun p => { p with undo := p.undo.filter (fun x => !regs.contains x.reg) }) })) s

/-- The uniform registers that a word has written, in a group whose lanes that issued it all await the answer of an `stx`: kept with it, with
what they held, since the word is taken back in all of them if all of them fault (18 R299, log 126). -/
def keepUndo (g0 : Wg) (s : State) (w k : Nat) (ls regs : List Nat) : State :=
  let was := getGroup g0 k
  let now := getGroup (getWg s w) k
  let us := (regs.filter (fun r => was.ru r != now.ru r || SMap.find was.badu r != SMap.find now.badu r)).map (fun r =>
    ({ num := s.fresh, reg := r, was := was.ru r, bad := SMap.find was.badu r, now := now.ru r } : Undo))
  if us.isEmpty || !ls.all (fun t => (getTh g0 t).awaitsStx) then s
  else (ls.foldl (fun s t => modTh s w t (fun th => { th with
    pend := th.pend.map (fun p => if p.unanswered then { p with undo := us ++ p.undo } else p) })) s).bump

/-- What a word leaves of the uniform registers that it writes. -/
def uniAfter (s0 s : State) (w : Nat) (r : Raw) (ls : List Nat) : State :=
  (groupsOf ls).foldl (fun s k =>
    let mine := ls.filter (fun t => grpOf t == k)
    keepUndo (getWg s0 w) (overwritten s w k mine (uniDests r)) w k mine (uniDests r)) s

/-- What is kept of the windows of the lanes that have issued a word, from the state before it. -/
def afterWord (s0 s : State) (w : Nat) (r : Raw) (ls : List Nat) : State :=
  ls.foldl (fun s t => windowsAfter (getWg s0 w) (keepOlds (getWg s0 w) s w t) w t r)
    (if (uniDests r).isEmpty then s else uniAfter s0 s w r ls)

/-- The state in which an instruction acts: its lanes are the bundle's. -/
def atIssue (s : State) (w : Nat) (ls : List Nat) : State :=
  { ls.foldl (fun s t => modTh s w t Thread.atIssue) s with bundle := { wg := w, lanes := ls } }

/-- Take the boundary traps of a bundle's lanes; in a cut, where they complete what they have issued, there is no boundary (18 R308, R314). -/
def boundary (s : State) (w : Nat) (ls : List Nat) : State × List Nat :=
  if (getWg s w).status == .cutting then (s, ls)
  else ls.foldl (fun r t => match boundaryTrap r.1 w t with
    | some x => (takeBoundary (endEarly r.1 w t true) w t x, r.2)
    | none => (r.1, r.2 ++ [t])) (s, [])

/-- Take the traps of lanes that consume uncorrectable data. -/
def poisonTraps (s : State) (w : Nat) (r : Raw) (ls : List Nat) : State × List Nat :=
  let hit := poisoned (getWg s w) r ls
  (hit.foldl (fun s e => raiseTrap (endEarly s w e.1 true) w e.1 0x15 0 e.2) s, ls.filter (fun t => !hit.any (fun e => e.1 == t)))

/-- Issue bundle k of workgroup w, if it may issue: boundary traps, then the instruction in the lanes that are left, by `run`. -/
def issueBundle (run : Instr → State → Host.Outcome State Fault Refusal) (s : State) (w k : Nat) :
    Host.Outcome State Fault Refusal :=
  let g := getWg s w
  match g.bundles[k]? with
  | none => .next s
  | some ls =>
    if !canIssue s w ls then .next s
    else
      let (s1, ls1) := boundary s w ls
      match ls1 with
      | [] => .next (settleBundle s1 w k ls false)
      | t0 :: _ =>
        match nextWord s1 (getWg s1 w) (thOf s1 w t0) with
        | none => .next (settleBundle s1 w k ls false)
        | some r =>
          match decodeIn (decCtx s1 (getWg s1 w) (thOf s1 w t0)) r.toWord with
          | .error _ => .next (settleBundle s1 w k ls false)
          | .ok i =>
            if collectiveOp r.opc.toNat && !wholeGroup (getWg s1 w) ls1 then .next (settleBundle s1 w k ls false)
            else
            let (s2, ls2) := poisonTraps s1 w r ls1
            if ls2.isEmpty then .next (settleBundle s2 w k ls false)
            else
              let was := ls2.filter (fun t => (thOf s2 w t).oneShot)
              match run i (atIssue s2 w ls2) with
              | .next s3 => .next (settleBundle (endOneShot (afterWord s2 s3 w r ls2) w was ls2) w k ls (leavesBundle r))
              | o => o

end Sys2Proof.Machine
end

