-- ==== Sys2Proof/Machine/Float.lean ====
section
/-!
DEFINITION. Float.lean: the floating-point instructions (07 R119 to R131, R134) and the functions behind them.
-/
namespace Sys2Proof.Machine

/-! ### Elements -/

/-- Whether a type is a packed pair (03 R45). -/
def isPacked : Ty → Bool
  | .f16x2 | .bf16x2 => true
  | _ => false

/-- The elements of a value of a floating type (03 R45). -/
def elemsOf (ty : Ty) (n : Nat) : List Nat := if isPacked ty then [n % 65536, n / 65536 % 65536] else [n]

/-- The value whose elements are given, low first. -/
def joinElems (xs : List Nat) : Nat := xs.foldr (fun x n => x + 65536 * n) 0

/-- The result of per-element results: the joined value and the OR of the flags (03 R45). -/
def elemRes (xs : List (Nat × Word)) : Res :=
  { vals := [BitVec.ofNat 32 (joinElems (xs.map Prod.fst))], flags := xs.foldl (fun a x => a ||| x.2) 0 }

/-- The rounding context of a lane: mode and FTZ (03 R48, R49). -/
structure Rc where
  rm : RM
  ftz : Bool

/-- The context a thread gives under MOD. -/
def rcOf (g : Wg) (t : Nat) (mod : BitVec 3) : Rc := { rm := modeOf mod (getTh g t).frm, ftz := ftzOf (getTh g t).frm }

/-- An instruction on one floating operand, element by element. -/
def fOp1 (h : Hdr) (ty : Ty) (mod : BitVec 3) (d a : Opnd) (imm : Word) (f : Fmt → Rc → Nat → Nat × Word) (s : State) :
    State :=
  execReg h d (fun g t => elemRes ((elemsOf ty (readTy g t ty a imm)).map (f (fmtOf ty) (rcOf g t mod)))) s

/-- An instruction on two floating operands, element by element. -/
def fOp2 (h : Hdr) (ty : Ty) (mod : BitVec 3) (d a b : Opnd) (imm : Word) (f : Fmt → Rc → Nat → Nat → Nat × Word)
    (s : State) : State :=
  execReg h d (fun g t => elemRes
    (List.zipWith (f (fmtOf ty) (rcOf g t mod)) (elemsOf ty (readTy g t ty a imm)) (elemsOf ty (readTy g t ty b imm)))) s

/-! ### Arithmetic (R121, R122) -/

/-- The negative of a value. -/
def FV.neg : FV → FV
  | .nan s => .nan s
  | .inf n => .inf (!n)
  | .num n m e => .num (!n) m e

/-- The rounded sum, or the canonical NaN where an operand is one (R121). -/
def sumOf (f : Fmt) (c : Rc) (xs : List FV) : Nat × Word :=
  if xs.any FV.isNan then (f.nan, sigFlags xs) else addFV f c.rm c.ftz xs

/-- The rounded product (R121). -/
def productOf (f : Fmt) (c : Rc) (x y : FV) : Nat × Word :=
  if x.isNan || y.isNan then (f.nan, sigFlags [x, y])
  else match mulFV x y with
    | none => (f.nan, fNV)
    | some (.num n m e) => roundTo f c.rm c.ftz n m e
    | some (.inf n) => (f.inf n, 0)
    | some (.nan _) => (f.nan, 0)

/-- The once-rounded sum of products and an addend; an invalid product sets NV whatever the addend (R121). Two products that are infinities of
opposite signs beside a quiet NaN addend set no NV: R121 fixes NV beside a NaN for inf times zero alone (log 113). -/
def fusedOf (f : Fmt) (c : Rc) (ps : List (FV × FV)) (z : FV) : Nat × Word :=
  let ops := ps.flatMap (fun p => [p.1, p.2]) ++ [z]
  let bad := ps.any (fun p => !p.1.isNan && !p.2.isNan && (mulFV p.1 p.2).isNone)
  if bad then (f.nan, fNV)
  else if ops.any FV.isNan then (f.nan, sigFlags ops)
  else addFV f c.rm c.ftz (ps.filterMap (fun p => mulFV p.1 p.2) ++ [z])

/-- `fadd` (R121). -/
def execFadd (h : Hdr) (ty : Ty) (mod : BitVec 3) (d a b : Opnd) (imm : Word) (s : State) :
    Host.Outcome State Fault Refusal :=
  .next (fOp2 h ty mod d a b imm (fun f c x y => sumOf f c [FV.ofBits f c.ftz x, FV.ofBits f c.ftz y]) s)

/-- `fsub` (R121). -/
def execFsub (h : Hdr) (mod : BitVec 3) (d a b : Opnd) (imm : Word) (s : State) : Host.Outcome State Fault Refusal :=
  .next (fOp2 h .f32 mod d a b imm (fun f c x y => sumOf f c [FV.ofBits f c.ftz x, (FV.ofBits f c.ftz y).neg]) s)

/-- `fmul` (R121). -/
def execFmul (h : Hdr) (ty : Ty) (mod : BitVec 3) (d a b : Opnd) (imm : Word) (s : State) :
    Host.Outcome State Fault Refusal :=
  .next (fOp2 h ty mod d a b imm (fun f c x y => productOf f c (FV.ofBits f c.ftz x) (FV.ofBits f c.ftz y)) s)

/-- `ffma` (R121). -/
def execFfma (h : Hdr) (ty : Ty) (mod : BitVec 3) (d a b c : Opnd) (s : State) : Host.Outcome State Fault Refusal :=
  .next (execReg h d (fun g t =>
    let f := fmtOf ty
    let k := rcOf g t mod
    let v (o : Opnd) : List FV := (elemsOf ty (readTy g t ty o 0)).map (FV.ofBits f k.ftz)
    elemRes (List.zipWith (fun (p : FV × FV) z => fusedOf f k [p] z) (List.zip (v a) (v b)) (v c))) s)

/-- `fdot2`: the two products and the f32 addend, rounded once to f32 (R121). -/
def execFdot2 (h : Hdr) (ty : Ty) (mod : BitVec 3) (d a b c : Opnd) (s : State) : Host.Outcome State Fault Refusal :=
  .next (execReg h d (fun g t =>
    let k := rcOf g t mod
    let v (o : Opnd) : List FV := (elemsOf ty (readTy g t ty o 0)).map (FV.ofBits (fmtOf ty) k.ftz)
    elemRes [fusedOf Fmt.f32 k (List.zip (v a) (v b)) (FV.ofBits Fmt.f32 k.ftz (readTy g t .f32 c 0))]) s)

/-- The bits of an operand as it is read: under FTZ a subnormal is a zero of its sign (03 R47). -/
def flushed (f : Fmt) (ftz : Bool) (n : Nat) : Nat :=
  if ftz && n / 2 ^ f.fb % 2 ^ f.eb == 0 then f.zero (bit n (f.eb + f.fb)) else n

/-- minimumNumber or maximumNumber of two operands (R122). -/
def minMaxOf (wantMax : Bool) (f : Fmt) (c : Rc) (x y : Nat) : Nat × Word :=
  let x := flushed f c.ftz x
  let y := flushed f c.ftz y
  let vx := FV.ofBits f false x
  let vy := FV.ofBits f false y
  let fl := sigFlags [vx, vy]
  if vx.isNan && vy.isNan then (f.nan, fl)
  else if vx.isNan then (y, fl)
  else if vy.isNan then (x, fl)
  else
    let k := cmpFV vx vy
    let xLess := decide (k < 0) || (decide (k = 0) && bit x (f.eb + f.fb))
    ((if xLess != wantMax then x else y), fl)

/-- `fmin` (R122). -/
def execFmin (h : Hdr) (ty : Ty) (d a b : Opnd) (imm : Word) (s : State) : Host.Outcome State Fault Refusal :=
  .next (fOp2 h ty 0 d a b imm (minMaxOf false) s)

/-- `fmax` (R122). -/
def execFmax (h : Hdr) (ty : Ty) (d a b : Opnd) (imm : Word) (s : State) : Host.Outcome State Fault Refusal :=
  .next (fOp2 h ty 0 d a b imm (minMaxOf true) s)

/-- `fabs` clears the sign bit (R123). -/
def execFabs (h : Hdr) (ty : Ty) (d a : Opnd) (imm : Word) (s : State) : Host.Outcome State Fault Refusal :=
  .next (fOp1 h ty 0 d a imm (fun f _ x => (x % 2 ^ (f.eb + f.fb), 0)) s)

/-- `fneg` inverts the sign bit (R123). -/
def execFneg (h : Hdr) (ty : Ty) (d a : Opnd) (imm : Word) (s : State) : Host.Outcome State Fault Refusal :=
  .next (fOp1 h ty 0 d a imm (fun f _ x => (x % 2 ^ (f.eb + f.fb) + b2n (!bit x (f.eb + f.fb)) * 2 ^ (f.eb + f.fb), 0)) s)

/-- Whether a floating condition holds, and the flags it raises (R124). -/
def fcmpOf (sub : BitVec 4) (x y : FV) : Bool × Word :=
  let un := x.isNan || y.isNan
  let k := cmpFV x y
  let hold := match sub.toNat with
    | 0 => !un && decide (k = 0)
    | 1 => un || decide (k ≠ 0)
    | 2 => !un && decide (k < 0)
    | 3 => !un && decide (k ≤ 0)
    | 4 => !un && decide (k > 0)
    | 5 => !un && decide (k ≥ 0)
    | 6 => un
    | _ => !un
  (hold, if [2, 3, 4, 5].contains sub.toNat then (if un then fNV else 0) else sigFlags [x, y])

/-- `fcmp` (R124). -/
def execFcmp (h : Hdr) (sub : BitVec 4) (d a b : Opnd) (imm : Word) (s : State) : Host.Outcome State Fault Refusal :=
  .next (execPred h d (fun g t =>
    let ftz := ftzOf (getTh g t).frm
    fcmpOf sub (FV.ofBits Fmt.f32 ftz (readTy g t .f32 a imm)) (FV.ofBits Fmt.f32 ftz (readTy g t .f32 b imm))) s)

/-- The class bit of an encoding (R125). -/
def classOf (f : Fmt) (n : Nat) : Nat :=
  let neg := bit n (f.eb + f.fb)
  let e := n / 2 ^ f.fb % 2 ^ f.eb
  let fr := n % 2 ^ f.fb
  if e = f.emax then (if fr = 0 then (if neg then 0 else 7) else if bit n (f.fb - 1) then 9 else 8)
  else if e = 0 then (if fr = 0 then (if neg then 3 else 4) else if neg then 2 else 5)
  else if neg then 1 else 6

/-- `fcls` (R125). -/
def execFcls (h : Hdr) (ty : Ty) (d a : Opnd) (imm : Word) (s : State) : Host.Outcome State Fault Refusal :=
  .next (execReg h d (fun g t => wordRes (2 ^ classOf (fmtOf ty) (readTy g t ty a imm))) s)

/-! ### Division, square root, approximate functions (R126 to R128) -/

/-- A rounding operand just above a truncated value: one more bit, set when something was cut off. -/
def sticky (mag : Nat) (cut : Bool) : Nat := 2 * mag + b2n cut

/-- The quotient of two finite magnitudes, the divisor not zero: magnitude and exponent for rounding to f32. -/
def quotMag (mx : Nat) (ex : Int) (my : Nat) (ey : Int) : Nat × Int :=
  let k := 80 + my.log2
  (sticky (mx * 2 ^ k / my) (mx * 2 ^ k % my != 0), ex - ey - k - 1)

/-- The correctly rounded quotient (R126). -/
def divOf (c : Rc) (x y : FV) : Nat × Word :=
  let f := Fmt.f32
  match x, y with
  | .inf _, .inf _ => (f.nan, fNV)
  | .inf n, .num n' _ _ => (f.inf (n != n'), 0)
  | .num n _ _, .inf n' => (f.zero (n != n'), 0)
  | .num n mx ex, .num n' my ey =>
    if my = 0 then (if mx = 0 then (f.nan, fNV) else (f.inf (n != n'), fDZ))
    else
      let q := quotMag mx ex my ey
      roundTo f c.rm c.ftz (n != n') (if mx = 0 then 0 else q.1) q.2
  | _, _ => (f.nan, sigFlags [x, y])

/-- The square root of a magnitude, with the exponent made even. -/
def sqrtMag (m : Nat) (e : Int) : Nat × Int :=
  let odd := e % 2 != 0
  let m := (if odd then 2 * m else m) * 2 ^ 80
  let e := if odd then e - 1 else e
  let r := isqrt m
  (sticky r (r * r != m), e / 2 - 40 - 1)

/-- The correctly rounded square root (R126). -/
def sqrtOf (c : Rc) : FV → Nat × Word
  | .nan s => (Fmt.f32.nan, if s then fNV else 0)
  | .inf n => if n then (Fmt.f32.nan, fNV) else (Fmt.f32.inf false, 0)
  | .num n m e =>
    if m = 0 then (Fmt.f32.zero n, 0)
    else if n then (Fmt.f32.nan, fNV)
    else
      let r := sqrtMag m e
      roundTo Fmt.f32 c.rm c.ftz false r.1 r.2

/-- `fdiv` (R126). -/
def execFdiv (h : Hdr) (mod : BitVec 3) (d a b : Opnd) (imm : Word) (s : State) : Host.Outcome State Fault Refusal :=
  .next (execRegLL h d (fun g t =>
    let c := rcOf g t mod
    elemRes [divOf c (FV.ofBits Fmt.f32 c.ftz (readTy g t .f32 a imm)) (FV.ofBits Fmt.f32 c.ftz (readTy g t .f32 b imm))]) s)

/-- `fsqrt` (R126). -/
def execFsqrt (h : Hdr) (mod : BitVec 3) (d a : Opnd) (imm : Word) (s : State) : Host.Outcome State Fault Refusal :=
  .next (execRegLL h d (fun g t =>
    let c := rcOf g t mod
    elemRes [sqrtOf c (FV.ofBits Fmt.f32 c.ftz (readTy g t .f32 a imm))]) s)

/-- Round the result of an approximate function by RNE. UF is set when the result is subnormal or zero and inexact (R127). -/
def approxRound (ftz : Bool) (neg : Bool) (mag : Nat) (exp : Int) : Nat × Word :=
  let r := roundTo Fmt.f32 .rne ftz neg mag exp
  let nx := r.2 &&& fNX != 0
  (r.1, (r.2 &&& fOF) ||| (if nx then fNX else 0) ||| (if nx && r.1 / 2 ^ 23 % 256 == 0 then fUF else 0))

/-- Whether a magnitude is a power of two. -/
def isPow2 (m : Nat) : Bool := m == 2 ^ m.log2

/-- 1/x (R127); every result but the exact cases listed sets NX, so the subnormal reciprocal of ±2^127 does (log 13). -/
def rcpOf (ftz : Bool) : FV → Nat × Word
  | .nan s => (Fmt.f32.nan, if s then fNV else 0)
  | .inf n => (Fmt.f32.zero n, 0)
  | .num n m e =>
    if m = 0 then (Fmt.f32.inf n, fDZ)
    else
      let q := quotMag 1 0 m e
      let r := approxRound ftz n q.1 q.2
      (r.1, if isPow2 m && r.1 / 2 ^ 23 % 256 == 0 then r.2 ||| fNX else r.2)

/-- 1/√x (R127). -/
def rsqOf (ftz : Bool) : FV → Nat × Word
  | .nan s => (Fmt.f32.nan, if s then fNV else 0)
  | .inf n => if n then (Fmt.f32.nan, fNV) else (Fmt.f32.zero false, 0)
  | .num n m e =>
    if m = 0 then (Fmt.f32.inf n, fDZ)
    else if n then (Fmt.f32.nan, fNV)
    else
      let odd := e % 2 != 0
      let m := if odd then 2 * m else m
      let e := if odd then e - 1 else e
      let r := isqrt (2 ^ 240 / m)
      approxRound ftz false (sticky r (m * r * r != 2 ^ 240)) (-(e / 2) - 120 - 1)

/-- The scale of the fixed-point numbers of the transcendental functions. -/
def fixBits : Nat := 320

/-- 2^(F / 2^n) for the n-bit fraction F, as a fixed-point number: the product of those repeated square roots of 2 whose bits are
set, the highest bit first. `root` is 2^(2^-i). -/
def exp2Frac (F : Nat) : Nat → Nat → Nat → Nat
  | 0, _, acc => acc
  | n + 1, root, acc =>
    exp2Frac F n (isqrt (root * 2 ^ fixBits)) (if bit F n then acc * root / 2 ^ fixBits else acc)

/-- 2^(F / 2^n), at least 1 and below 2, times 2^320. -/
def exp2Fix (F n : Nat) : Nat := exp2Frac F n (isqrt (2 ^ (2 * fixBits + 1))) (2 ^ fixBits)

/-- 2^x (R127). -/
def exp2Of (ftz : Bool) : FV → Nat × Word
  | .nan s => (Fmt.f32.nan, if s then fNV else 0)
  | .inf n => if n then (Fmt.f32.zero false, 0) else (Fmt.f32.inf false, 0)
  | .num n m e =>
    let i : Int := if e ≥ 0 then (m * 2 ^ e.toNat : Nat) else (m / 2 ^ (-e).toNat : Nat)
    if !n && decide (i ≥ 128) then (Fmt.f32.inf false, fOF ||| fNX)
    else if n && decide (i ≥ 151) then (Fmt.f32.zero false, fUF ||| fNX)
    else
      let k := (-e).toNat
      let frac := if e ≥ 0 then 0 else m % 2 ^ k
      if frac = 0 then approxRound ftz false 1 (if n then -i else i)
      else
        let fl : Int := if n then -i - 1 else i
        let fr := if n then 2 ^ k - frac else frac
        approxRound ftz false (sticky (exp2Fix fr k) true) (fl - fixBits - 1)

/-- n binary digits of log2 of a fixed-point number in [1, 2), by repeated squaring. -/
def log2Digits : Nat → Nat → Nat → Nat
  | 0, _, acc => acc
  | n + 1, y, acc =>
    let q := y * y / 2 ^ fixBits
    if q ≥ 2 ^ (fixBits + 1) then log2Digits n (q / 2) (2 * acc + 1) else log2Digits n q (2 * acc)

/-- log2 x (R127). -/
def log2Of (ftz : Bool) : FV → Nat × Word
  | .nan s => (Fmt.f32.nan, if s then fNV else 0)
  | .inf n => if n then (Fmt.f32.nan, fNV) else (Fmt.f32.inf false, 0)
  | .num n m e =>
    if m = 0 then (Fmt.f32.inf true, fDZ)
    else if n then (Fmt.f32.nan, fNV)
    else
      let i : Int := m.log2 + e
      if isPow2 m then approxRound ftz (decide (i < 0)) i.natAbs 0
      else
        let L := log2Digits 120 (m * 2 ^ (fixBits - m.log2)) 0
        let v : Int := 2 * (i * 2 ^ 120 + L) + 1
        approxRound ftz (decide (v < 0)) v.natAbs (-121)

/-- log2 e, times 2^320. -/
def log2e : Nat := 3081577904126213121686167198097690134163479766071396094403848907535455306605342191083616308484524

/-- tanh x (R127): (1 - t) / (1 + t) with t = 2^(-2|x| log2 e); for small and large |x| the value that lies just below. -/
def tanhOf (ftz : Bool) : FV → Nat × Word
  | .nan s => (Fmt.f32.nan, if s then fNV else 0)
  | .inf n => (b2n n * 2 ^ 31 + 0x3F800000, 0)
  | .num n m e =>
    if m = 0 then (Fmt.f32.zero n, 0)
    else
      let top : Int := m.log2 + e
      if top < -13 then approxRound ftz n (m * 2 ^ 40 - 1) (e - 40)
      else if top ≥ 5 then approxRound ftz n (2 ^ 40 - 1) (-40)
      else
        let z := 2 * m * log2e
        let z := if e ≥ 0 then z * 2 ^ e.toNat else z / 2 ^ (-e).toNat
        let i := z / 2 ^ fixBits
        let fr := (2 ^ fixBits - z % 2 ^ fixBits) / 2 ^ 120 % 2 ^ 200
        let t := exp2Fix fr 200 / 2 ^ (i + 1)
        let q := (2 ^ fixBits - t) * 2 ^ 100 / (2 ^ fixBits + t)
        approxRound ftz n (sticky q true) (-101)

/-- An approximate function as an instruction. -/
def approxOp (h : Hdr) (d a : Opnd) (imm : Word) (f : Bool → FV → Nat × Word) (s : State) : State :=
  execRegLL h d (fun g t =>
    let ftz := ftzOf (getTh g t).frm
    elemRes [f ftz (FV.ofBits Fmt.f32 ftz (readTy g t .f32 a imm))]) s

/-- `frcp` (R127). -/
def execFrcp (h : Hdr) (d a : Opnd) (imm : Word) (s : State) : Host.Outcome State Fault Refusal :=
  .next (approxOp h d a imm rcpOf s)

/-- `frsq` (R127). -/
def execFrsq (h : Hdr) (d a : Opnd) (imm : Word) (s : State) : Host.Outcome State Fault Refusal :=
  .next (approxOp h d a imm rsqOf s)

/-- `fexp2` (R127). -/
def execFexp2 (h : Hdr) (d a : Opnd) (imm : Word) (s : State) : Host.Outcome State Fault Refusal :=
  .next (approxOp h d a imm exp2Of s)

/-- `flog2` (R127). -/
def execFlog2 (h : Hdr) (d a : Opnd) (imm : Word) (s : State) : Host.Outcome State Fault Refusal :=
  .next (approxOp h d a imm log2Of s)

/-- `ftanh` (R127). -/
def execFtanh (h : Hdr) (d a : Opnd) (imm : Word) (s : State) : Host.Outcome State Fault Refusal :=
  .next (approxOp h d a imm tanhOf s)

/-! ### Integral values and conversions (R129 to R131) -/

/-- A magnitude rounded to an integer, and whether it was one. -/
def toIntegral (rm : RM) (neg : Bool) (mag : Nat) (exp : Int) : Nat × Bool :=
  let (m, r, d) := scaleTo mag exp 0
  (m + b2n (roundsUp rm neg m r d), r == 0)

/-- `frnd` (R129). -/
def execFrnd (h : Hdr) (mod : BitVec 3) (d a : Opnd) (imm : Word) (s : State) : Host.Outcome State Fault Refusal :=
  .next (fOp1 h .f32 mod d a imm (fun f c x =>
    match FV.ofBits f c.ftz x with
    | .nan sg => (f.nan, if sg then fNV else 0)
    | .inf n => (f.inf n, 0)
    | .num n m e => ((roundTo f .rne false n (toIntegral c.rm n m e).1 0).1, 0)) s)

/-- A floating value converted to a floating format (R131). -/
def cvtFloat (f : Fmt) (c : Rc) (sat : Bool) (x : FV) : Nat × Word :=
  match x with
  | .nan sg => (f.nan, if sg then fNV else 0)
  | .inf n => (f.inf n, 0)
  | .num n m e =>
    let r := roundTo f c.rm c.ftz n m e
    (if sat && r.1 == f.inf n then f.max n else r.1, r.2)

/-- The range of an integer type (03 R41). -/
def tyMin (ty : Ty) : Int := if ty.signed then -((2 ^ (ty.width - 1) : Nat) : Int) else 0
def tyMax (ty : Ty) : Int := (if ty.signed then ((2 ^ (ty.width - 1) : Nat) : Int) else ((2 ^ ty.width : Nat) : Int)) - 1

/-- A floating value converted to an integer type (R131). -/
def cvtToInt (ty : Ty) (rm : RM) (x : FV) : Nat × Word :=
  let w := ty.width
  match x with
  | .nan _ => (0, fNV)
  | .inf n => (wrap w (if n then tyMin ty else tyMax ty), fNV)
  | .num n m e =>
    let (y, exact) := toIntegral rm n m e
    let y : Int := if n then -(y : Int) else y
    if y < tyMin ty then (wrap w (tyMin ty), fNV)
    else if y > tyMax ty then (wrap w (tyMax ty), fNV)
    else (wrap w y, if exact then 0 else fNX)

/-- Whether a type is a floating one. -/
def isFloat : Ty → Bool
  | .f32 | .f16 | .bf16 | .f16x2 | .bf16x2 => true
  | _ => false

/-- `cvt` (R130, R131). -/
def execCvt (h : Hdr) (ty sty : Ty) (mod : BitVec 3) (sat : Bool) (d a b : Opnd) (imm : Word) (s : State) :
    Host.Outcome State Fault Refusal :=
  .next (execReg h d (fun g t =>
    let c := rcOf g t mod
    let sf := fmtOf sty
    let x := readTy g t sty a imm
    if !isFloat sty then
      let i := intOf sty x
      elemRes [roundTo (fmtOf ty) c.rm c.ftz (decide (i < 0)) i.natAbs 0]
    else if isPacked ty then
      let xs := if isPacked sty then elemsOf sty x else [x, readTy g t sty b imm]
      elemRes (xs.map (fun x => cvtFloat (fmtOf ty) c sat (FV.ofBits sf c.ftz x)))
    else
      let x := if isPacked sty then (elemsOf sty x).getD (readTy g t .n32 b imm % 2) 0 else x
      let v := FV.ofBits sf c.ftz x
      if isFloat ty then elemRes [cvtFloat (fmtOf ty) c sat v]
      else
        let r := cvtToInt ty c.rm v
        { vals := extTy ty r.1, flags := r.2 }) s)

/-! ### Block elements (03 R51, R52, 07 R134) -/

/-- The magnitude width of a block format code (03 R51). -/
def bxWidth (sub : BitVec 4) : Nat := match sub.toNat with | 0 => 2 | 1 => 4 | _ => 7

/-- `bxd`: one element as f32; the bits of its operands, of type f32, are a block word and an element number (R119, R134). -/
def execBxd (h : Hdr) (sub : BitVec 4) (d a b : Opnd) (imm : Word) (s : State) : Host.Outcome State Fault Refusal :=
  .next (execReg h d (fun g t =>
    let m := bxWidth sub
    let w := readTy g t .f32 a imm
    let j := readTy g t .f32 b imm % 16 / 2
    let e := bits w 31 24
    wordRes (if e = 0xFF then Fmt.f32.nan
      else (roundTo Fmt.f32 .rne false (bit w m) (bits w (m - 1) 0)
        ((e : Int) - 127 - (m - 1) - b2n (bit w (16 + j)))).1)) s)

end Sys2Proof.Machine
end

