-- ==== Sys2Proof/Machine/Lanes.lean ====
section
/-!
DEFINITION. Lanes.lean: lane exchange (07 R135 to R140) and block quantisation across lanes (R132, R133). Every source is read before
any result is written.
-/
namespace Sys2Proof.Machine

/-- An exchange instruction: `f` gives, from the group's active lanes, the result of one of them (R135). -/
def execLanes (h : Hdr) (d : Opnd) (f : Wg → List Nat → Nat → Res) (s : State) : State :=
  perGroup h true false (fun s w al =>
    let g := getWg s w
    let rs := al.map (fun t => (t, f g al t))
    (setWg s w (rs.foldl (fun g r => orFlags h r.2.flags (g.writeAll r.1 (regWrites d r.2.vals)) r.1) g), .adv)) s

/-- An exchange instruction that writes a predicate. -/
def execVotes (h : Hdr) (d : Opnd) (f : Wg → List Nat → Nat → Bool) (s : State) : State :=
  perGroup h true false (fun s w al =>
    let g := getWg s w
    let rs := al.map (fun t => (t, f g al t))
    (setWg s w (rs.foldl (fun g r => writePred g r.1 d r.2) g), .adv)) s

/-- The A value of a source lane, or the reader's own where the source is not active (R135). -/
def laneRead (g : Wg) (al : List Nat) (ty : Ty) (a : Opnd) (t src : Nat) : Res :=
  tyRes ty (readTy g (if al.contains src then src else t) ty a 0)

/-- The source lane of `shfl` in segments of S lanes (R137). -/
def shflSrc (sub : BitVec 4) (S l n : Nat) : Nat :=
  let base := l - l % S
  let i := l % S
  match sub.toNat with
  | 0 => base + n % S
  | 1 => if i ≥ n then l - n else l
  | 2 => if i + n < S then l + n else l
  | _ => base + (i ^^^ n) % S

/-- `shfl` (R137). -/
def execShfl (h : Hdr) (ty : Ty) (mod : BitVec 3) (sub : BitVec 4) (d a b : Opnd) (imm : Word) (s : State) :
    Host.Outcome State Fault Refusal :=
  .next (execLanes h d (fun g al t =>
    laneRead g al ty a t (32 * grpOf t + shflSrc sub (32 / 2 ^ mod.toNat) (t % 32) (readTy g t .n32 b imm))) s)

/-- `qswap` (R138). -/
def execQswap (h : Hdr) (ty : Ty) (sub : BitVec 4) (d a : Opnd) (s : State) : Host.Outcome State Fault Refusal :=
  .next (execLanes h d (fun g al t => laneRead g al ty a t (t ^^^ (sub.toNat + 1))) s)

/-- `qbcast` (R138). -/
def execQbcast (h : Hdr) (ty : Ty) (d a b : Opnd) (imm : Word) (s : State) : Host.Outcome State Fault Refusal :=
  .next (execLanes h d (fun g al t => laneRead g al ty a t (t - t % 4 + readTy g t .n32 b imm % 4)) s)

/-- The mask of those lanes of a list that pass a test (R139). -/
def laneMask (al : List Nat) (f : Nat → Bool) : Nat := (al.filter f).foldl (fun m t => m + 2 ^ (t % 32)) 0

/-- `ballot`: one mask, to every active lane or to the group's register (R139). -/
def execBallot (h : Hdr) (d a : Opnd) (s : State) : Host.Outcome State Fault Refusal :=
  .next (execLanes h d (fun g al _ => wordRes (laneMask al (fun t => readPred g t a))) s)

/-- `vote` (R139). -/
def execVote (h : Hdr) (sub : BitVec 4) (d a : Opnd) (s : State) : Host.Outcome State Fault Refusal :=
  .next (execVotes h d (fun g al _ =>
    let all := al.all (fun t => readPred g t a)
    let any := al.any (fun t => readPred g t a)
    match sub.toNat with
    | 0 => all
    | 1 => any
    | _ => all || !any) s)

/-- `match` (R139). -/
def execMatchLanes (h : Hdr) (ty : Ty) (d a : Opnd) (s : State) : Host.Outcome State Fault Refusal :=
  .next (execLanes h d (fun g al t =>
    wordRes (laneMask al (fun u => readTy g u ty a 0 == readTy g t ty a 0))) s)

/-- `elect` (R139). -/
def execElect (h : Hdr) (d : Opnd) (s : State) : Host.Outcome State Fault Refusal :=
  .next (execVotes h d (fun _ al t => t == al.headD 0) s)

/-! ### Scans and reductions (R140) -/

/-- One lane's value as it enters the chain, with the flags of reading it (R140). -/
def scanEnter (op : Nat) (ty : Ty) (c : Rc) (x : Nat) : Nat × Word :=
  if ty = .f32 ∧ (op = 6 ∨ op = 1 ∨ op = 2) then
    let x := flushed Fmt.f32 c.ftz x
    let v := FV.ofBits Fmt.f32 false x
    (if v.isNan then Fmt.f32.nan else x, sigFlags [v])
  else (x, 0)

/-- One step of the chain (R140). -/
def scanStep (op : Nat) (ty : Ty) (c : Rc) (x y : Nat) : Nat × Word :=
  match op with
  | 0 => ((x + y) % 2 ^ ty.width, 0)
  | 1 => if ty = .f32 then minMaxOf false Fmt.f32 c x y else (if intOf ty x ≤ intOf ty y then x else y, 0)
  | 2 => if ty = .f32 then minMaxOf true Fmt.f32 c x y else (if intOf ty x ≥ intOf ty y then x else y, 0)
  | 3 => (x &&& y, 0)
  | 4 => (x ||| y, 0)
  | 5 => (x ^^^ y, 0)
  | _ => sumOf Fmt.f32 c [FV.ofBits Fmt.f32 c.ftz x, FV.ofBits Fmt.f32 c.ftz y]

/-- What the first lane of an exclusive scan receives (R140). -/
def scanIdentity (op : Nat) (ty : Ty) : Nat :=
  match op with
  | 1 => if ty = .f32 then Fmt.f32.inf false else wrap ty.width (tyMax ty)
  | 2 => if ty = .f32 then Fmt.f32.inf true else wrap ty.width (tyMin ty)
  | 3 => 2 ^ ty.width - 1
  | _ => 0

/-- The running combinations: for each value, what stands before it (none at the first) and with it; and the flags of every step,
the last included (log 14). -/
def scanChain (op : Nat) (ty : Ty) (c : Rc) : Option Nat → List Nat → List (Option Nat × Nat) × Word
  | _, [] => ([], 0)
  | acc, x :: xs =>
    let e := scanEnter op ty c x
    let r := match acc with
      | none => (e.1, 0)
      | some y => scanStep op ty c y e.1
    let t := scanChain op ty c (some r.1) xs
    ((acc, r.1) :: t.1, e.2 ||| r.2 ||| t.2)

/-- The chain over the active lanes, with the rounding context of the lowest (R120). -/
def chainOf (g : Wg) (al : List Nat) (op : Nat) (ty : Ty) (mod : BitVec 3) (a : Opnd) (imm : Word) :
    List (Option Nat × Nat) × Word :=
  scanChain op ty (rcOf g (al.headD 0) mod) none (al.map (fun t => readTy g t ty a imm))

/-- `scan` (R140). -/
def execScan (h : Hdr) (ty : Ty) (mod : BitVec 3) (sub : BitVec 4) (d a : Opnd) (imm : Word) (s : State) :
    Host.Outcome State Fault Refusal :=
  .next (execLanes h d (fun g al t =>
    let op := sub.toNat % 8
    let r := chainOf g al op ty mod a imm
    let e := r.1.getD (al.idxOf t) (none, 0)
    { vals := extTy ty (if bit sub.toNat 3 then e.1.getD (scanIdentity op ty) else e.2), flags := r.2 }) s)

/-- `redux` (R140). -/
def execRedux (h : Hdr) (ty : Ty) (mod : BitVec 3) (sub : BitVec 4) (d a : Opnd) (imm : Word) (s : State) :
    Host.Outcome State Fault Refusal :=
  .next (execLanes h d (fun g al _ =>
    let r := chainOf g al (sub.toNat % 8) ty mod a imm
    { vals := extTy ty ((r.1.getLast?.map Prod.snd).getD 0), flags := r.2 }) s)

/-! ### Block quantisation (R132, R133) -/

/-- Whether a magnitude lies below 2^k. -/
def below (m : Nat) (e k : Int) : Bool := m == 0 || decide ((m.log2 : Int) + e < k)

/-- The block of sixteen inputs: scale, element fields and flags (R133). -/
def quantise (m : Nat) (xs : List FV) : Nat × List Nat × Word :=
  let parts := xs.filterMap (fun x => match x with | .num n mg e => some (n, mg, e) | _ => none)
  if parts.length ≠ xs.length then (0xFF00, List.replicate xs.length 0, fNV)
  else
    let top := parts.foldl (fun (a : Option Int) p =>
      if p.2.1 = 0 then a else
        let l : Int := (p.2.1.log2 : Int) + p.2.2
        some (max (a.getD l) l)) none
    let E : Int := match top with | none => 0 | some l => max 0 (min 254 (l + 127))
    let pe (j : Nat) : Nat := b2n (((parts.drop (2 * j)).take 2).all (fun p => below p.2.1 p.2.2 (E - 128)))
    let el := parts.mapIdx (fun k p =>
      let (q, r, d) := scaleTo p.2.1 p.2.2 (E - 127 - (m - 1) - pe (k / 2))
      let full := q + b2n (roundsUp .rne false q r d)
      let mag := min full (2 ^ m - 1)
      (b2n p.1 * 2 ^ m + mag, r != 0 || decide (mag ≠ full), decide (mag = 0) && decide (p.2.1 ≠ 0)))
    let peBits := (rangeFrom 0 8).foldl (fun n j => n + pe j * 2 ^ j) 0
    (E.toNat * 256 + peBits, el.map (fun e => e.1),
      (if el.any (fun e => e.2.1) then fNX else 0) ||| (if el.any (fun e => e.2.2) then fUF else 0))

/-- `bxq` (R132, R133): each half of the group is one block. -/
def execBxq (h : Hdr) (sub : BitVec 4) (d a : Opnd) (s : State) : Host.Outcome State Fault Refusal :=
  .next (execLanes h d (fun g al t =>
    let first := t - t % 16
    let xs := (rangeFrom first 16).map (fun u =>
      if al.contains u then FV.ofBits Fmt.f32 false (readTy g u .f32 a 0) else .num false 0 0)
    let r := quantise (bxWidth sub) xs
    { vals := [BitVec.ofNat 32 (r.1 * 65536 + r.2.1.getD (t % 16) 0)], flags := r.2.2 }) s)

end Sys2Proof.Machine
end

