-- ==== Sys2Proof/Machine/Scratchpad.lean ====
section
/-!
DEFINITION. Scratchpad.lean: data regions and the instructions on them (08 R141 to R149).
-/
namespace Sys2Proof.Machine

/-- The n bytes of a data region at a data address, as a number (08 R142, 03 R43). -/
def spRead (g : Wg) (a n : Nat) : Nat := leOf (fun k => SMap.get 0 g.data (a + k)) n

/-- The data address of the first uncorrectable word that an access touches (08 R145). -/
def spBad (g : Wg) (a n : Nat) : Option Nat :=
  (g.badd.find? (fun w => decide (8 * w < a + n) && decide (a < 8 * w + 8))).map (fun w => 8 * w)

/-- Write bytes of a data region; a word that is rewritten whole is good again (08 R145). -/
def Wg.spWrite (g : Wg) (a : Nat) (bs : List Byte) : Wg :=
  { g with data := SMap.setMany 0 g.data a bs
           badd := g.badd.filter (fun w => !(decide (a ≤ 8 * w) && decide (8 * w + 8 ≤ a + bs.length))) }

/-- Whether an access lies in the workgroup's region (08 R142). -/
def inRegion (g : Wg) (a n : Nat) : Bool := decide (a + n ≤ g.hdr.sdata)

/-- %tinfo of a bounds trap (08 R144). -/
def boundsInfo (kind width : Nat) : DWord := BitVec.ofNat 64 (kind * 256 + width)

/-- The bounds trap at a data address. -/
def boundsTrap (kind width a : Nat) : End := .trap 0x0A (boundsInfo kind width) (BitVec.ofNat 64 a)

/-- The cluster of a workgroup: partition, entry, by the number of its admission, and first workgroup (08 R151). -/
def ownerOf (g : Wg) : Nat × Nat × Nat := (g.part, g.order, g.wgid - g.clid)

/-- Whether a live entry stores a buffer in a workgroup's region that overlaps a range. -/
def Own.overlaps (o : Own) (g : Wg) (a n : Nat) : Bool :=
  o.live && o.owner == ownerOf g && o.spos == g.clid && overlap (o.base * 256) ((o.lenm + 1) * 256) a n

/-- The index of a live buffer of the workgroup's own region that overlaps a range and that another core holds (08 R148). -/
def heldElsewhere (s : State) (g : Wg) (a n : Nat) : Option Nat :=
  (rangeFrom 0 64).find? (fun i =>
    let o := getOwn s (clusterOf g.core) i
    o.overlaps g a n && o.holder != g.clid)

/-- Trap 0x0B (08 R157). -/
def handleTrap (reason idx : Nat) (addr : DWord) : End := .trap 0x0B (BitVec.ofNat 64 (idx * 256 + reason)) addr

/-- The checks of an access of w bytes at a data address, in order (08 R148). -/
def spCheck (s : State) (g : Wg) (wr : Bool) (a n : Nat) : Option End :=
  if a % n ≠ 0 then some (.trap 0x04 0 (BitVec.ofNat 64 a))
  else if !inRegion g a n then some (boundsTrap (if wr then 2 else 1) n a)
  else match heldElsewhere s g a n with
    | some i => some (handleTrap 5 i (BitVec.ofNat 64 a))
    | none => none

/-- The outstanding result of a scratchpad read of a type: its value is read as it issues (08 R148), with the mark of an uncorrectable
word. -/
def spPend (h : Hdr) (s : State) (g : Wg) (a : Nat) (ty : Ty) (d : Opnd) : Pend :=
  let n := ty.width / 8
  { Pend.start h s.fresh .known (tyWrites d ty (spRead g a n)) 0 with bad := (spBad g a n).map (BitVec.ofNat 64) }

/-- A long-latency read that acts per lane, or once for a group with a uniform destination (06 R100): `act` gives the pending result
or how the lane leaves. -/
def execLoad (h : Hdr) (d : Opnd) (act : State → Nat → Nat → State × Except End Pend) (s : State) : State :=
  let one (s : State) (w t : Nat) (al : List Nat) : State × End :=
    match act s w t with
    | (s, .ok p) => ((if isUni d then sharePend s w al p else addPend s w t p).bump, .adv)
    | (s, .error e) => (s, e)
  if isUni d then perGroup h true false (fun s w al => one s w (al.headD 0) al) s
  else perLane h true false (fun s w t => one s w t [t]) s

/-- `lds` (08 R148). -/
def execLds (h : Hdr) (ty : Ty) (mod : BitVec 3) (d a b : Opnd) (imm : Word) (s : State) :
    Host.Outcome State Fault Refusal :=
  .next (execLoad h d (fun s w t =>
    let g := getWg s w
    let x := spAddr g t a b mod imm
    match spCheck s g false x (ty.width / 8) with
    | some e => (s, .error e)
    | none => (s, .ok (spPend h s g x ty d))) s)

/-- `sts` (08 R148); a higher lane writes later. -/
def execSts (h : Hdr) (ty : Ty) (mod : BitVec 3) (d a b : Opnd) (imm : Word) (s : State) :
    Host.Outcome State Fault Refusal :=
  .next (perLane h false false (fun s w t =>
    let g := getWg s w
    let n := ty.width / 8
    let x := spAddr g t a b mod imm
    match spCheck s g true x n with
    | some e => (s, e)
    | none => (setWg s w (g.spWrite x (leBytes n (readTy g t ty d 0))), .adv)) s)

/-- Write zeros to a range of a data region, clearing uncorrectable marks (08 R149). -/
def Wg.spZero (g : Wg) (a n : Nat) : Wg :=
  { g with data := SMap.clearRange g.data a n
           badd := g.badd.filter (fun w => !(decide (a ≤ 8 * w) && decide (8 * w + 8 ≤ a + n))) }

/-- The range of an `spzero` in a group: first address and bytes, or the trap of the check that it fails (08 R149). -/
def zeroRange (g : Wg) (t : Nat) (a b : Opnd) (imm : Word) : Except End (Nat × Nat) :=
  let x := readTy g t .n32 a imm
  let n := readTy g t .n32 b imm
  if x % 64 ≠ 0 ∨ n % 64 ≠ 0 then .error (.trap 0x04 0 (BitVec.ofNat 64 x))
  else if !inRegion g x n then .error (boundsTrap 2 0 x)
  else .ok (x, n)

/-- `spzero`, performed whole (08 R149; log 15). -/
def execSpzero (h : Hdr) (a b : Opnd) (imm : Word) (s : State) : Host.Outcome State Fault Refusal :=
  .next (perGroup h false false (fun s w al =>
    let g := getWg s w
    match zeroRange g (al.headD 0) a b imm with
    | .error e => (s, e)
    | .ok (x, n) => (setWg s w (g.spZero x n), .adv)) s)

/-- `spzero` in progress: it has passed its checks, and its words are still to be written (08 R149, 18 R309; log 15). -/
def startZero (h : Hdr) (a b : Opnd) (imm : Word) (s : State) : State :=
  perGroup h false false (fun s w al =>
    match zeroRange (getWg s w) (al.headD 0) a b imm with
    | .error e => (s, e)
    | .ok (x, n) =>
      if n = 0 then (s, .adv) else (s.bump, .rest (.zero s.fresh ((rangeFrom (x / 8) (n / 8)).map (8 * ·))))) s

end Sys2Proof.Machine
end

