-- ==== Sys2Proof/Machine/Control.lean ====
section
/-!
DEFINITION. Control.lean: control transfers, meeting, guest dispatch, and `mcall` (04 R75 to R84, 05 R95, R96).
-/
namespace Sys2Proof.Machine

/-- `nop` (04 R77). -/
def execNop (h : Hdr) (s : State) : Host.Outcome State Fault Refusal :=
  .next (perLane h true false (fun s _ _ => (s, .adv)) s)

/-- `yield`: its lanes leave their bundle until the next rebuild (04 R77). -/
def execYieldTo (h : Hdr) (s : State) : Host.Outcome State Fault Refusal :=
  .next (perLane h true false (fun s _ _ => (s, .adv)) s)

/-- A control transfer of a lane, checked against the text length (04 R75). -/
def transfer (g : Wg) (target : Nat) : End :=
  if target ≥ g.hdr.tlen then .trap 0x0A 0 (BitVec.ofNat 64 target) else .goto (BitVec.ofNat 32 target)

/-- `bra` (04 R78). -/
def execBra (h : Hdr) (imm : Word) (s : State) : Host.Outcome State Fault Refusal :=
  .next (perLane h true false (fun s w _ => (s, transfer (getWg s w) imm.toNat)) s)

/-- `brx` (04 R78). -/
def execBrx (h : Hdr) (a : Opnd) (s : State) : Host.Outcome State Fault Refusal :=
  .next (perLane h true false (fun s w t => (s, transfer (getWg s w) (readTy (getWg s w) t .n32 a 0))) s)

/-- `call` (04 R78). -/
def execCall (h : Hdr) (d : Opnd) (imm : Word) (s : State) : Host.Outcome State Fault Refusal :=
  .next (perLane h true false (fun s w t =>
    let g := getWg s w
    if imm.toNat ≥ g.hdr.tlen then (s, transfer g imm.toNat)
    else (setWg s w (g.writeAll t (regWrites d [(getTh g t).npc + 1])), transfer g imm.toNat)) s)

/-- `ret` (04 R78). -/
def execRet (h : Hdr) (a : Opnd) (s : State) : Host.Outcome State Fault Refusal :=
  .next (perLane h true false (fun s w t => (s, transfer (getWg s w) (readTy (getWg s w) t .n32 a 0))) s)

/-- `exit` (04 R79). -/
def execExit (h : Hdr) (s : State) : Host.Outcome State Fault Refusal :=
  .next (perLane h true false (fun s w t => (modTh s w t Thread.exit, .gone)) s)

/-- `gsync`: a release and an acquire at group scope by each active lane (04 R80). -/
def execGsync (h : Hdr) (s : State) : Host.Outcome State Fault Refusal :=
  .next (perGroup h true false (fun s w al =>
    let r := tryRelease s w al al 0 0b1111
    (r.1, if r.2 then .adv else .stay .drain)) s)

/-- Set %meet in each active lane. -/
def setMeet (h : Hdr) (f : Wg → Nat → Nat) (s : State) : State :=
  perLane h true false (fun s w t => (modTh s w t (fun th => { th with meet := BitVec.ofNat 64 (f (getWg s w) t), held := none }), .adv)) s

/-- `meet` (04 R81). -/
def execMeet (h : Hdr) (imm : Word) (s : State) : Host.Outcome State Fault Refusal :=
  .next (setMeet h (fun _ _ => 2 ^ 62 + imm.toNat) s)

/-- `meetg` (04 R81). -/
def execMeetg (h : Hdr) (a : Opnd) (imm : Word) (s : State) : Host.Outcome State Fault Refusal :=
  .next (setMeet h (fun g t => 2 ^ 63 + readTy g t .n64 a imm % 2 ^ 62) s)

/-- `unmeet` (04 R81). -/
def execUnmeet (h : Hdr) (s : State) : Host.Outcome State Fault Refusal :=
  .next (setMeet h (fun _ _ => 0) s)

/-- The checks of `dispatch` in order, and the handler's index (04 R82). -/
def dispatchTo (s : State) (g : Wg) (t x : Nat) (table : Nat) : Except End Nat :=
  let th := getTh g t
  let dbg : Option (Nat × Nat) := match getCtx s g.ctx with
    | none => none
    | some c =>
      if th.th || th.oneShot then none
      else if bit c.dctl.toNat 2 && isStepped c g t then some (0x13, 0)
      else if guestBreak c th.gpc.toNat < 8 then some (0x12, guestBreak c th.gpc.toNat) else none
  let bad (a : Nat) : Option End :=
    if !inRegion g a 4 then some (boundsTrap 1 4 a)
    else (spBad g a 4).map (fun b => .trap 0x15 0 (BitVec.ofNat 64 b))
  match dbg with
  | some d => .error (.trap d.1 (BitVec.ofNat 64 d.2) 0)
  | none =>
    if table % 4 ≠ 0 then .error (.trap 0x04 0 (BitVec.ofNat 64 table))
    else match bad table with
      | some e => .error e
      | none =>
        if x ≥ spRead g table 4 then .error (.trap 0x16 (BitVec.ofNat 64 x) 0)
        else match bad (table + 4 + 4 * x) with
          | some e => .error e
          | none =>
            let e := spRead g (table + 4 + 4 * x) 4
            if e ≥ g.hdr.tlen then .error (.trap 0x0A 0 (BitVec.ofNat 64 e)) else .ok e

/-- `dispatch` (04 R82). -/
def execDispatch (h : Hdr) (a b : Opnd) (s : State) : Host.Outcome State Fault Refusal :=
  .next (perLane h true false (fun s w t =>
    let g := getWg s w
    let x := readTy g t .n32 a 0
    match dispatchTo s g t x (readTy g t .n32 b 0) with
    | .error e => (s, e)
    | .ok e => (modTh s w t (fun th => { th with gop := BitVec.ofNat 32 x, gpcb := th.gpc, inGuest := true }),
        .goto (BitVec.ofNat 32 e))) s)

/-- `gld` (04 R83). -/
def execGld (h : Hdr) (ty : Ty) (d a : Opnd) (imm : Word) (s : State) : Host.Outcome State Fault Refusal :=
  .next (execLoad h d (fun s w t =>
    let g := getWg s w
    let th := getTh g t
    let x := wrap 32 ((th.gbase.toNat + th.gpc.toNat : Nat) + intOf .i32 (readTy g t .i32 a imm))
    let n := ty.width / 8
    if !inRegion g x n then (s, .error (boundsTrap 1 n x)) else (s, .ok (spPend h s g x ty d))) s)

/-- Set %gpc in each active lane. -/
def setGpc (h : Hdr) (leave : Bool) (f : Wg → Nat → Nat) (s : State) : State :=
  perLane h true false (fun s w t => (modTh s w t (fun th =>
    { th with gpc := BitVec.ofNat 64 (f (getWg s w) t), inGuest := th.inGuest && !leave }), .adv)) s

/-- `gadv` (04 R84). -/
def execGadv (h : Hdr) (a : Opnd) (imm : Word) (s : State) : Host.Outcome State Fault Refusal :=
  .next (setGpc h false (fun g t => wrap 64 ((getTh g t).gpc.toNat + intOf .i32 (readTy g t .i32 a imm))) s)

/-- `gset` (04 R84). -/
def execGset (h : Hdr) (a : Opnd) (imm : Word) (s : State) : Host.Outcome State Fault Refusal :=
  .next (setGpc h false (fun g t => readTy g t .n64 a imm) s)

/-- `gset.leave` (04 R84). -/
def execGsetLeave (h : Hdr) (a : Opnd) (imm : Word) (s : State) : Host.Outcome State Fault Refusal :=
  .next (setGpc h true (fun g t => readTy g t .n64 a imm) s)

/-- `mcall`: each active lane stands at operation 0 of sequence M; its parameters are read from the word at %npc as each operation
is fetched (05 R96). -/
def execMcall (h : Hdr) (_d _a _b _c : Opnd) (_p4 _p5 _p6 _p7 : BitVec 7) (m : BitVec 6) (s : State) :
    Host.Outcome State Fault Refusal :=
  .next (perLane h true false (fun s w t => (modTh s w t (fun th =>
    { th.endWindows with seqS := true, seqM := m.toNat, seqQ := 0, relAt := none }), .gone)) s)

end Sys2Proof.Machine
end

