-- ==== Sys2Proof/Machine/Handles.lean ====
section
/-!
DEFINITION. Handles.lean: buffer handles (08 R150 to R158).
-/
namespace Sys2Proof.Machine

/-- The fields of a buffer handle (08 R150). -/
def hIdx (h : Nat) : Nat := bits h 63 58
def hGen (h : Nat) : Nat := bits h 57 46
def hSpos (h : Nat) : Nat := bits h 45 44
def hBase (h : Nat) : Nat := bits h 43 29
def hLenm (h : Nat) : Nat := bits h 28 14

/-- The handle of a live entry at an index (08 R150). -/
def handleOf (idx : Nat) (o : Own) : Nat :=
  idx * 2 ^ 58 + o.gen * 2 ^ 46 + o.spos * 2 ^ 44 + o.base * 2 ^ 29 + o.lenm * 2 ^ 14

/-- Whether a handle is current for a workgroup (08 R151). -/
def isCurrent (s : State) (g : Wg) (h : Nat) : Bool :=
  let o := getOwn s (clusterOf g.core) (hIdx h)
  o.live && o.owner == ownerOf g && o.gen == hGen h && o.spos == hSpos h && o.base == hBase h && o.lenm == hLenm h

/-- Whether a handle's index names a live entry of another cluster. -/
def isForeign (s : State) (g : Wg) (h : Nat) : Bool :=
  let o := getOwn s (clusterOf g.core) (hIdx h)
  o.live && o.owner != ownerOf g

/-- The checks of a handle, in order: reasons 3 and 2, and 1 when the issuing position must hold it (08 R154). -/
def handleCheck (s : State) (g : Wg) (h : DWord) (mustHold : Bool) : Option End :=
  let n := h.toNat
  if n % 2 ^ 14 ≠ 0 ∨ isForeign s g n then some (handleTrap 3 0 h)
  else if !isCurrent s g n then some (handleTrap 2 (hIdx n) h)
  else if mustHold && (getOwn s (clusterOf g.core) (hIdx n)).holder != g.clid then some (handleTrap 1 (hIdx n) h)
  else none

/-- The workgroup of a cluster at a position, by number, if it has not ended. -/
def memberAt (s : State) (g : Wg) (pos : Nat) : Option Nat :=
  s.wgs.findIdx? (fun x => x.status != .ended && ownerOf x == ownerOf g && x.clid == pos)

/-- The offset of `ldh` and `sth` (08 R154). -/
def handleOfs (g : Wg) (t : Nat) (b : Opnd) (mod : BitVec 3) (imm : Word) : Nat :=
  wrap 32 (intOf .i32 (readTy g t .i32 b 0) * (2 ^ mod.toNat : Nat) + imm.toInt)

/-- The checks of an access through a handle, in order: where it goes, or how the lane leaves (08 R154). -/
def handleAccess (s : State) (g : Wg) (wr : Bool) (h : DWord) (o n : Nat) : Except End (Nat × Nat) :=
  match handleCheck s g h true with
  | some e => .error e
  | none =>
    if o % n ≠ 0 then .error (.trap 0x04 0 (BitVec.ofNat 64 o))
    else if o + n > (hLenm h.toNat + 1) * 256 then .error (boundsTrap (if wr then 4 else 3) n o)
    else match memberAt s g (hSpos h.toNat) with
      | some m => .ok (m, hBase h.toNat * 256 + o)
      | none => .error (handleTrap 2 (hIdx h.toNat) h)

/-- `ldh` (08 R154). -/
def execLdh (h : Hdr) (ty : Ty) (mod : BitVec 3) (d a b : Opnd) (imm : Word) (s : State) :
    Host.Outcome State Fault Refusal :=
  .next (execLoad h d (fun s w t =>
    let g := getWg s w
    match handleAccess s g false (readPair g t a) (handleOfs g t b mod imm) (ty.width / 8) with
    | .error e => (s, .error e)
    | .ok (m, x) => (s, .ok (spPend h s (getWg s m) x ty d))) s)

/-- `sth` (08 R154). -/
def execSth (h : Hdr) (ty : Ty) (mod : BitVec 3) (d a b : Opnd) (imm : Word) (s : State) :
    Host.Outcome State Fault Refusal :=
  .next (perLane h false false (fun s w t =>
    let g := getWg s w
    let n := ty.width / 8
    match handleAccess s g true (readPair g t a) (handleOfs g t b mod imm) n with
    | .error e => (s, e)
    | .ok (m, x) => (modWg s m (fun y => y.spWrite x (leBytes n (readTy g t ty d 0))), .adv)) s)

/-- The lanes of a cluster that wait in an `htake` on an entry: workgroup and thread. -/
def takers (s : State) (own : Nat × Nat × Nat) (idx gen : Nat) : List (Nat × Nat) :=
  (rangeFrom 0 s.wgs.length).flatMap (fun w =>
    let g := getWg s w
    if g.status == .resident && ownerOf g == own then
      ((rangeFrom 0 g.threads.length).filter (fun t => (getTh g t).wait == .take idx gen)).map (fun t => (w, t))
    else [])

/-- Make a position the holder; its waiting `htake`s are tried again (08 R156). -/
def giveTo (s : State) (cl idx pos : Nat) : State :=
  let o := getOwn s cl idx
  let s := setOwn s cl idx { o with holder := pos }
  (takers s o.owner idx o.gen).foldl (fun s e =>
    if (getWg s e.1).clid = pos then modTh s e.1 e.2 (fun th => { th with wait := .none }) else s) s

/-- The generation after a retirement (08 R151). -/
def nextGen (n : Nat) : Nat := if n = 4095 then 1 else n + 1

/-- Retire an entry: its handles become stale, and every `htake` that waits on it traps (08 R152). -/
def retireOwn (s : State) (cl idx : Nat) : State :=
  let o := getOwn s cl idx
  let ws := takers s o.owner idx o.gen
  let s := setOwn s cl idx { Own.free with gen := nextGen o.gen }
  ws.foldl (fun s e => trapNow s e.1 e.2 0x0B (BitVec.ofNat 64 (idx * 256 + 2)) (BitVec.ofNat 64 (handleOf idx o))) s

/-- Retire every live entry that passes a test. -/
def retireWhere (s : State) (f : Own → Bool) : State :=
  (s.owns.filter (fun e => e.2.live && f e.2)).foldl (fun s e => retireOwn s (e.1 / 64) (e.1 % 64)) s

/-- `hgive` (08 R156). -/
def execHgive (h : Hdr) (a b : Opnd) (imm : Word) (s : State) : Host.Outcome State Fault Refusal :=
  .next (perGroup h true true (fun s w al =>
    let g := getWg s w
    let t := al.headD 0
    let x := readPair g t a
    let p := readTy g t .n32 b imm
    match handleCheck s g x true with
    | some e => (s, e)
    | none =>
      if p > 3 ∨ (memberAt s g p).isNone then (s, handleTrap 4 (hIdx x.toNat) x)
      else
        let r := tryRelease s w ((rangeFrom (32 * grpOf t) 32).filter (fun u => (getTh g u).live)) al 0b1111 0b1111
        if r.2 then (giveTo r.1 (clusterOf g.core) (hIdx x.toNat) p, .adv) else (r.1, .stay .drain)) s)

/-- `hgive.new` (08 R156); an overlap names the live buffer's handle, and %taddr of trap 0x04 is the data address x whichever of x and n is
misaligned: R156 gives neither (log 16). -/
def execHgiveNew (h : Hdr) (d a b : Opnd) (imm : Word) (s : State) : Host.Outcome State Fault Refusal :=
  .next (perGroup h true true (fun s w al =>
    let g := getWg s w
    let t := al.headD 0
    let x := readTy g t .n32 a imm
    let n := readTy g t .n32 b imm
    let cl := clusterOf g.core
    if x % 256 ≠ 0 ∨ n % 256 ≠ 0 ∨ n = 0 then (s, .trap 0x04 0 (BitVec.ofNat 64 x))
    else if !inRegion g x n then (s, boundsTrap 2 0 x)
    else match (rangeFrom 0 64).find? (fun i => (getOwn s cl i).overlaps g x n) with
      | some i => (s, handleTrap 7 i (BitVec.ofNat 64 (handleOf i (getOwn s cl i))))
      | none =>
        match (rangeFrom 0 64).find? (fun i => !(getOwn s cl i).live) with
        | none => (setWg s w (g.writeAll t (tyWrites d .n64 0)), .adv)
        | some i =>
          let o : Own := { live := true, gen := (getOwn s cl i).gen, owner := ownerOf g, spos := g.clid, base := x / 256
                           lenm := n / 256 - 1, holder := g.clid }
          (setWg (setOwn s cl i o) w (g.writeAll t (tyWrites d .n64 (handleOf i o))), .adv)) s)

/-- `hgive.retire` (08 R156). -/
def execHgiveRetire (h : Hdr) (a : Opnd) (s : State) : Host.Outcome State Fault Refusal :=
  .next (perGroup h true true (fun s w al =>
    let g := getWg s w
    let t := al.headD 0
    let x := readPair g t a
    match handleCheck s g x false with
    | some e => (s, e)
    | none =>
      if hSpos x.toNat ≠ g.clid ∨ (getOwn s (clusterOf g.core) (hIdx x.toNat)).holder ≠ g.clid then
        (s, handleTrap 6 (hIdx x.toNat) x)
      else
        let r := tryRelease s w ((rangeFrom (32 * grpOf t) 32).filter (fun u => (getTh g u).live)) al 0b1111 0b1111
        if r.2 then (retireOwn r.1 (clusterOf g.core) (hIdx x.toNat), .adv) else (r.1, .stay .drain)) s)

/-- `htake` (08 R156). The lanes of the group in the bundle that are guarded off wait with the active ones: the spec does not say (log
114). -/
def execHtake (h : Hdr) (a : Opnd) (s : State) : Host.Outcome State Fault Refusal :=
  .next (perGroup h true true (fun s w al =>
    let g := getWg s w
    let x := readPair g (al.headD 0) a
    match handleCheck s g x false with
    | some e => (s, e)
    | none =>
      if (getOwn s (clusterOf g.core) (hIdx x.toNat)).holder = g.clid then (s, .adv)
      else (s, .stay (.take (hIdx x.toNat) (hGen x.toNat)))) s)

/-- The word of `hqry` for a handle (08 R158). -/
def hqryWord (s : State) (g : Wg) (h : Nat) : Nat :=
  let o := getOwn s (clusterOf g.core) (hIdx h)
  let live := isCurrent s g h
  b2n live * 2 ^ 31 + b2n (live && o.holder == g.clid) * 2 ^ 30 + (if live then o.holder else 0) * 2 ^ 12
    + (if isForeign s g h then 0 else o.gen)

/-- `hqry` (08 R158). -/
def execHqry (h : Hdr) (d a : Opnd) (s : State) : Host.Outcome State Fault Refusal :=
  let act (s : State) (w t : Nat) : State × End :=
    let g := getWg s w
    let x := readPair g t a
    if x.toNat % 2 ^ 14 ≠ 0 then (s, handleTrap 3 0 x)
    else (setWg s w (g.writeAll t (regWrites d (wordRes (hqryWord s g x.toNat)).vals)), .adv)
  .next (if isUni d then perGroup h true false (fun s w al => act s w (al.headD 0)) s else perLane h true false act s)

end Sys2Proof.Machine
end

