-- ==== Sys2Proof/Machine/Tags.lean ====
section
/-!
DEFINITION. Tags.lean: the tag table (08 R159 to R163).
-/
namespace Sys2Proof.Machine

/-- An invalid way (08 R159). -/
def TagWay.empty : TagWay := { v := false, key := 0, d := false, p := false, age := 0 }

/-- The way at a slot. -/
def getTag (g : Wg) (slot : Nat) : TagWay := SMap.get TagWay.empty g.tags slot

/-- Replace the way at a slot. -/
def Wg.setTag (g : Wg) (slot : Nat) (x : TagWay) : Wg := { g with tags := SMap.set TagWay.empty g.tags slot x }

/-- The way of a set that holds a key. -/
def tagHit (g : Wg) (set key : Nat) : Option Nat :=
  (rangeFrom 0 4).find? (fun k => (getTag g (4 * set + k)).v && (getTag g (4 * set + k)).key == key)

/-- Make a valid way the most recent of its set: the ways more recent than `age` age by one (08 R159). -/
def Wg.touch (g : Wg) (set way age : Nat) : Wg :=
  let g := (rangeFrom 0 4).foldl (fun (g : Wg) k =>
    let x := getTag g (4 * set + k)
    if x.v && k != way && decide (x.age < age) then g.setTag (4 * set + k) { x with age := x.age + 1 } else g) g
  g.setTag (4 * set + way) { getTag g (4 * set + way) with age := 0 }

/-- Trap 0x17 (08 R160). -/
def tagTrap (reason n : Nat) : End := .trap 0x17 (BitVec.ofNat 64 reason) (BitVec.ofNat 64 n)

/-- Trap 0x15 where a set holds an uncorrectable error, for a key or a slot n (01 R20). -/
def setCheck (g : Wg) (set n : Nat) : Option End :=
  if g.badTags.contains set then some (.trap 0x15 0 (BitVec.ofNat 64 n)) else none

/-- The checks of a key (08 R160). -/
def keyCheck (g : Wg) (key : Nat) : Option End :=
  if g.hdr.tsets = 0 then some (tagTrap 1 key) else if key ≥ 2 ^ 48 then some (tagTrap 2 key)
  else setCheck g (key % g.hdr.tsets) key

/-- The checks of a slot (08 R160). -/
def slotCheck (g : Wg) (slot : Nat) : Option End :=
  if g.hdr.tsets = 0 then some (tagTrap 1 slot) else if slot ≥ 4 * g.hdr.tsets then some (tagTrap 3 slot)
  else setCheck g (slot / 4) slot

/-- A tag-table instruction: lanes one after another, or once for a group with a uniform destination (08 R160, 06 R100). -/
def execTag (h : Hdr) (uni closes : Bool) (act : Wg → Nat → Except End Wg) (s : State) : State :=
  let one (s : State) (w t : Nat) : State × End :=
    match act (getWg s w) t with
    | .ok g => (setWg s w g, .adv)
    | .error e => (s, e)
  if uni then perGroup h true closes (fun s w al => one s w (al.headD 0)) s else perLane h true closes one s

/-- `tlook` on a key: the table after it, and the result word (08 R161). -/
def tagLook (g : Wg) (key : Nat) : Wg × Nat :=
  let set := key % g.hdr.tsets
  match tagHit g set key with
  | some k =>
    let x := getTag g (4 * set + k)
    (g.touch set k x.age, b2n x.d * 2 ^ 30 + b2n x.p * 2 ^ 29 + (4 * set + k))
  | none => (g, 2 ^ 31 + 4 * set)

/-- `tlook` (08 R161). -/
def execTlook (h : Hdr) (d a : Opnd) (imm : Word) (s : State) : Host.Outcome State Fault Refusal :=
  .next (execTag h (isUni d) false (fun g t =>
    let key := readTy g t .n64 a imm
    match keyCheck g key with
    | some e => .error e
    | none =>
      let r := tagLook g key
      .ok (r.1.writeAll t (regWrites d (wordRes r.2).vals))) s)

/-- The way `tins` chooses: the lowest invalid one, else the oldest that is not pinned (08 R162). -/
def tagVictim (g : Wg) (set : Nat) : Option Nat :=
  match (rangeFrom 0 4).find? (fun k => !(getTag g (4 * set + k)).v) with
  | some k => some k
  | none =>
    ((rangeFrom 0 4).filter (fun k => !(getTag g (4 * set + k)).p)).foldl (fun b k => match b with
      | none => some k
      | some j => if (getTag g (4 * set + j)).age < (getTag g (4 * set + k)).age then some k else some j) none

/-- `tins` of a key: the table after it, and the result pair (08 R162). -/
def tagInsert (g : Wg) (key : Nat) : Wg × Nat :=
  let set := key % g.hdr.tsets
  match tagHit g set key with
  | some k => (g.touch set k (getTag g (4 * set + k)).age, 2 ^ 61 + k * 2 ^ 48)
  | none =>
    match tagVictim g set with
    | none => (g, 2 ^ 60)
    | some k =>
      let x := getTag g (4 * set + k)
      let g' := g.setTag (4 * set + k) { v := true, key := key, d := false, p := false, age := 0 }
      (g'.touch set k (if x.v then x.age else 4),
        b2n x.v * 2 ^ 63 + b2n (x.v && x.d) * 2 ^ 62 + k * 2 ^ 48 + (if x.v then x.key else 0))

/-- `tins` (08 R162). -/
def execTins (h : Hdr) (d a : Opnd) (imm : Word) (s : State) : Host.Outcome State Fault Refusal :=
  .next (execTag h (isUni d) true (fun g t =>
    let key := readTy g t .n64 a imm
    match keyCheck g key with
    | some e => .error e
    | none =>
      let r := tagInsert g key
      .ok (r.1.writeAll t (tyWrites d .n64 r.2))) s)

/-- `tinv` of a slot: the table after it, and the result pair (08 R162). -/
def tagInvalidate (g : Wg) (slot : Nat) : Wg × Nat :=
  let set := slot / 4
  let x := getTag g slot
  if x.v then
    let g := (rangeFrom 0 4).foldl (fun (g : Wg) k =>
      let y := getTag g (4 * set + k)
      if y.v && decide (x.age < y.age) then g.setTag (4 * set + k) { y with age := y.age - 1 } else g) g
    (g.setTag slot TagWay.empty, 2 ^ 63 + b2n x.d * 2 ^ 62 + b2n x.p * 2 ^ 59 + slot % 4 * 2 ^ 48 + x.key)
  else (g, slot % 4 * 2 ^ 48)

/-- `tinv` (08 R162). -/
def execTinv (h : Hdr) (d a : Opnd) (imm : Word) (s : State) : Host.Outcome State Fault Refusal :=
  .next (execTag h (isUni d) true (fun g t =>
    let slot := readTy g t .n32 a imm
    match slotCheck g slot with
    | some e => .error e
    | none =>
      let r := tagInvalidate g slot
      .ok (r.1.writeAll t (tyWrites d .n64 r.2))) s)

/-- `tmark` (08 R163). -/
def execTmark (h : Hdr) (a b : Opnd) (imm : Word) (s : State) : Host.Outcome State Fault Refusal :=
  .next (execTag h false false (fun g t =>
    let slot := readTy g t .n32 a imm
    let k := readTy g t .n32 b imm
    match slotCheck g slot with
    | some e => .error e
    | none =>
      let x := getTag g slot
      if !x.v then .error (tagTrap 4 slot)
      else .ok (g.setTag slot { x with d := if bit k 8 then bit k 0 else x.d, p := if bit k 9 then bit k 1 else x.p })) s)

end Sys2Proof.Machine
end

