-- ==== Sys2Proof/Machine/Memory.lean ====
section
/-!
DEFINITION. Memory.lean: accesses to global, far and host memory (10 R168 to R182) and `fence` (11 R196).
-/
namespace Sys2Proof.Machine

/-- The fault record of a context's page, on any core (10 R179). -/
def findFault (s : State) (ctx page : Nat) : Option FaultRec :=
  s.cores.findSome? (fun c => c.2.faults.find? (fun r => r.ctx == ctx && r.page == page))

/-- A lane parks on a page that is not resident: it joins the page's record, or its core posts one, or it waits for a place
(10 R179). -/
def parkOnPage (s : State) (w va : Nat) (wr : Bool) (leafPa lvl size : Nat) : State × End :=
  let g := getWg s w
  let page := va / size * size
  match findFault s g.ctx page with
  | some r => (s, .stay (.fault r.num va wr))
  | none =>
    if (getCore s g.core).faults.length < 32 then
      let r : FaultRec := { num := s.fresh, ctx := g.ctx, page := page, size := size, leaf := leafPa, level := lvl, wr := wr
                            at0 := dtime s }
      ((modCore s g.core (fun c => { c with faults := c.faults ++ [r] })).bump, .stay (.fault r.num va wr))
    else (s, .stay .faultRetry)

/-- Check one lane's address in its context and on its core's die (10 R178): where the access goes, or how the lane leaves. The first
access to an unscrubbed granule starts its clear (10 R174). -/
def access (s : State) (w va : Nat) (n : Need) : State × Except End (Nat × Leaf) :=
  let g := getWg s w
  let out := checkAddr s g.ctx (dieOf g.core) va n s.fresh
  let s := countWalk s g.ctx (dieOf g.core) va n
  match out with
  | .ok pa l => (startClear s l.uns pa, .ok (pa, l))
  | .trap c i => (s, .error (.trap c (BitVec.ofNat 64 i) (BitVec.ofNat 64 va)))
  | .badPte pa i => (logError s pa, .error (.trap 0x06 (BitVec.ofNat 64 i) (BitVec.ofNat 64 va)))
  | .park pa lvl size =>
    let r := parkOnPage s w va n.wr pa lvl size
    (r.1, .error r.2)

/-- What `ld` needs of a page. -/
def loadNeed (ty : Ty) (mw : MemW) : Need := { align := ty.width / 8, rd := true, wr := false, ss := mw.ss }

/-- What `st` needs of a page. -/
def storeNeed (ty : Ty) (mw : MemW) : Need := { align := ty.width / 8, rd := false, wr := true, ss := mw.ss }

/-- Whether ORD holds an acquire, or a release (02 R34). -/
def isAcq (mw : MemW) : Bool := mw.ord = 1 || mw.ord = 3
def isRel (mw : MemW) : Bool := mw.ord = 2 || mw.ord = 3

/-- `ld` (10 R181). -/
def execLd (h : Hdr) (ty : Ty) (mod : BitVec 3) (d a b : Opnd) (mw : MemW) (ofs : BitVec 20) (s : State) :
    Host.Outcome State Fault Refusal :=
  let va (g : Wg) (t : Nat) : Nat := vaOf g t a b mod ofs.toInt
  .next (execLoad h d (fun s w t =>
    let x := va (getWg s w) t
    match access s w x (loadNeed ty mw) with
    | (s, .error e) => (s, .error e)
    | (s, .ok (pa, _)) => (s, .ok { Pend.start h s.fresh (.load pa ty d mw.rpro) [] 0 with
        acq := if isAcq mw then mw.ss else 0, bad := some (BitVec.ofNat 64 x) })) s)

/-- What a store to a page carries into the buffer, to be performed after what `after` says; the copies of a REPL page
start the clears it meets there (10 R173, R174). -/
def storeAttr (s : State) (g : Wg) (va : Nat) (l : Leaf) (after : List (Nat × BitVec 4)) : State × StoreAttr :=
  let c := if l.repl then replCopies s g.ctx (dieOf g.core) va else (s, [])
  (c.1, { ctx := g.ctx, part := g.part, prop := l.prop, vgran := va / 65536, after := after, repl := c.2 })

/-- Whether the core's buffer can take a store: it has a place, or its oldest line can be performed (10 R174, R177). -/
def bufferTakes (s : State) (core : Nat) : Bool :=
  let ls := (getCore s core).lines
  decide (ls.length < 64) || (match ls.getLast? with | some l => l.free s && l.ripe s core | none => true)

/-- Put the bytes of a checked store into the buffer, after the thread's own accesses there, and to be performed after what `after` and the
thread's release fences say; false where it must wait. -/
def storeBytes (s : State) (w t va pa : Nat) (l : Leaf) (bs : List Byte) (after : List (Nat × BitVec 4)) : State × Bool :=
  let g := getWg s w
  let r := captureOver s w t pa bs.length
  if r.2 && bufferTakes r.1 g.core then
    let a := storeAttr r.1 g va l (after ++ (thOf r.1 w t).afterOf (kindBit pa))
    (bufferStore a.1 g.core pa bs a.2, true)
  else (r.1, false)

/-- Every line of a core begins to drain (10 R177). -/
def drainAll (s : State) (core : Nat) : State :=
  modCore s core (fun c => { c with lines := c.lines.map (fun l => { l with draining := true }) })

/-- Whether a release must wait for its core's buffers to be performed: at die scope or wider, and, in an SC fence, at cluster scope
(10 R177, 11 R188, R196). -/
def waitsWide (scope : Nat) (sc : Bool) : Bool := decide (scope ≥ 3) || (sc && decide (scope = 2))

/-- What a release at cluster scope orders before a store or a read-modify-write that does not wait for it (11 R188). -/
def narrowAfter (s : State) (mw : MemW) : List (Nat × BitVec 4) := if isRel mw && mw.scope = 2 then [(s.fresh, mw.ss)] else []

/-- What a release by ORD waits for its core's buffers for, where what it orders can be performed behind them (11 R188). -/
def narrowDrain (mw : MemW) : BitVec 4 := if waitsWide mw.scope.toNat false then 0b1111 else 0

/-- `st` (10 R181); a release at cluster scope goes into the buffer behind what it orders (11 R188). -/
def execSt (h : Hdr) (ty : Ty) (mod : BitVec 3) (d a b : Opnd) (mw : MemW) (ofs : BitVec 20) (s : State) :
    Host.Outcome State Fault Refusal :=
  let va (g : Wg) (t : Nat) : Nat := vaOf g t a b mod ofs.toInt
  .next (perLaneInOrder h false false false (fun s w t =>
    let x := va (getWg s w) t
    match access s w x (storeNeed ty mw) with
    | (s, .error e) => (s, e)
    | (s, .ok (pa, l)) =>
      let r := if isRel mw then tryRelease s w [t] [t] (narrowDrain mw) mw.ss else (s, true)
      if !r.2 || !ownOrdered r.1 w t (kindBit pa) then (r.1, .stay .drain)
      else
        let s := if (narrowAfter r.1 mw).isEmpty then r.1 else drainAll r.1 (getWg r.1 w).core
        let q := storeBytes s w t x pa l (leBytes (ty.width / 8) (readTy (getWg s w) t ty d 0)) (narrowAfter s mw)
        if q.2 then (if isRel mw then flushHost q.1 (getWg s w).part mw.scope.toNat mw.ss else q.1, .adv) else (q.1, .stay .drain)) s)

/-- `pf` changes nothing, on a STAGED page too: 10 R182 says that it never traps, R175 that it takes trap 0x07 there (log 101). -/
def execPf (h : Hdr) (_mod : BitVec 3) (_a _b : Opnd) (_mw : MemW) (_ofs : BitVec 20) (s : State) :
    Host.Outcome State Fault Refusal :=
  .next (perLane h true false (fun s _ _ => (s, .adv)) s)

/-- A release fence of a thread: its later stores come after what is older than a number in some kinds of storage (11 R185, R188); of what its
fences order, what is done is forgotten. -/
def orderAt (s : State) (w t bound : Nat) (ss : BitVec 4) (wide : Bool) : State :=
  modTh s w t (fun th => { th with
    order := (th.order ++ [({ bound := bound, ss := ss, wide := wide } : Order)]).filter (Order.left s w t) })

/-- The end of a fence of one lane. -/
def fenceEnd (s : State) (w t bound : Nat) (mw : MemW) : State × End :=
  (if isRel mw then flushHost (orderAt s w t bound mw.ss (decide (mw.scope.toNat ≥ 2))) (getWg s w).part mw.scope.toNat mw.ss else s, .adv)

/-- A fence of one lane (11 R188, R196): an acquire waits for the lane's own loads and atomics in the mask; so does a release for its
loads. A release at die scope or wider, and an SC fence at cluster scope, waits for the core's buffers; a narrower one drains the lines
and orders the lane's later stores behind what is older. -/
def fenceLane (s : State) (w t : Nat) (mw : MemW) (sc : Bool) : State × End :=
  let scope := mw.scope.toNat
  let core := (getWg s w).core
  let bound := ((thOf s w t).relAt).getD s.fresh
  let wide := isRel mw && waitsWide scope sc
  let s := if isRel mw && decide (scope ≥ 2) then drainAll s core else s
  if isAcq mw || wide then
    let r := tryRelease s w [t] [t] (if wide then drainMask scope mw.ss else 0) mw.ss
    if !r.2 then (r.1, .stay .drain) else fenceEnd r.1 w t bound mw
  else
    let s := captureWhere s w t (fun p => p.readsIn mw.ss)
    if (thOf s w t).pend.any (fun p => p.readsIn mw.ss) then
      (modTh s w t (fun th => { th with relAt := some bound }), .stay .drain)
    else fenceEnd s w t bound mw

/-- `fence` (11 R196); the order of SC fences is the order of steps (11 R191). -/
def execFence (h : Hdr) (sub : BitVec 4) (mw : MemW) (s : State) : Host.Outcome State Fault Refusal :=
  .next (perLane h true false (fun s w t => fenceLane s w t mw (sub.getLsbD 0)) s)

end Sys2Proof.Machine
end

