-- ==== Sys2Proof/Machine/Atomics.lean ====
section
/-!
DEFINITION. Atomics.lean: `atom` and `red`, at their issue and at the home of their address (11 R197 to R200).
-/
namespace Sys2Proof.Machine

/-- The new value of a read-modify-write from old m, data x and expected value e (11 R198). -/
def atomOp (op : Nat) (ty : Ty) (m x e : Nat) : Nat :=
  match op with
  | 6 => x
  | 7 => if m = e then x else m
  | 8 =>
    let f := Fmt.f32
    (sumOf f { rm := .rne, ftz := false } [FV.ofBits f false m, FV.ofBits f false x]).1
  | _ => redOp op ty m x

/-- The data and the expected value that an operand gives to an operation (11 R198). -/
def atomData (g : Wg) (t op : Nat) (ty : Ty) (c : Opnd) : DWord × DWord :=
  if op = 7 then
    let r (k : Nat) : Word := match c with
      | .v n => (getTh g t).rv (n.toNat + k)
      | .s n => (getGroup g (grpOf t)).ru (n.toNat + k)
      | _ => 0
    if ty.width = 64 then (pairOf (r 2) (r 3), pairOf (r 0) (r 1)) else ((r 1).setWidth 64, (r 0).setWidth 64)
  else (BitVec.ofNat 64 (readTy g t ty c 0), 0)

/-- What an atomic needs of a page. -/
def atomNeed (ty : Ty) (mw : MemW) : Need := { align := ty.width / 8, rd := true, wr := true, atomic := true, ss := mw.ss }

/-- Whether host memory takes an operation: FetchAdd, Swap and CAS (11 R199). -/
def hostTakes (op : Nat) : Bool := op == 0 || op == 6 || op == 7

/-- A lane's read-modify-write that has passed its checks. -/
structure AtomLane where
  t : Nat
  va : Nat
  pa : Nat
  leaf : Leaf
  data : DWord
  exp : DWord

/-- The checks of a read-modify-write of a lane (10 R178, 11 R199). -/
def atomLane (s : State) (w t va op : Nat) (ty : Ty) (mw : MemW) (data : DWord × DWord) : State × Except End AtomLane :=
  match access s w va (atomNeed ty mw) with
  | (s, .error e) => (s, .error e)
  | (s, .ok (pa, l)) =>
    if pa / 2 ^ 50 = 2 ∧ !hostTakes op then
      (s, .error (.trap 0x06 (BitVec.ofNat 64 (l.level * 4096 + 256 + 0x0A)) (BitVec.ofNat 64 va)))
    else (s, .ok { t := t, va := va, pa := pa, leaf := l, data := data.1, exp := data.2 })

/-- Make ready for a read-modify-write at n bytes by some lanes of a group or one lane: their own loads there, and the core's buffered
stores there, come first; false where it must wait (11 R186). -/
def atomPlace (s : State) (w : Nat) (ts : List Nat) (pa n : Nat) : State × Bool :=
  let core := (getWg s w).core
  let q := ts.foldl (fun (q : State × Bool) t =>
    let r := captureOver q.1 w t pa n
    (r.1, q.2 && r.2)) (s, true)
  let lines := (getCore q.1 core).lines.filter (fun x => x.overlaps pa n)
  if !q.2 || lines.any (fun x => !x.free q.1 || !x.ripe q.1 core) then (q.1, false)
  else (performLines q.1 core (fun x => x.overlaps pa n), true)

/-- Make ready for the read-modify-writes of the lanes that passed their checks: the release of each lane before the requests, and their
places; where one must wait, all do, so that a combined request holds all its lanes (11 R199). A release at cluster scope goes with the
requests, behind the lines that begin to drain (10 R177, 11 R188). -/
def atomReady (s : State) (w : Nat) (mw : MemW) (n : Nat) (xs : List (AtomLane × List Nat)) : State × Bool :=
  let ts := xs.flatMap Prod.snd
  let r := if isRel mw && !ts.isEmpty then tryRelease s w ts ts (narrowDrain mw) mw.ss else (s, true)
  if !r.2 then r
  else
    let q := xs.foldl (fun (q : State × Bool) x => if !q.2 then q else atomPlace q.1 w x.2 x.1.pa n) r
    if !q.2 || !isRel mw || ts.isEmpty then q
    else
      let s := if (narrowAfter q.1 mw).isEmpty then q.1 else drainAll q.1 (getWg q.1 w).core
      (flushHost s (getWg s w).part mw.scope.toNat mw.ss, true)

/-- A request to the home of an address, issued by some threads. -/
def atomReq (s : State) (w : Nat) (x : AtomLane) (op : Nat) (ty : Ty) (mw : MemW) (rpro ret : Bool) (who : List Nat)
    (lanes : List (Nat × Nat × DWord × DWord)) : Req :=
  let g := getWg s w
  let k := kindBit x.pa
  { id := s.fresh, stamp := s.fresh, origin := .thread w x.t ((lanes.map (fun l => l.2.1)).headD 0), who := who, wg := w, core := g.core
    ctx := g.ctx, part := g.part, die := dieOf g.core, pa := x.pa, ret := ret, prop := x.leaf.prop, vgran := x.va / 65536
    kind := .atom op ty rpro lanes, size := ty.width / 8, scope := 0, ss := mw.ss, held := false
    after := (narrowAfter s mw ++ who.flatMap (fun t => (getTh g t).afterOf k)).eraseDups
    behind := who.flatMap (fun t => behindOf s w t k) }

/-- Send the requests of the lanes that are ready, each with the threads it stands for: one for each address, or one for each lane for
swap and cas (11 R199). -/
def sendAtoms (s : State) (w op : Nat) (ty : Ty) (mw : MemW) (rpro ret : Bool) (xs : List (AtomLane × Nat × List Nat)) : State :=
  let lane (e : AtomLane × Nat × List Nat) : Nat × Nat × DWord × DWord := (e.1.t, e.2.1, e.1.data, e.1.exp)
  if op = 6 ∨ op = 7 then
    xs.foldl (fun s e => { s with reqs := s.reqs ++ [atomReq s w e.1 op ty mw rpro ret e.2.2 [lane e]] }.bump) s
  else
    (xs.map (fun e => e.1.va)).eraseDups.foldl (fun s va =>
      let ls := xs.filter (fun e => e.1.va == va)
      match ls with
      | [] => s
      | e :: _ => { s with reqs := s.reqs ++ [atomReq s w e.1 op ty mw rpro ret (ls.flatMap (fun (x : AtomLane × Nat × List Nat) => x.2.2)) (ls.map lane)] }.bump) s

/-- The position after a thread's present instruction (18 R305). -/
def posAfter (s : State) (g : Wg) (th : Thread) : Word := (th.advance (seqLen s g th.seqM)).pos

/-- The outstanding result of an `atom`. -/
def atomPend (h : Hdr) (s : State) (w t tok va : Nat) (id : Nat) (ty : Ty) (d : Opnd) (mw : MemW) : Pend :=
  { Pend.start h tok (.req id ty d (.imm 0)) [] 0 with
    closeTo := some (posAfter s (getWg s w) (thOf s w t)), acq := if isAcq mw then mw.ss else 0
    bad := some (BitVec.ofNat 64 va) }

/-- The request that holds a token. -/
def reqOfTok (s : State) (tok : Nat) : Nat :=
  ((s.reqs.find? (fun r => match r.kind with
    | .atom _ _ _ ls => ls.any (fun l => l.2.1 == tok)
    | _ => false)).map Req.id).getD 0

/-- The lanes of a bundle that pass the checks of a read-modify-write; the others leave by the check that fails (11 R199). -/
def atomChecks (s : State) (w op : Nat) (ty : Ty) (mw : MemW) (act : List Nat) (va : Wg → Nat → Nat) (data : Wg → Nat → DWord × DWord) :
    State × List AtomLane :=
  act.foldl (fun (r : State × List AtomLane) t =>
    let g := getWg r.1 w
    match atomLane r.1 w t (va g t) op ty mw (data g t) with
    | (s, .error e) => (finish s w t false e, r.2)
    | (s, .ok x) => (s, r.2 ++ [x])) (s, [])

/-- `atom` in the lanes of a bundle (11 R199): the lanes that pass their checks make ready, and their requests are sent together. -/
def atomLanes (h : Hdr) (op : Nat) (ty : Ty) (mod : BitVec 3) (d a b c : Opnd) (mw : MemW) (ofs : Int) (s : State) : State :=
  let w := s.bundle.wg
  let act := s.bundle.lanes.filter (fun t => activeIn h false (thOf s w t))
  let s := (s.bundle.lanes.filter (fun t => !act.contains t)).foldl (fun s t => finish s w t true .adv) s
  let r := atomChecks s w op ty mw act (fun g t => vaOf g t a b mod ofs) (fun g t => atomData g t op ty c)
  let q := atomReady r.1 w mw (ty.width / 8) (r.2.map (fun x => (x, [x.t])))
  if !q.2 then r.2.foldl (fun s x => finish s w x.t false (.stay .drain)) q.1
  else
    let n := r.2.foldl (fun (n : State × List (AtomLane × Nat × List Nat)) x => (n.1.bump, n.2 ++ [(x, n.1.fresh, [x.t])])) (q.1, [])
    let s := sendAtoms n.1 w op ty mw mw.rpro true n.2
    n.2.foldl (fun s e =>
      finish (addPend s w e.1.t (atomPend h s w e.1.t e.2.1 e.1.va (reqOfTok s e.2.1) ty d mw)) w e.1.t false .adv) s

/-- `atom` with a uniform destination: one request for the group (11 R199, 06 R100). -/
def atomGroup (h : Hdr) (op : Nat) (ty : Ty) (mod : BitVec 3) (d a b c : Opnd) (mw : MemW) (ofs : Int) (s : State) : State :=
  let w := s.bundle.wg
  (groupsOf s.bundle.lanes).foldl (fun s k =>
    let ls := s.bundle.lanes.filter (fun t => grpOf t == k)
    let al := ls.filter (fun t => activeIn h false (thOf s w t))
    match al with
    | [] => ls.foldl (fun s t => finish s w t true .adv) s
    | t :: _ =>
      let g := getWg s w
      match atomLane s w t (vaOf g t a b mod ofs) op ty mw (atomData g t op ty c) with
      | (s, .error e) => ls.foldl (fun s u => finish s w u true e) s
      | (s, .ok x) =>
        let q := atomReady s w mw (ty.width / 8) [(x, al)]
        if !q.2 then ls.foldl (fun s u => finish s w u false (.stay .drain)) q.1
        else
          let tok := q.1.fresh
          let s := sendAtoms q.1.bump w op ty mw mw.rpro true [(x, tok, al)]
          ls.foldl (fun s u =>
            let p := atomPend h s w u tok x.va (reqOfTok s tok) ty d mw
            finish (addPend s w u (if al.contains u then p else { p.shared with closeTo := p.closeTo })) w u false .adv) s) s

/-- `atom` (11 R199). -/
def execAtom (h : Hdr) (ty : Ty) (mod : BitVec 3) (sub : BitVec 4) (d a b c : Opnd) (mw : MemW) (ofs10 : BitVec 10)
    (s : State) : Host.Outcome State Fault Refusal :=
  .next (if isUni d then atomGroup h sub.toNat ty mod d a b c mw ofs10.toInt s
     else atomLanes h sub.toNat ty mod d a b c mw ofs10.toInt s)

/-- Whether a reduction goes through the combining buffer (11 R200): one that a release at cluster scope or an earlier fence orders behind what
its core has buffered, or behind a request, goes to its home as a request. -/
def combines (s : State) (w op : Nat) (mw : MemW) (x : AtomLane) : Bool :=
  decide (op ≤ 5) && decide (x.pa / 2 ^ 50 = 0) && (narrowAfter s mw).isEmpty && orderDone s w x.t (kindBit x.pa)

/-- The entry a reduction merges into, the entries that must leave first, and whether they may (11 R200). -/
def combRoom (s : State) (cl pa n op : Nat) (ty : Ty) : List Comb × Bool :=
  let cs := getCombs s cl
  let hit := cs.any (fun c => c.pa == pa && c.op == op && c.ty == ty)
  let clash := cs.filter (fun c => overlap c.pa (c.ty.width / 8) pa n && !(c.pa == pa && c.op == op && c.ty == ty))
  let old := if !hit && clash.isEmpty && decide (cs.length ≥ 32) then cs.take 1 else []
  (clash ++ old, (clash ++ old).all (fun c => !clearingAt s c.pa))

/-- Whether an earlier contribution stands for this one too: it is of the same core, context and page. -/
def Contrib.covers (x y : Contrib) : Bool :=
  y.core == x.core && y.ctx == x.ctx && y.part == x.part && y.prop == x.prop && y.vgran == x.vgran

/-- Put a reduction into the combining buffer of its core's cluster; false where it must wait (11 R200). -/
def combine (s : State) (w op : Nat) (ty : Ty) (x : AtomLane) : State × Bool :=
  let g := getWg s w
  let cl := clusterOf g.core
  let r := combRoom s cl x.pa (ty.width / 8) op ty
  if !r.2 then (s, false)
  else
    let s := r.1.foldl (fun s c => sendComb s cl c) s
    let cs := getCombs s cl
    let me : Contrib := { core := g.core, stamp := s.fresh, ctx := g.ctx, part := g.part, prop := x.leaf.prop, vgran := x.va / 65536 }
    let cs := if cs.any (fun c => c.pa == x.pa) then
        cs.map (fun c => if c.pa == x.pa then
          { c with val := BitVec.ofNat 64 (redOp op ty c.val.toNat x.data.toNat)
                   who := if c.who.any me.covers then c.who else c.who ++ [me] } else c)
      else cs ++ [{ pa := x.pa, ty := ty, op := op, val := x.data, who := [me] }]
    ((setCombs s cl cs).bump, true)

/-- `red` (11 R199, R200). -/
def execRed (h : Hdr) (ty : Ty) (mod : BitVec 3) (sub : BitVec 4) (d a b : Opnd) (mw : MemW) (ofs : BitVec 20) (s : State) :
    Host.Outcome State Fault Refusal :=
  let op := sub.toNat
  .next (
    let w := s.bundle.wg
    let act := s.bundle.lanes.filter (fun t => activeIn h false (thOf s w t))
    let s := (s.bundle.lanes.filter (fun t => !act.contains t)).foldl (fun s t => finish s w t false .adv) s
    let r := atomChecks s w op ty mw act (fun g t => vaOf g t a b mod ofs.toInt) (fun g t => atomData g t op ty d)
    let q := atomReady r.1 w mw (ty.width / 8) (r.2.map (fun x => (x, [x.t])))
    if !q.2 then r.2.foldl (fun s x => finish s w x.t false (.stay .drain)) q.1
    else
      let c := r.2.filter (combines q.1 w op mw)
      let s := c.foldl (fun s x =>
        let q := combine s w op ty x
        finish q.1 w x.t false (if q.2 then .adv else .stay .drain)) q.1
      let xs := r.2.filter (fun x => !combines q.1 w op mw x)
      let n := ty.width / 8
      let s := xs.foldl (fun s x => sendCombsAt s (clusterOf (getWg s w).core) x.pa n) s
      sendAtoms (xs.foldl (fun s x => finish s w x.t false .adv) s) w op ty mw false false (xs.map (fun x => (x, 0, [x.t]))))

/-! ### At the home slice (11 R199) -/

/-- The lanes of a request in order: the location's new value and each lane's old value. -/
def atomRun (op : Nat) (ty : Ty) (m : Nat) : List (Nat × Nat × DWord × DWord) → Nat × List (Nat × DWord)
  | [] => (m, [])
  | l :: ls =>
    let r := atomRun op ty (atomOp op ty m l.2.2.1.toNat l.2.2.2.toNat) ls
    (r.1, (l.2.1, BitVec.ofNat 64 m) :: r.2)

/-- Replace a request. -/
def setReq (s : State) (r : Req) : State := { s with reqs := s.reqs.map (fun x => if x.id == r.id then r else x) }

/-- Remove a request. -/
def dropReq (s : State) (id : Nat) : State := { s with reqs := s.reqs.filter (fun x => x.id != id) }

/-- The answer of a request arrives at the outstanding instructions of a token: its writes are known (11 R199, 13 R213). -/
def answerTok (s : State) (w tok : Nat) (bad : Bool) (f : LLSrc → List RegWrite) : State :=
  modWg s w (fun g => { g with threads := g.threads.map (fun th => { th with pend := th.pend.map (fun p =>
    if p.tok == tok then { p with src := .known, writes := f p.src, acq := 0, bad := if bad then p.bad else none } else p) }) })

/-- Whether a request may be performed at its home: no clear holds its granule, what releases order before it is done (11 R188), and no
earlier request of its core there waits. -/
def mayPerform (s : State) (r : Req) : Bool :=
  !clearingAt s r.pa && r.after.all (fun a => drainedIn s r.core a.1 a.2) && !s.reqs.any (fun x => r.behind.contains x.id)
    && !s.reqs.any (fun x => !x.held && decide (x.id < r.id) && x.core == r.core && overlap x.pa x.size r.pa r.size)

/-- The AtomicOp of a request to host memory: of lanes that `.add` there, one FetchAdd of the sum (11 R199, 22 R354). -/
def hostAtomic (fn pa op : Nat) (ty : Ty) (lanes : List (Nat × Nat × DWord × DWord)) : List HostReq :=
  match lanes with
  | [] => []
  | l :: ls => [.atomic fn pa op ty (ls.foldl (fun x m => BitVec.ofNat 64 (redOp op ty x.toNat m.2.2.1.toNat)) l.2.2.1) l.2.2.2]

/-- ATOMIC_AT_HOME: one request is performed, indivisibly (11 R199). `k` is the request's number. A location with an uncorrectable error is
left as it is by an `atom` too, of which R199 does not say it (log 115). -/
def execAtomicAtHome (k : Nat) (s : State) : Host.Outcome State Fault Refusal :=
  match s.reqs.find? (fun r => r.id == k) with
  | none => .next s
  | some r =>
    match r.kind with
    | .atom op ty rpro lanes =>
      if !mayPerform s r || (rpro && !promotable s r.part) then .next s
      else
        let s := if rpro then promoteAll s r.part else s
        let n := ty.width / 8
        let s := sendCombsAt s (clusterOf r.core) r.pa n
        let m := memRead s r.pa n
        let bad := memBad s r.pa n
        let s := countReads s r.pa n
        let q := atomRun op ty m lanes
        let s := if bad then (if r.ret then s else logError s r.pa)
          else
            let s := askHost (memWrite s r.pa n q.1) r.pa (hostAtomic (r.part + 1) r.pa op ty lanes)
            if r.prop then logDirty s r.ctx r.vgran else s
        let s := dropReq s r.id
        .next (if r.ret then lanes.foldl (fun s l =>
          let old := ((q.2.find? (fun e => e.1 == l.2.1)).map (fun e => e.2.toNat)).getD m
          answerTok s r.wg l.2.1 bad (fun src => match src with
            | .req _ ty d _ => tyWrites d ty (if bad then m else old)
            | _ => [])) s else s)
    | _ => .next s

end Sys2Proof.Machine
end

