-- ==== Sys2Proof/Machine/Staged.lean ====
section
/-!
DEFINITION. Staged.lean: staged objects, class tables, transitions, parking, and the staged instructions (13).
-/
namespace Sys2Proof.Machine

/-! ### Tables and entries (R210, R211) -/

/-- The fields of a table entry (R210). -/
def eCode (e : Nat) : Nat := bits e 15 12
def ePw (e : Nat) : Bool := bit e 11
def eDop (e : Nat) : Nat := bits e 10 9
def eRel (e : Nat) : Bool := bit e 8
def eAcq (e : Nat) : Bool := bit e 7
def eAct (e : Nat) : Nat := bits e 6 4
def eNext (e : Nat) : Nat := bits e 3 0

/-- The entry of a table for a state and a transition. -/
def STable.entry (x : STable) (st t : Nat) : Nat := (SMap.get 0 x.ent (16 * st + t)).toNat

/-- The class table of a context, if its slot holds one. -/
def classOf? (s : State) (ctx cls : Nat) : Option STable := (getCtx s ctx).bind (fun c => SMap.find c.classes cls)

/-- %tinfo of a staged fault (R218). -/
def stagedInfo (chn : Bool) (reason cls st t code e : Nat) : DWord :=
  BitVec.ofNat 64 (b2n chn * 2 ^ 40 + reason * 2 ^ 32 + cls * 2 ^ 28 + st * 2 ^ 24 + t * 2 ^ 20 + code * 2 ^ 16 + e)

/-! ### Transitions (R213 to R217) -/

/-- Who performs a transition: a thread, an engine, or the chain of another transition. -/
inductive TMode where
  | thread | engine | chained
  deriving DecidableEq, Repr

/-- The outcome of a transition. -/
inductive TOut where
  | done (status : Word) (old : Option DWord)
  | chain (status : Word) (old : Option DWord) (code g pa : Nat) (leaf : Leaf)
  | fault (addr info : DWord)
  | park
  | full
  | bad

/-- Send wake messages to every core of a partition (R214, R215). -/
def sendWakes (s : State) (part : Nat) (what : Option Nat) (ctx : Nat) : State :=
  { s with wakes := s.wakes ++ (getPart s part).cores.map (fun c => (c, what, ctx)) }

/-- Whether a posting has a place: the pending-launch store, or the context's spill ring (R215). -/
def postRoom (s : State) (part ctx : Nat) : Bool :=
  decide ((getPart s part).store.length < 1024) || decide (((getCtx s ctx).map (fun c => c.spill.length)).getD 4096 < 4096)

/-- Place a posted entry: the store, else the spill ring; and whether it went to the ring (R215). -/
def postEntry (s : State) (part ctx : Nat) (raw : BitVec 1024) : State × Bool :=
  if (getPart s part).store.length < 1024 then (modPart s part (fun p => { p with store := p.store ++ [(raw, ctx)] }), false)
  else (modCtx s ctx (fun c => { c with spill := c.spill ++ [raw] }), true)

/-- What a staged access to an object needs of its page (R207, R221). -/
def stagedNeed (rd wr : Bool) (ss : BitVec 4) : Need := { align := 16, rd := rd, wr := wr, staged := true, ss := ss }

/-- The object a request names, where it stands, and for whom it is accessed. -/
structure Obj where
  ctx : Nat
  part : Nat
  die : Nat
  pa : Nat
  va : Nat
  prop : Bool
  via : Option Nat     -- the core of the originator, through whose buffers its posted entry is read (R215)

/-- Word 0 of an object. -/
def Obj.word0 (s : State) (o : Obj) : Nat := memRead s o.pa 8

/-- The entry that a transition would consult, with its class and state, or the reason of its fault (R213). -/
def lookEntry (s : State) (o : Obj) (t : Nat) : Except (Nat × Nat × Nat) (Nat × Nat × Nat) :=
  let w := o.word0 s
  let st := bits w 3 0
  let c := bits w 7 4
  if bits w 15 9 ≠ 0 then .error (0x05, c, st)
  else match classOf? s o.ctx c with
    | none => .error (0x03, c, st)
    | some tab => if st ≥ tab.n then .error (0x04, c, st) else .ok (c, st, tab.entry st t)

/-- Append an object's page to the log where it asks for it (10 R175). -/
def Obj.logged (s : State) (o : Obj) : State := if o.prop then logDirty s o.ctx (o.va / 65536) else s

/-- Write an object's words, and log its page where it asks for it (R208, 10 R175). -/
def Obj.write (s : State) (o : Obj) (w0 w1 : Nat) : State :=
  o.logged (memWrite (memWrite s o.pa 8 w0) (o.pa + 8) 8 w1)

/-- The target of a posting as its originator reads it: through its core's buffer, after its cluster's reductions there, since every
write that happens before the posting is in the copy (R215): none where it fails a check, no contents where they are uncorrectable. -/
def readEntry (s : State) (o : Obj) (target : Nat) : State × Option (Option (BitVec 1024)) :=
  let out := checkAddr s o.ctx o.die target (Need.plainRead 128) s.fresh
  let s := countWalk s o.ctx o.die target (Need.plainRead 128)
  match out with
  | .ok pa _ => match o.via with
    | some c =>
      let s := coreMeets (sendCombsAt s (clusterOf c) pa 128) c o.part pa 128
      (s, some (if coreBad s c pa 128 then none else some (BitVec.ofNat 1024 (coreRead s c pa 128))))
    | none => (readFrom s o.part pa 128, some (if memBad s pa 128 then none else some (BitVec.ofNat 1024 (memRead s pa 128))))
  | x => (logPte s x, none)

/-- Check the target of a chain (R216); its first access starts the clear it meets (10 R174). -/
def chainTarget (s : State) (o : Obj) (target : Nat) : State × Xlat :=
  let out := checkAddr s o.ctx o.die target (stagedNeed true true 0b1111) s.fresh
  let s := countWalk s o.ctx o.die target (stagedNeed true true 0b1111)
  match out with
  | .ok pa l => (startClear s l.uns pa, .ok pa l)
  | x => (logPte s x, x)

/-- Perform transition t on an object with data operand x (R213): the state after it and its outcome. A fault changes nothing in the
object. -/
def transition (s : State) (o : Obj) (t : Nat) (x : DWord) (mode : TMode) : State × TOut :=
  let chn := mode == .chained
  let s := countReads s o.pa 16
  if memBad s o.pa 16 then (s, .bad)
  else match lookEntry s o t with
  | .error (r, c, st) => (s, .fault (BitVec.ofNat 64 o.va) (stagedInfo chn r c st t 0 0))
  | .ok (c, st, e) =>
    let w := o.word0 s
    let flt (addr reason code : Nat) : State × TOut :=
      (s, .fault (BitVec.ofNat 64 addr) (stagedInfo chn reason c st t code e))
    let target := w / 65536
    if eAct e = 2 then flt o.va 0x00 (eCode e)
    else if eAct e = 1 then
      (match mode with
       | .thread => (o.logged (memWrite s o.pa 2 (w % 65536 / 512 * 512 + 256 + w % 256)), .park)
       | _ => flt o.va 0x01 0xF)
    else if eAct e = 5 ∧ chn then flt o.va 0x02 0xE
    else
      let posted := if eAct e = 4 then readEntry s o target else (s, some (some 0))
      let chained := if eAct e = 5 then (chainTarget posted.1 o target).map id some else (posted.1, none)
      let s := chained.1
      match posted.2, chained.2 with
      | none, _ => (s, .fault (BitVec.ofNat 64 target) (stagedInfo chn 0x06 c st t 0 e))
      | some none, _ => (s, .bad)
      | some (some raw), chk =>
        let badChain := match chk with
          | none => false
          | some (.ok _ _) => false
          | some _ => true
        if badChain then (s, .fault (BitVec.ofNat 64 target) (stagedInfo chn 0x06 c st t 0 e))
        else if eAct e = 4 ∧ !postRoom s o.part o.ctx then (s, .full)
        else
          let old := memRead s (o.pa + 8) 8
          let w1 := if eDop e ≥ 2 then x.toNat else old
          let wakes := decide (eAct e ≥ 3)
          let pay := if ePw e then x.toNat % 2 ^ 48 else target
          let w0 := pay * 65536 + (if wakes then 0 else b2n (bit w 8) * 256) + c * 16 + eNext e
          let s := o.write s w0 w1
          let s := if wakes && bit w 8 then sendWakes s o.part (some o.pa) o.ctx else s
          let p := if eAct e = 4 then postEntry s o.part o.ctx raw else (s, false)
          let status := BitVec.ofNat 32 (c * 4096 + b2n p.2 * 2048 + eAct e * 256 + eNext e * 16 + st)
          let ret := if eDop e = 1 ∨ eDop e = 3 then some (BitVec.ofNat 64 old) else none
          match chk with
          | some (.ok pa l) => (p.1, .chain status ret (eCode e) target pa l)
          | _ => (p.1, .done status ret)

/-- The object of a chained transition (R216). -/
def Obj.next (o : Obj) (g pa : Nat) (l : Leaf) : Obj := { o with va := g, pa := pa, prop := l.prop }

/-- The originator's status after its chained transition: a posting that spilled is reported in it (R215, R216). -/
def chainStatus (first : Word) (second : Word) : Word := first ||| (second &&& 0x800)

/-- Whether a transition waits behind one held on its object (R215), or for a clear (10 R174). -/
def objectWaits (s : State) (id pa : Nat) : Bool :=
  clearingAt s pa || s.reqs.any (fun r => r.held && r.pa == pa && decide (r.id < id))

/-- Whether the posting that transition t would make waits: for the clear that its first access to the entry starts (10 R174), or for an
earlier request of its core there, which is in the copy (R215). -/
def targetWaits (s : State) (o : Obj) (id t : Nat) : State × Bool :=
  match lookEntry s o t with
  | .error _ => (s, false)
  | .ok e =>
    if eAct e.2.2 ≠ 4 then (s, false)
    else match checkAddr s o.ctx o.die (o.word0 s / 65536) (Need.plainRead 128) s.fresh with
      | .ok pa l =>
        let s := startClear s l.uns pa
        (s, clearingAt s pa || (match o.via with
          | some c => s.reqs.any (fun r => !r.held && decide (r.id < id) && r.core == c && overlap r.pa r.size pa 128)
          | none => false))
      | _ => (s, false)

/-- Whether an engine's transition must wait at its home slice, as a request of its own. -/
def engineWaits (s : State) (o : Obj) (t : Nat) : State × Bool :=
  let r := targetWaits s o s.fresh t
  (r.1, r.2 || objectWaits r.1 r.1.fresh o.pa)

/-- Whether an entry makes its transition a release: its REL counts where the transition is performed (R210, R213). -/
def eReleases (e : Nat) : Bool := eRel e && eAct e != 1 && eAct e != 2

/-! ### The park table (R214) -/

/-- The park-table entry of a group on an object. -/
def ParkEnt.isFor (e : ParkEnt) (pa w k : Nat) : Bool := e.pa == some pa && e.wg == w && e.grp == k

/-- Reserve a place in a core's park table for lanes of a group that name an object; none when the table is full (R214). -/
def reservePark (s : State) (w pa : Nat) (ts : List Nat) : Option State :=
  let g := getWg s w
  let k := grpOf (ts.headD 0)
  let es := (getCore s g.core).parks
  if es.any (fun e => e.isFor pa w k) then
    some (modCore s g.core (fun c => { c with parks := c.parks.map (fun e =>
      if e.isFor pa w k then { e with wait := e.wait ++ ts } else e) }))
  else if es.length < 256 then
    some (modCore s g.core (fun c => { c with parks := c.parks ++
      [{ pa := some pa, ctx := g.ctx, wg := w, grp := k, mask := [], wait := ts }] }))
  else none

/-- Change the park entry of group k's threads on an object: those of `ts` no longer await an answer, and `sleep` says whether they
sleep in it, or in one recorded against the spill ring (R214, R215). Where only some lanes of an entry go to the ring, they get an entry of
their own, with which the table may hold more than 256: the spec does not say (log 116). -/
def settlePark (s : State) (w k pa : Nat) (ts : List Nat) (sleep ring : Bool) : State :=
  let g := getWg s w
  modCore s g.core (fun c => { c with parks := (c.parks.flatMap (fun e =>
    if e.isFor pa w k then
      let left := e.wait.filter (fun t => !ts.contains t && (getTh g t).live)
      let stay : ParkEnt := { e with wait := left, mask := if sleep && !ring then e.mask ++ ts else e.mask }
      (if stay.wait.isEmpty && stay.mask.isEmpty then [] else [stay])
        ++ (if ring && !ts.isEmpty then [{ e with pa := none, wait := [], mask := ts }] else [])
    else [e])) })

/-- The threads of a workgroup that hold a token. -/
def tokThreads (s : State) (w tok : Nat) : List Nat :=
  (rangeFrom 0 (getWg s w).threads.length).filter (fun t => (thOf s w t).live && (thOf s w t).pend.any (fun p => p.tok == tok))

/-- A lane's own state is again what it was at its `stx`: no instruction after the faulting one has an effect (18 R299). -/
def Thread.restoreRegs (th : Thread) (r : LaneRegs) : Thread :=
  { th with v := r.v, badv := r.badv, preds := r.preds, fflags := r.fflags, frm := r.frm, gbase := r.gbase, gpc := r.gpc, gpcb := r.gpcb
            gop := r.gop, inGuest := r.inGuest, meet := r.meet, irs := r.irs, moves := r.moves, th := r.th, tarr := r.tarr
            arrived := r.arrived, oneShot := r.oneShot }

/-- The asynchronous traps that are pending in a lane, with one that it has found and not entered: an untaken one stays pending (18 R303). -/
def Thread.pendingAsync (th : Thread) : List (Nat × DWord) :=
  match th.due with
  | some (c, i, _) => if (c = 0x0F ∨ c = 0x10) ∧ !th.async.any (fun a => a.1 == c) then th.async ++ [(c, i)] else th.async
  | Option.none => th.async

/-- A thread goes back to its `stx`: what its window has not performed is discarded (R214). -/
def Thread.rewind (th : Thread) (tok : Nat) : Thread :=
  let p := ((th.pend.find? (fun p => p.tok == tok)).bind Pend.origin).getD th.pos
  { th.goPos p with pend := [], due := Option.none, async := th.pendingAsync, wait := .none, gather := Option.none }

/-- A thread whose `stx` faults: it stands at the `stx` with its registers of then (18 R299). -/
def Thread.rewindFault (th : Thread) (tok : Nat) : Thread :=
  match (th.pend.find? (fun p => p.tok == tok)).bind Pend.snap with
  | some r => (th.restoreRegs r).rewind tok
  | Option.none => th.rewind tok

/-- The uniform registers that a lane has written in the window of an `stx` that is answered otherwise than by a fault stay written. -/
def confirmUndo (s : State) (w t tok : Nat) : State :=
  let ns := ((thOf s w t).pend.filter (fun p => p.tok == tok)).flatMap (fun p => p.undo.map Undo.num)
  if ns.isEmpty then s
  else (rangeFrom (32 * grpOf t) 32).foldl (fun s u => modTh s w u (fun th => { th with
    pend := th.pend.map (fun p => { p with undo := p.undo.filter (fun x => !ns.contains x.num) }) })) s

/-- The uniform registers that the lane has written in the window of an `stx` that faults get back what they held, latest first, when no other
lane that wrote them with it still has its own `stx` before it (18 R299). -/
def takeBack (s : State) (w t tok : Nat) : State :=
  let us := ((thOf s w t).pend.filter (fun p => p.tok == tok)).flatMap Pend.undo
  us.foldl (fun s x =>
    if ((rangeFrom (32 * grpOf t) 32).filter (· != t)).any (fun u => (thOf s w u).pend.any (fun p => p.undo.any (fun y => y.num == x.num))) then s
    else modWg s w (fun g => g.modGroup (grpOf t) (fun gr => { gr with
      u := SMap.set 0 gr.u x.reg x.was, badu := match x.bad with | some a => SMap.put gr.badu x.reg a | none => SMap.del gr.badu x.reg }))) s

/-- The answer of a transition to the lanes of group k that issued it (R213 to R216, R218). -/
def answerThread (s : State) (w k tok pa : Nat) (r : TOut) : State :=
  let ts := tokThreads s w tok
  let kept (s : State) : State := ts.foldl (fun s t => confirmUndo s w t tok) s
  let back (s : State) (wt : Wait) : State :=
    ts.foldl (fun s t => modTh s w t (fun th => { th.rewind tok with wait := wt })) (kept s)
  match r with
  | .done status old =>
    settlePark (answerTok (kept s) w tok false (fun src => match src with
      | .req _ _ d c => regWrites d [status] ++ (match old with | some x => tyWrites c .b64 x.toNat | none => [])
      | _ => [])) w k pa ts false false
  | .bad => settlePark (answerTok (kept s) w tok true (fun src => match src with
      | .req _ _ d _ => regWrites d [0]
      | _ => [])) w k pa ts false false
  | .park => settlePark (back s (.park pa)) w k pa ts true false
  | .full => settlePark (back s .ring) w k pa ts true true
  | .fault a i => settlePark (ts.foldl (fun s t =>
      enterTrap (endEarly (modTh (takeBack s w t tok) w t (fun th => th.rewindFault tok)) w t true) w t 0x08 i a) s) w k pa ts false false
  | .chain _ _ _ _ _ _ => s

/-! ### The instructions (R219 to R224) -/

/-- The lanes of a list whose addresses another lane of it names too, and the lowest such address (R219). -/
def sameObject (xs : List (Nat × Nat)) : Option (List Nat × Nat) :=
  let dup := xs.filter (fun x => xs.any (fun y => y.1 != x.1 && y.2 == x.2))
  match dup with
  | [] => none
  | d :: ds => some (dup.map Prod.fst, ds.foldl (fun m x => min m x.2) d.2)

/-- Trap 0x09 in every active lane (R219): the lanes are named by their number in the group. -/
def sameTrap (xs : List Nat) (va : Nat) : End :=
  .trap 0x09 (BitVec.ofNat 64 (laneMask (xs.map (fun t => t % 32)).eraseDups (fun _ => true))) (BitVec.ofNat 64 va)

/-- What holds an `stx`'s window instructions back, and to where it rewinds. -/
def stxPend (h : Hdr) (s : State) (w t tok id va : Nat) (d c : Opnd) (mw : MemW) : Pend :=
  let th := thOf s w t
  { Pend.start h tok (.req id .b32 d c) [] 0 with
    closeTo := some (posAfter s (getWg s w) th), origin := some th.pos, acq := mw.ss, bad := some (BitVec.ofNat 64 va) }

/-- Send one transition for some lanes that share a token, once their core has a park-table place; the lanes in `all` wait for its
answer. -/
def sendStx (h : Hdr) (s : State) (w va pa : Nat) (l : Leaf) (sub : BitVec 4) (x : DWord) (d c : Opnd) (mw : MemW)
    (all : List Nat) : State :=
  let g := getWg s w
  match reservePark s w pa all with
  | none => all.foldl (fun s t => finish s w t false (.stay .parkRetry)) s
  | some s =>
    let tok := s.fresh
    let r : Req := { id := tok, stamp := tok, origin := .thread w (all.headD 0) tok, who := all, wg := w, core := g.core, ctx := g.ctx
                     part := g.part, die := dieOf g.core, pa := pa, ret := true, prop := l.prop, vgran := va / 65536
                     kind := .trans sub.toNat x (BitVec.ofNat 64 va), size := 16, scope := mw.scope.toNat, ss := mw.ss, held := false
                     after := (all.flatMap (fun t => (getTh g t).afterOf (kindBit pa))).eraseDups
                     behind := all.flatMap (fun t => behindOf s w t (kindBit pa)) }
    let s := { s with reqs := s.reqs ++ [r] }.bump
    all.foldl (fun s t => finish (addPend s w t (stxPend h s w t tok tok va d c mw)) w t false .adv) s

/-- `stx` in the lanes of a bundle (R221). -/
def stxLanes (h : Hdr) (mod : BitVec 3) (sub : BitVec 4) (d a b c : Opnd) (mw : MemW) (ofs : Int) (s : State) : State :=
  let w := s.bundle.wg
  let act := s.bundle.lanes.filter (fun t => activeIn h false (thOf s w t))
  let s := (s.bundle.lanes.filter (fun t => !act.contains t)).foldl (fun s t => finish s w t true .adv) s
  let va (t : Nat) : Nat := vaOf (getWg s w) t a b mod ofs
  match sameObject (act.map (fun t => (t, va t))) with
  | some (ds, low) => act.foldl (fun s t => finish s w t false (sameTrap ds low)) s
  | none =>
    act.foldl (fun s t =>
      let g := getWg s w
      match access s w (va t) (stagedNeed true true mw.ss) with
      | (s, .error e) => finish s w t false e
      | (s, .ok (pa, l)) => sendStx h s w (va t) pa l sub (BitVec.ofNat 64 (readTy g t .b64 c 0)) d c mw [t]) s

/-- `stx` with a uniform destination: one transition for each group, whose outcome every lane of the group in the bundle shares
(R221, 06 R100). -/
def stxGroups (h : Hdr) (mod : BitVec 3) (sub : BitVec 4) (d a b c : Opnd) (mw : MemW) (ofs : Int) (s : State) : State :=
  let w := s.bundle.wg
  (groupsOf s.bundle.lanes).foldl (fun s k =>
    let ls := s.bundle.lanes.filter (fun t => grpOf t == k)
    let al := ls.filter (fun t => activeIn h false (thOf s w t))
    match al with
    | [] => ls.foldl (fun s t => finish s w t true .adv) s
    | t :: _ =>
      let g := getWg s w
      let va := vaOf g t a b mod ofs
      match access s w va (stagedNeed true true mw.ss) with
      | (s, .error e) => ls.foldl (fun s u => finish s w u false e) s
      | (s, .ok (pa, l)) => sendStx h s w va pa l sub (BitVec.ofNat 64 (readTy g t .b64 c 0)) d c mw ls) s

/-- `stx` (R221). -/
def execStx (h : Hdr) (mod : BitVec 3) (sub : BitVec 4) (d a b c : Opnd) (mw : MemW) (ofs10 : BitVec 10) (s : State) :
    Host.Outcome State Fault Refusal :=
  .next (if isUni d then stxGroups h mod sub d a b c mw ofs10.toInt s else stxLanes h mod sub d a b c mw ofs10.toInt s)

/-- `stinit` of one lane's object: both words written, and its waiters woken (R222). -/
def stinitLane (s : State) (w t va : Nat) (w0 w1 : Nat) (mw : MemW) : State × End :=
  let g := getWg s w
  let cls := bits w0 7 4
  if !bit g.hdr.stcls cls then (s, .trap 0x08 (stagedInfo false 0x09 cls 0 0 0 0) (BitVec.ofNat 64 va))
  else match access s w va (stagedNeed false true mw.ss) with
    | (s, .error e) => (s, e)
    | (s, .ok (pa, l)) =>
      let r := if isRel mw then tryRelease s w [t] [t] (drainMask mw.scope.toNat mw.ss) mw.ss else (s, true)
      if !r.2 || objectWaits r.1 r.1.fresh pa then (r.1, .stay .drain)
      else
        let o : Obj := { ctx := g.ctx, part := g.part, die := dieOf g.core, pa := pa, va := va, prop := l.prop, via := some g.core }
        let parked := bit (o.word0 r.1) 8
        let s := o.write (if isRel mw then flushHost r.1 g.part mw.scope.toNat mw.ss else r.1) (w0 / 65536 * 65536 + w0 % 256) w1
        (if parked then sendWakes s g.part (some pa) g.ctx else s, .adv)

/-- `stinit` (R222). -/
def execStinit (h : Hdr) (mod : BitVec 3) (d a b c : Opnd) (mw : MemW) (ofs10 : BitVec 10) (s : State) :
    Host.Outcome State Fault Refusal :=
  let va (g : Wg) (t : Nat) : Nat := vaOf g t a b mod ofs10.toInt
  .next (
    let w := s.bundle.wg
    let act := s.bundle.lanes.filter (fun t => activeIn h false (thOf s w t))
    match sameObject (act.map (fun t => (t, va (getWg s w) t))) with
    | some (ds, low) => perLane h false true (fun s _ _ => (s, sameTrap ds low)) s
    | none => perLane h false true (fun s w t =>
        let g := getWg s w
        stinitLane s w t (va g t) (readTy g t .b64 d 0) (readTy g t .b64 c 0) mw) s)

/-- `stqry` (R223). -/
def execStqry (h : Hdr) (mod : BitVec 3) (sub : BitVec 4) (d a b : Opnd) (mw : MemW) (ofs : BitVec 20) (s : State) :
    Host.Outcome State Fault Refusal :=
  let va (g : Wg) (t : Nat) : Nat := vaOf g t a b mod ofs.toInt
  .next (execLoad h d (fun s w t =>
    let x := va (getWg s w) t
    match access s w x (stagedNeed true false mw.ss) with
    | (s, .error e) => (s, .error e)
    | (s, .ok (pa, _)) => (s, .ok { Pend.start h s.fresh (.load (pa + 8 * sub.toNat) .b64 d false) [] 0 with
        acq := if isAcq mw then mw.ss else 0, bad := some (BitVec.ofNat 64 x) })) s)

/-- The first entry of an image that fails its check, as state, transition and entry (R211). -/
def badEntry (n : Nat) (ent : Nat → Nat) : Option (Nat × Nat × Nat) :=
  (rangeFrom 0 256).findSome? (fun k =>
    let e := ent k
    if (k / 16 ≥ n ∧ e ≠ 0) ∨ (k / 16 < n ∧ (eNext e ≥ n ∨ eAct e ≥ 6)) then some (k / 16, k % 16, e) else none)

/-- The table of a checked image. -/
def tableOf (n : Nat) (ent : Nat → Nat) : STable :=
  { n := n, ent := (rangeFrom 0 256).foldl (fun m k => SMap.set 0 m k (BitVec.ofNat 16 (ent k))) [] }

/-- What `stload` needs of the image's pages. -/
def imageNeed : Need := { align := 16, rd := true, wr := false, ss := 0b1111 }

/-- `stload` in a group (R224). Where the page of its second part fails a check, %taddr is the address of the image plus 512 (log 33). -/
def stloadGroup (s : State) (w : Nat) (al : List Nat) (scope cls : Nat) (a : Opnd) : State × End :=
  let g := getWg s w
  let va := (readPair g (al.headD 0) a).toNat
  if !bit g.hdr.stcls cls then (s, .trap 0x08 (stagedInfo false 0x09 cls 0 0 0 0) 0)
  else match access s w va imageNeed with
    | (s, .error e) => (s, e)
    | (s, .ok (pa, l)) =>
      match access s w (va + 512) imageNeed with
      | (s, .error e) => (s, e)
      | (s, .ok (pa2, _)) =>
        let r := tryRelease s w al al (drainMask scope 0b1111) 0b1111
        let at' (k : Nat) : Nat := if va % l.size + k < l.size then pa + k else pa2 + k - 512
        if !r.2 || clearingAt r.1 pa || clearingAt r.1 pa2 then (r.1, .stay .drain)
        else
          let cut := min 528 (l.size - va % l.size)
          let s := sendCombsAt (sendCombsAt r.1 (clusterOf g.core) pa cut) (clusterOf g.core) (pa2 + cut - 512) (528 - cut)
          let s := flushHost (coreMeets (coreMeets s g.core g.part pa cut) g.core g.part (pa2 + cut - 512) (528 - cut)) g.part scope 0b1111
          let byte (k : Nat) : Nat := (coreByte s g.core (at' k)).toNat
          let ent (k : Nat) : Nat := byte (16 + 2 * k) + 256 * byte (17 + 2 * k)
          let n := byte 0
          if (rangeFrom 0 528).any (fun k => coreBad s g.core (at' k) 1) then (s, .trap 0x15 0 (BitVec.ofNat 64 va))
          else if n = 0 ∨ n > 16 ∨ (rangeFrom 1 15).any (fun k => byte k != 0) then
            (s, .trap 0x08 (stagedInfo false 0x08 cls 0 0 0 0) 0)
          else match badEntry n ent with
            | some (st, t, e) => (s, .trap 0x08 (stagedInfo false 0x07 cls st t 0 e) 0)
            | none => (modCtx s g.ctx (fun c => { c with classes := SMap.put c.classes cls (tableOf n ent) }), .adv)

/-- `stload` (R224). -/
def execStload (h : Hdr) (mod : BitVec 3) (sub : BitVec 4) (a : Opnd) (s : State) : Host.Outcome State Fault Refusal :=
  .next (perGroup h false false (fun s w al => stloadGroup s w al mod.toNat sub.toNat a) s)

end Sys2Proof.Machine
end

