-- ==== Sys2Proof/Machine/Barriers.lean ====
section
/-!
DEFINITION. Barriers.lean: named barriers and queues (14 R229 to R236).
-/
namespace Sys2Proof.Machine

/-- A barrier as it is at placement (14 R229). -/
def Barrier.fresh (g : Nat) : Barrier :=
  { ph := false, g := g, arr := 0, e := 0, wait := 0, flt := false, lf := false
    frec := { taddr := 0, tinfo := 0, cause := 0x0D }, held := [] }

/-- A queue as it is at placement (14 R235). -/
def Queue.fresh : Queue := { depth := 0, fifo := [], allow := [], pushW := [], popW := [] }

/-- Barrier n of a workgroup. -/
def getBar (g : Wg) (n : Nat) : Barrier := g.bars.getD n (Barrier.fresh 1)
/-- Change barrier n of workgroup w. -/
def modBar (s : State) (w n : Nat) (f : Barrier → Barrier) : State := modWg s w (fun g => { g with bars := modAt g.bars n f })
/-- Queue n of a workgroup. -/
def getQueue (g : Wg) (n : Nat) : Queue := g.queues.getD n Queue.fresh
/-- Change queue n of workgroup w. -/
def modQueue (s : State) (w n : Nat) (f : Queue → Queue) : State :=
  modWg s w (fun g => { g with queues := modAt g.queues n f })

/-- The number of ones of a bitmap of groups. -/
def onesOf (x : BitVec 16) : Nat := ((rangeFrom 0 16).filter (fun k => x.getLsbD k)).length

/-- Trap 0x0E (14 R234). -/
def misuse (kind n reason : Nat) : End := .trap 0x0E (BitVec.ofNat 64 (kind * 65536 + n % 256 * 256 + reason)) 0

/-! ### The end of a wait -/

/-- A thread whose wait the unit has ended goes on; a region-closing instruction moves %irs (18 R305). -/
def endWait (s : State) (w t : Nat) (closes : Bool) : State :=
  let g := getWg s w
  modTh s w t (fun th =>
    let th := th.advance (seqLen s g th.seqM)
    let th := { th with wait := .none, relAt := none }
    if closes then th.setIrs th.pos else th)

/-- The live threads of a group whose wait passes a test. -/
def waiters (g : Wg) (k : Nat) (f : Wait → Bool) : List Nat := (liveOf g k).filter (fun t => f (getTh g t).wait)

/-- The trap of a wait that ends on a phase with a fault (14 R233, 22 R372). -/
def Barrier.faultEnd (b : Barrier) : End := .trap b.frec.cause b.frec.tinfo b.frec.taddr

/-- Whether a thread waits at barrier n. -/
def Wait.atBar (n : Nat) : Wait → Bool
  | .barrier m _ => m == n
  | _ => false

/-- The wait of group k at barrier n ends: a trap in every live lane where LF is 1, else its threads go on. A `bsync` closes its
region. -/
def endBarrier (s : State) (w n k : Nat) : State :=
  let g := getWg s w
  let b := getBar g n
  (waiters g k (Wait.atBar n)).foldl (fun s t =>
    let sync := (thOf s w t).wait == .barrier n true
    if b.lf then trapNow (modTh s w t (fun th => { th with wait := .none })) w t b.frec.cause b.frec.tinfo b.frec.taddr
    else if sync then endWait (modTh s w t (fun th => { th with arrived := none })) w t true
    else endWait s w t false) s

/-! ### Phases (14 R230, R231) -/

/-- Whether a phase completes. -/
def Barrier.completes (b : Barrier) : Bool := decide (onesOf b.arr ≥ b.g) && b.e == 0

/-- The completion test: a phase that meets the condition completes, and its waiting groups wake (14 R231). -/
def completePhase (s : State) (w n : Nat) : State :=
  let b := getBar (getWg s w) n
  if b.completes then
    let s := modBar s w n (fun b => { b with ph := !b.ph, lf := b.flt, arr := 0, flt := false, wait := 0 })
    ((rangeFrom 0 16).filter (fun k => b.wait.getLsbD k)).foldl (fun s k => endBarrier s w n k) s
  else s

/-- %merr after an error (15 R262). -/
def merrAfter (merr : Word) (e : DWord) (room : Bool) : Word :=
  let k := bits e.toNat 63 61
  let flag : Word := if k ≤ 1 then 1 else if k ≤ 3 then 2 else 4
  (merr ||| flag) + (if room then 16 else 0) ||| (if room then 0 else 128)

/-- An error shows: %merr, and an entry while the log has room (15 R262, R263). -/
def Anvil.note (x : Anvil) (e : DWord) : Anvil :=
  let room := decide (x.log.length < 4)
  { x with merr := merrAfter x.merr e room, log := if room then x.log ++ [e] else x.log }

/-- An array instruction is complete: its errors show and its place is free (15 R252, R262). -/
def Anvil.complete (x : Anvil) (num : Nat) : Anvil :=
  (x.queue.filter (fun j => j.num == num)).foldl (fun x j => j.errs.foldl Anvil.note x)
    { x with queue := x.queue.filter (fun j => j.num != num) }

/-- The command of an applied arrival is finished, and its record is free (14 R231, R245, 15 R252, 22 R366). -/
def freeSource (s : State) (w : Nat) : ArrSrc → State
  | .copy num => modWg s w (fun g => { g with copies := g.copies.filter (fun c => c.num != num) })
  | .anvil num => modWg s w (fun g => { g with anvil := g.anvil.map (fun a => a.complete num) })
  | .link num => { s with links := s.links.filter (fun l => l.num != num) }

/-- Apply an engine arrival (14 R231, R247). -/
def applyArrival (s : State) (w n : Nat) (a : ArrSrc × Option FRec) : State :=
  let s := modBar s w n (fun b => { b with
    e := b.e - 1
    flt := b.flt || a.2.isSome
    frec := match a.2 with | some r => if b.flt then b.frec else r | none => b.frec })
  completePhase (freeSource s w a.1) w n

/-- An engine arrives at barrier n: applied, or held where it would take E below -512 or others are held (14 R231). -/
def engineArrive (s : State) (w n : Nat) (src : ArrSrc) (f : Option FRec) : State :=
  let b := getBar (getWg s w) n
  if b.e - 1 < -512 ∨ !b.held.isEmpty then modBar s w n (fun b => { b with held := b.held ++ [(src, f)] })
  else applyArrival s w n (src, f)

/-- Apply the held arrivals that E admits, oldest first (14 R231). -/
def applyHeld (s : State) (w n : Nat) : List (ArrSrc × Option FRec) → State
  | [] => s
  | a :: as =>
    if (getBar (getWg s w) n).e - 1 < -512 then s
    else applyHeld (applyArrival (modBar s w n (fun b => { b with held := as })) w n a) w n as

/-! ### Channels and the waits on them (14 R237, R246) -/

/-- Channel c of a workgroup. -/
def getChan (g : Wg) (c : Nat) : Channel := g.chans.getD c { ip := 0, wp := 0, fault := none }
/-- Change a channel of workgroup w. -/
def modChan (s : State) (w c : Nat) (f : Channel → Channel) : State := modWg s w (fun g => { g with chans := modAt g.chans c f })

/-- Whether a pointer value has reached another (14 R237). -/
def reached (p t : Word) : Bool := decide (0 ≤ (p - t).toInt)

/-- The fault of a channel that a wait for t reports (14 R246). -/
def chanFault (g : Wg) (c : Nat) (t : Word) : Option FRec :=
  match (getChan g c).fault with
  | some f => if reached f.1 t then none else some f.2
  | none => none

/-- The end of a wait on channels, each with its target: the fault of the lowest channel that has one, whose record is cleared, or on (14 R246).
Where several channels have records, that only one is reported and cleared is the model's choice (log 119). -/
def chanEnd (s : State) (w : Nat) (cs : List (Nat × Word)) : State × End :=
  match cs.findSome? (fun c => (chanFault (getWg s w) c.1 c.2).map (fun f => (c.1, f))) with
  | some (c, f) => (modChan s w c (fun x => { x with fault := none }), .trap 0x0D f.tinfo f.taddr)
  | none => (s, .adv)

/-- The channels of a mask, with their issue pointers as targets. -/
def maskChans (g : Wg) (m : Nat) : List (Nat × Word) :=
  ((rangeFrom 0 4).filter (bit m)).map (fun c => (c, (getChan g c).ip))

/-- The channels a satisfied wait reports on; none while it is not satisfied. -/
def Wait.chans (g : Wg) : Wait → Option (List (Nat × Word))
  | .cpwait c t _ => if reached (getChan g c).wp t then some [(c, t)] else Option.none
  | .cpfence m js _ => if g.copies.any (fun c => js.contains c.num) then Option.none else some (maskChans g m)
  | _ => Option.none

/-- The threads of workgroup w whose waits on copies are satisfied go on, or trap, those of a bundle together, and the
bundles of a group one after the other, since the first takes the record (14 R246). -/
def streamWakes (s : State) (w : Nat) : State :=
  let g := getWg s w
  let ts := (rangeFrom 0 g.threads.length).filter (fun t => (getTh g t).live && ((getTh g t).wait.chans g).isSome)
  let key (t : Nat) : Nat × Word × Wait := (grpOf t, (getTh g t).pos, (getTh g t).wait)
  (ts.map key).eraseDups.foldl (fun s k =>
    let us := ts.filter (fun t => key t == k)
    let r := chanEnd s w ((k.2.2.chans g).getD [])
    us.foldl (fun s t => match r.2 with
      | .trap c i a => trapNow (modTh s w t (fun th => { th with wait := .none })) w t c i a
      | _ => endWait s w t false) r.1) s

/-! ### Barrier instructions (14 R233) -/

/-- A barrier instruction in its group: the first check, then its action. -/
def withBar (h : Hdr) (closes : Bool) (a : Opnd) (imm : Word) (act : State → Nat → List Nat → Nat → State × End) (s : State) : State :=
  perGroup h true closes (fun s w al =>
    let g := getWg s w
    let n := readTy g (al.headD 0) .n32 a imm
    if n ≥ g.hdr.bars then (s, misuse 0 n 1) else act s w al n) s

/-- The group of some threads as a bit of a bitmap. -/
def grpBit (al : List Nat) : BitVec 16 := 1#16 <<< grpOf (al.headD 0)

/-- `binit` (14 R233). -/
def execBinit (h : Hdr) (a b : Opnd) (imm : Word) (s : State) : Host.Outcome State Fault Refusal :=
  .next (withBar h false a imm (fun s w al n =>
    let g := getWg s w
    let k := readTy g (al.headD 0) .n32 b imm
    let x := getBar g n
    if k < 1 ∨ k > g.groups.length then (s, misuse 0 n 2)
    else if x.arr ≠ 0 ∨ x.e ≠ 0 ∨ x.wait ≠ 0 then (s, misuse 0 n 3)
    else (modBar s w n (fun x => { x with g := k }), .adv)) s)

/-- The arrival of a group, a release at core scope by its active lanes; none while the release waits (14 R233). -/
def arriveGroup (s : State) (w : Nat) (al : List Nat) (n : Nat) : State × Bool :=
  let r := tryRelease s w al al 0 0b1111
  (if r.2 then modBar r.1 w n (fun x => { x with arr := x.arr ||| grpBit al }) else r.1, r.2)

/-- `barrive` in a group, with what it writes. -/
def barriveAct (d : Opnd) (s : State) (w : Nat) (al : List Nat) (n : Nat) : State × End :=
  let x := getBar (getWg s w) n
  if x.arr &&& grpBit al ≠ 0 then (s, misuse 0 n 4)
  else
    let r := arriveGroup s w al n
    if !r.2 then (r.1, .stay .drain)
    else
      let s := modWg r.1 w (fun g => g.writeAll (al.headD 0) (regWrites d [BitVec.ofNat 32 (b2n x.ph)]))
      (completePhase s w n, .adv)

/-- `barrive` (14 R233). -/
def execBarrive (h : Hdr) (a : Opnd) (imm : Word) (s : State) : Host.Outcome State Fault Refusal :=
  .next (withBar h true a imm (barriveAct (.imm 0)) s)

/-- `barrive.ph` (14 R233). -/
def execBarrivePh (h : Hdr) (d a : Opnd) (imm : Word) (s : State) : Host.Outcome State Fault Refusal :=
  .next (withBar h true a imm (barriveAct d) s)

/-- Wait at a barrier for the phase of a parity (14 R233). -/
def waitBar (s : State) (w : Nat) (al : List Nat) (n : Nat) (p sync : Bool) : State × End :=
  let x := getBar (getWg s w) n
  if x.ph != p then (s, if x.lf then x.faultEnd else .adv)
  else (modBar s w n (fun x => { x with wait := x.wait ||| grpBit al }), .rest (.barrier n sync))

/-- `bwait` (14 R233). -/
def execBwait (h : Hdr) (a b : Opnd) (imm : Word) (s : State) : Host.Outcome State Fault Refusal :=
  .next (withBar h false a imm (fun s w al n =>
    waitBar s w al n (bit (readTy (getWg s w) (al.headD 0) .n32 b imm) 0) false) s)

/-- `bsync`: the arrival, unless it has been made (18 R301), then the wait on the parity it arrived in (14 R233). -/
def execBsync (h : Hdr) (a : Opnd) (imm : Word) (s : State) : Host.Outcome State Fault Refusal :=
  .next (withBar h true a imm (fun s w al n =>
    let g := getWg s w
    let x := getBar g n
    let ls := laneGroup s (grpOf (al.headD 0))
    let leave (r : State × End) : State × End := match r.2 with
      | .adv => (ls.foldl (fun s t => modTh s w t (fun th => { th with arrived := none })) r.1, .adv)
      | _ => r
    match (getTh g (ls.headD 0)).arrived with
    | some p => leave (waitBar s w al n p true)
    | none =>
      if x.arr &&& grpBit al ≠ 0 then (s, misuse 0 n 4)
      else
        let r := arriveGroup s w al n
        if !r.2 then (r.1, .stay .drain)
        else
          let s := ls.foldl (fun s t => modTh s w t (fun th => { th with arrived := some x.ph })) r.1
          leave (waitBar (completePhase s w n) w al n x.ph true)) s)

/-- `bexpect` (14 R233). -/
def execBexpect (h : Hdr) (a b : Opnd) (imm : Word) (s : State) : Host.Outcome State Fault Refusal :=
  .next (withBar h true a imm (fun s w al n =>
    let g := getWg s w
    let x := getBar g n
    let k := sext 32 (readTy g (al.headD 0) .n32 b imm)
    if x.e + k < -512 ∨ x.e + k > 511 then (s, misuse 0 n 5)
    else
      let s := completePhase (modBar s w n (fun x => { x with e := x.e + k })) w n
      let s := applyHeld s w n (getBar (getWg s w) n).held
      (streamWakes s w, .adv)) s)

/-- The word of `bqry` (14 R233). -/
def bqryWord (x : Barrier) : Nat :=
  b2n x.ph * 2 ^ 31 + b2n x.flt * 2 ^ 30 + (x.g - 1) * 2 ^ 26 + wrap 10 x.e * 2 ^ 16 + x.arr.toNat

/-- `bqry` (14 R233). -/
def execBqry (h : Hdr) (d a : Opnd) (imm : Word) (s : State) : Host.Outcome State Fault Refusal :=
  .next (withBar h false a imm (fun s w al n =>
    let v := BitVec.ofNat 32 (bqryWord (getBar (getWg s w) n))
    (modWg s w (fun g => (if isUni d then al.take 1 else al).foldl (fun g t => g.writeAll t (regWrites d [v])) g), .adv)) s)

/-! ### Queues (14 R235, R236) -/

/-- A queue instruction in its group: the first check, then its action. -/
def withQueue (h : Hdr) (helpers closes : Bool) (a : Opnd) (imm : Word) (act : State → Nat → List Nat → Nat → State × End)
    (s : State) : State :=
  perGroup h helpers closes (fun s w al =>
    let g := getWg s w
    let n := readTy g (al.headD 0) .n32 a imm
    if n ≥ g.hdr.queues then (s, misuse 1 n 1) else act s w al n) s

/-- A group's allowance. -/
def Queue.allowOf (q : Queue) (k : Nat) : Nat := SMap.get 0 q.allow k

/-- Set a group's allowance. -/
def Queue.setAllow (q : Queue) (k n : Nat) : Queue := { q with allow := SMap.set 0 q.allow k n }

/-- The sum of the allowances. -/
def Queue.allowSum (q : Queue) : Nat := q.allow.foldl (fun n e => n + e.2) 0

/-- The groups that wait to push and have an allowance try their `qpush` again, and wait no longer (14 R236). -/
def wakePushers (s : State) (w n : Nat) : State :=
  let g := getWg s w
  let q := getQueue g n
  (q.pushW.filter (fun k => q.allowOf k > 0)).foldl (fun s k =>
    (waiters g k (fun x => match x with | .push m _ => m == n | _ => false)).foldl (fun s t =>
      modTh s w t (fun th => { th with wait := .none })) s)
    (modQueue s w n (fun q => { q with pushW := q.pushW.filter (fun k => q.allowOf k = 0) }))

/-- The head entry of a queue is removed, and its pusher's allowance rises (14 R236). -/
def takeHead (s : State) (w n : Nat) : State × Option DWord :=
  match (getQueue (getWg s w) n).fifo with
  | [] => (s, none)
  | (h, p) :: rest =>
    (wakePushers (modQueue s w n (fun q => { q.setAllow p (q.allowOf p + 1) with fifo := rest })) w n, some h)

/-- The destination of a group that waits to pop. -/
def popDest (g : Wg) (k n : Nat) : Opnd :=
  ((waiters g k (fun x => match x with | .pop m _ => m == n | _ => false)).findSome? (fun t =>
    match (getTh g t).wait with | .pop _ d => some d | _ => none)).getD (.imm 0)

/-- The first group that waits to pop takes the head entry, when there is one (14 R236); in a cut none does (18 R308 step 2). -/
def servePop (s : State) (w n : Nat) : State :=
  let g := getWg s w
  match (if g.status == .cutting then [] else (getQueue g n).popW), (getQueue g n).fifo with
  | k :: ks, _ :: _ =>
    let d := popDest g k n
    let ts := waiters g k (fun x => match x with | .pop m _ => m == n | _ => false)
    let s := modQueue s w n (fun q => { q with popW := ks })
    match takeHead s w n with
    | (s, some h) =>
      let s := modWg s w (fun g => g.writeAll (32 * k) (tyWrites d .n64 h.toNat))
      ts.foldl (fun s t => endWait s w t true) s
    | (s, none) => s
  | _, _ => s

/-- `qinit` (14 R236). -/
def execQinit (h : Hdr) (a b : Opnd) (imm : Word) (s : State) : Host.Outcome State Fault Refusal :=
  .next (withQueue h true false a imm (fun s w al n =>
    let g := getWg s w
    let k := readTy g (al.headD 0) .n32 b imm
    let q := getQueue g n
    if k < 1 ∨ k > 64 then (s, misuse 1 n 8)
    else if !q.fifo.isEmpty || !q.pushW.isEmpty || !q.popW.isEmpty then (s, misuse 1 n 7)
    else (modQueue s w n (fun q => { q with depth := k, allow := [] }), .adv)) s)

/-- `qallow` (14 R236). -/
def execQallow (h : Hdr) (a b c : Opnd) (s : State) : Host.Outcome State Fault Refusal :=
  .next (withQueue h true false a 0 (fun s w al n =>
    let g := getWg s w
    let q := getQueue g n
    let k := readTy g (al.headD 0) .n32 b 0
    let x := readTy g (al.headD 0) .n32 c 0
    if q.depth = 0 then (s, misuse 1 n 6)
    else if k ≥ g.groups.length ∨ x > 64 ∨ (q.setAllow k x).allowSum + q.fifo.length > q.depth then (s, misuse 1 n 9)
    else (wakePushers (modQueue s w n (fun q => q.setAllow k x)) w n, .adv)) s)

/-- `qpush` (14 R236). -/
def execQpush (h : Hdr) (a b : Opnd) (imm : Word) (s : State) : Host.Outcome State Fault Refusal :=
  .next (withQueue h false true a imm (fun s w al n =>
    let g := getWg s w
    let q := getQueue g n
    let k := grpOf (al.headD 0)
    let x := readPair g (al.headD 0) b
    if q.depth = 0 then (s, misuse 1 n 6)
    else if x = 0 then (s, misuse 1 n 10)
    else if q.allowOf k = 0 then
      (modQueue s w n (fun q => { q with pushW := q.pushW.filter (· != k) ++ [k] }), .stay (.push n x))
    else
      let r := tryRelease s w al al 0 0b1111
      if !r.2 then (r.1, .stay .drain)
      else
        let s := modQueue r.1 w n (fun q => { q.setAllow k (q.allowOf k - 1) with
          fifo := q.fifo ++ [(x, k)], pushW := q.pushW.filter (· != k) })
        (servePop s w n, .adv)) s)

/-- %irs of a lane moves past a closing instruction it is leaving (18 R305). -/
def closeLanes (s : State) (w : Nat) (ls : List Nat) : State :=
  ls.foldl (fun s t => modTh s w t (fun th => th.setIrs (posAfter s (getWg s w) th))) s

/-- A pop by a group: the head entry; without one, a wait or the value 0 (14 R236). -/
def popAct (d : Opnd) (wait : Bool) (s : State) (w : Nat) (al : List Nat) (n : Nat) : State × End :=
  let q := getQueue (getWg s w) n
  let k := grpOf (al.headD 0)
  if q.depth = 0 then (s, misuse 1 n 6)
  else match takeHead s w n with
    | (s, some x) =>
      let s := modWg s w (fun g => g.writeAll (al.headD 0) (tyWrites d .n64 x.toNat))
      (if wait then s else closeLanes s w (laneGroup s k), .adv)
    | (s, none) =>
      if wait then (modQueue s w n (fun q => { q with popW := q.popW.filter (· != k) ++ [k] }), .rest (.pop n d))
      else (modWg s w (fun g => g.writeAll (al.headD 0) (tyWrites d .n64 0)), .adv)

/-- `qpop` (14 R236). -/
def execQpop (h : Hdr) (d a : Opnd) (imm : Word) (s : State) : Host.Outcome State Fault Refusal :=
  .next (withQueue h false true a imm (popAct d true) s)

/-- `qtry` (14 R236): it closes its region only when it returns an entry. -/
def execQtry (h : Hdr) (d a : Opnd) (imm : Word) (s : State) : Host.Outcome State Fault Refusal :=
  .next (withQueue h false false a imm (popAct d false) s)

/-- Registrations of groups whose threads no longer wait are taken back (18 R301, R310). -/
def dropWaits (s : State) (w : Nat) : State :=
  modWg s w (fun g => { g with
    bars := g.bars.mapIdx (fun n b => { b with wait := (rangeFrom 0 16).foldl (fun x k =>
      if b.wait.getLsbD k && !(waiters g k (Wait.atBar n)).isEmpty then x ||| (1#16 <<< k) else x) 0 })
    queues := g.queues.mapIdx (fun n q => { q with
      pushW := q.pushW.filter (fun k => !(waiters g k (fun x => match x with | .push m _ => m == n | _ => false)).isEmpty)
      popW := q.popW.filter (fun k => !(waiters g k (fun x => match x with | .pop m _ => m == n | _ => false)).isEmpty) }) })

end Sys2Proof.Machine
end

