-- ==== Sys2Proof/Machine/Streamer.lean ====
section
/-!
DEFINITION. Streamer.lean: region handles, copy records, and the streamer's instructions and events (14 R237 to R248, 18 R313).
-/
namespace Sys2Proof.Machine

/-! ### Regions (14 R238, R247) -/

/-- Fields of a region handle (14 R238). -/
def rhIdx (h : DWord) : Nat := bits h.toNat 63 44
def rhGen (h : DWord) : Nat := bits h.toNat 43 32
def rhOfs (h : DWord) : Nat := bits h.toNat 31 0

/-- Resolve n bytes at a displacement from a handle: the region and the physical address, or the reason of the fault (14 R247):
1 index, 2 generation, 3 range, 4 rights, 5 staged. `obj` is for a completion object, which lies in a staged region. -/
def resolve (c : Ctx) (h : DWord) (o : Int) (n : Nat) (wr obj : Bool) : Except Nat (Region × Nat) :=
  match SMap.find c.regions (rhIdx h) with
  | none => .error 1
  | some r =>
    let a := (rhOfs h : Int) + o
    if rhGen h = 0 ∨ rhGen h ≠ r.gen then .error 2
    else if a < 0 ∨ a + n > r.len then .error 3
    else if !obj && !(if wr then r.w else r.r) then .error 4
    else if r.staged != obj then .error 5
    else .ok (r, r.base + a.toNat)

/-- What a write into a region carries into the buffer (10 R173, R175, 22 R358). -/
def regionAttr (ctx part : Nat) (r : Region) (pa : Nat) : StoreAttr :=
  { ctx := ctx, part := part, prop := r.prop, vgran := Config.regionGranule ctx (pa / 65536)
    repl := (r.repl.filter (· != r.base)).map (fun b => b + (pa - r.base)) }

/-! ### Command blocks (14 R239 to R242) -/

/-- The 256 bits of a command block at s(n). -/
def commandBlock (g : Wg) (k n : Nat) : Nat :=
  leOf (fun i => BitVec.ofNat 8 (((getGroup g k).ru (n + i / 4)).toNat / 2 ^ (8 * (i % 4)))) 32

/-- Fields of CTL (14 R240). -/
def ctlScope (c : Nat) : Nat := bits c 31 29
def ctlRel (c : Nat) : Bool := bit c 28
def ctlTre (c : Nat) : Bool := bit c 26
def ctlTrans (c : Nat) : Nat := bits c 25 22
def ctlBare (c : Nat) : Bool := bit c 21
def ctlBar (c : Nat) : Nat := bits c 20 17
def ctlDstk (c : Nat) : Bool := bit c 16
def ctlSrck (c : Nat) : Bool := bit c 15
def ctlCh (c : Nat) : Nat := bits c 1 0

/-- Whether a plane tile is built, and with an exponent vector (14 R241). -/
def isPlane (kind : Nat) : Bool := decide (4 ≤ kind)
def isBx (kind : Nat) : Bool := decide (4 ≤ kind) && decide (kind ≤ 6)

/-- Magnitude bits of a block format, by KIND (03 R51). -/
def bxMag (kind : Nat) : Nat := if kind = 4 then 2 else if kind = 5 then 4 else 7

/-- Bytes of a plane tile, without its exponent vector (03 R54, R55). -/
def tileBytes (kind : Nat) : Nat :=
  if isBx kind then 256 * (bxMag kind + 1) + 128 else if kind = 7 then 2048 else 1024

/-- The dimension record at bits of a descriptor (14 R241). -/
def dimOf (x d : Nat) : Nat := x / 2 ^ (256 + 192 * d) % 2 ^ 192

/-- A dimension from its record. -/
def toDim (m : Nat) : Dim :=
  { dstr := sext 32 (m / 2 ^ 128), sstr := sext 32 (m / 2 ^ 96), soff := sext 32 (m / 2 ^ 64), sext := bits m 63 32
    dext := bits m 31 0 }

/-- The product of the destination extents. -/
def Desc.volume (d : Desc) : Nat := d.dims.foldl (fun n x => n * x.dext) 1

/-- The descriptor of 256 bytes, when it is well formed (14 R241). One whose elements come to more than 2^30 bytes is not: R241 states the limit
and no consequence, and that it is that of a malformed descriptor is the model's choice (log 120). -/
def toDesc (x : Nat) : Option Desc :=
  let rank := bits x 3 0
  let kind := bits x 7 4
  let recs := (rangeFrom 0 9).map (dimOf x)
  let d : Desc := { kind := kind, rank := rank, pad := BitVec.ofNat 32 (x / 2 ^ 32), auxs := BitVec.ofNat 64 (x / 2 ^ 64)
                    auxd := BitVec.ofNat 32 (x / 2 ^ 128), dims := (recs.take rank).map toDim }
  if x / 2 ^ 1984 ≠ 0 ∨ bits x 255 160 ≠ 0 ∨ bits x 31 8 ≠ 0 ∨ kind > 8 ∨ rank < 1 ∨ rank > 9 ∨ recs.any (· ≥ 2 ^ 160)
      ∨ (recs.drop rank).any (· ≠ 0) ∨ d.dims.any (fun y => y.dext < 1 ∨ y.dext > 2 ^ 30) then none
  else if isPlane kind ∧ (rank ≠ 1 ∨ d.dims.any (fun y => y.dstr ≠ 0 ∨ y.dext > 128)) then none
  else if !isBx kind ∧ (d.auxs ≠ 0 ∨ d.auxd ≠ 0) then none
  else if !isPlane kind ∧ d.volume * 2 ^ kind > 2 ^ 30 then none
  else some d

/-- The length of a tensor copy (14 R241, R242). -/
def Desc.length (d : Desc) : Nat :=
  if isBx d.kind then tileBytes d.kind + 128 else if isPlane d.kind then tileBytes d.kind else d.volume * 2 ^ d.kind

/-- The source lines of a plane copy: line and block (14 R242). -/
def Desc.lines (d : Desc) : List (Nat × Int) :=
  match d.dims with
  | x :: _ => (rangeFrom 0 x.dext).filterMap (fun (l : Nat) =>
      let j : Int := (l : Int) + x.soff
      if 0 ≤ j ∧ j < (x.sext : Int) then some (l, j * x.sstr) else none)
  | [] => []

/-- What a line reads of its source: whether of AUXS, displacement, bytes (14 R242, 03 R53). -/
def lineReads (kind : Nat) (b : Int) : List (Bool × Int × Nat) :=
  if isBx kind then
    let p := 2 * (bxMag kind + 1)
    [(true, 2 * b, 2), (false, p * b, p)]
  else [(false, b, if kind = 7 then 16 else 8)]

/-- The lowest and highest displacement of Σ i × stride for i from lo to hi in each dimension; none where a range is empty. -/
def span : List (Int × Int × Int) → Option (Int × Int)
  | [] => some (0, 0)
  | (lo, hi, st) :: ds =>
    if lo > hi then none
    else (span ds).map (fun r => (r.1 + min (lo * st) (hi * st), r.2 + max (lo * st) (hi * st)))

/-- The span of the source, and of the destination, of an element copy (14 R241). -/
def Desc.srcSpan (d : Desc) : Option (Int × Int) :=
  span (d.dims.map (fun x => (max 0 x.soff, min (x.sext : Int) (x.dext + x.soff) - 1, x.sstr)))
def Desc.dstSpan (d : Desc) : Option (Int × Int) := span (d.dims.map (fun x => (0, (x.dext : Int) - 1, x.dstr)))

/-- A command: the fields of a block. -/
structure Command where
  src : DWord
  dst : DWord
  len : Nat
  ctl : Nat
  cobj : DWord

/-- The command of a block (14 R239). -/
def toCommand (x : Nat) : Command :=
  { src := BitVec.ofNat 64 x, dst := BitVec.ofNat 64 (x / 2 ^ 64), len := bits x 159 128, ctl := bits x 191 160
    cobj := BitVec.ofNat 64 (x / 2 ^ 192) }

/-- Whether a command block is well formed (14 R239, R240). -/
def Command.ok (c : Command) (tensor : Bool) : Bool :=
  bits c.ctl 14 2 == 0 && decide (ctlScope c.ctl < 6)
    && (ctlSrck c.ctl || decide (c.src.toNat < 2 ^ 32)) && (ctlDstk c.ctl || decide (c.dst.toNat < 2 ^ 32))
    && (ctlTre c.ctl || c.cobj == 0)
    && (if tensor then c.len == 0 else c.len % 4 == 0 && decide (4 ≤ c.len) && decide (c.len ≤ 2 ^ 30))

/-- The values that must be aligned, each with its alignment, in the order in which they are checked (14 R240, R241). A stride is an i32 in the
64 bits of %taddr: that it is sign-extended is the model's choice (log 120). -/
def alignList (c : Command) (d : Option Desc) : List (DWord × Nat) :=
  (match d with
   | none => [(c.src, 4), (c.dst, 4)]
   | some d =>
     if isPlane d.kind then
       (c.dst, 256) :: (if isBx d.kind then [(d.auxd.setWidth 64, 128)] else [])
     else
       let z := 2 ^ d.kind
       (c.src, z) :: (c.dst, z) :: d.dims.flatMap (fun x => [(BitVec.ofInt 64 x.dstr, z), (BitVec.ofInt 64 x.sstr, z)]))
    ++ (if ctlTre c.ctl then [(c.cobj, 16)] else [])

/-- The scratchpad ranges of a copy: kind of the bounds trap, first address, bytes (14 R244). An AUXS with a nonzero upper half and SRCK 0 lies
outside the region, and is no malformed descriptor: the model's choice (log 120). -/
def padRanges (c : Command) (d : Option Desc) : List (Nat × Int × Nat) :=
  let rd (b : DWord) (o : Int) (n : Nat) : List (Nat × Int × Nat) := if ctlSrck c.ctl then [] else [(1, (b.toNat : Int) + o, n)]
  let wr (o : Int) (n : Nat) : List (Nat × Int × Nat) := if ctlDstk c.ctl then [] else [(2, (c.dst.toNat : Int) + o, n)]
  let sp (r : Option (Int × Int)) (z : Nat) (f : Int → Nat → List (Nat × Int × Nat)) : List (Nat × Int × Nat) :=
    match r with | some x => f x.1 ((x.2 - x.1).toNat + z) | none => []
  match d with
  | none => rd c.src 0 c.len ++ wr 0 c.len
  | some d =>
    if isPlane d.kind then
      d.lines.flatMap (fun l => (lineReads d.kind l.2).flatMap (fun r => rd (if r.1 then d.auxs else c.src) r.2.1 r.2.2))
        ++ wr 0 (tileBytes d.kind) ++ (if isBx d.kind then [(2, (d.auxd.toNat : Int), 128)] else [])
    else sp d.srcSpan (2 ^ d.kind) (rd c.src) ++ sp d.dstSpan (2 ^ d.kind) wr

/-! ### Issue (14 R243, R244) -/

/-- Trap 0x0C (14 R248). -/
def streamTrap (reason : Nat) : End := .trap 0x0C (BitVec.ofNat 64 reason) 0

/-- The bounds trap of a scratchpad operand of an engine (08 R144, 14 R244, 22 R367). -/
def engineBounds (kind : Nat) (a : Int) : End := .trap 0x0A (boundsInfo kind 0) (BitVec.ofInt 64 a)

/-- The first failing check of a command, after the producer check and the descriptor (14 R244). -/
def commandCheck (g : Wg) (c : Command) (d : Option Desc) : Option End :=
  if !c.ok d.isSome then some (streamTrap 2)
  else if ctlBare c.ctl ∧ ctlBar c.ctl ≥ g.hdr.bars then some (streamTrap 3)
  else match (alignList c d).find? (fun x => x.1.toNat % x.2 ≠ 0) with
    | some x => some (.trap 0x04 0 x.1)
    | none => ((padRanges c d).find? (fun x => decide (x.2.1 < 0) || decide (x.2.1 + (x.2.2 : Int) > (g.hdr.sdata : Int)))).map (fun x => engineBounds x.1 x.2.1)

/-- Whether one of the core's 64 copy records is free (14 R237). -/
def copyRecordFree (s : State) (core : Nat) : Bool :=
  decide ((s.wgs.filter (fun g => g.core == core && (g.status == .resident || g.status == .cutting))).foldl
    (fun n g => n + g.copies.length) 0 < 64)

/-- The number of the register of an operand. -/
def regNum : Opnd → Nat
  | .s n => n.toNat
  | .v n => n.toNat
  | _ => 0

/-- Issue a checked copy (14 R244): a record, the release of its lanes, the ticket, and its place in the channel. -/
def issueCopy (s : State) (w : Nat) (al : List Nat) (d : Opnd) (c : Command) (desc : Option Desc) : State × End :=
  if !copyRecordFree s (getWg s w).core then (s, .stay .copyRec)
  else
    let r := tryRelease s w al al 0 0b1111
    if !r.2 then (r.1, .stay .drain)
    else
      let len := match desc with | some x => x.length | none => c.len
      let ch := ctlCh c.ctl
      let tick := (getChan (getWg r.1 w) ch).ip + BitVec.ofNat 32 len
      let s := modChan r.1 w ch (fun x => { x with ip := tick })
      (modWg s w (fun g =>
        let cp : Copy := { num := g.copyNum, chan := ch, ticket := tick, len := len, ctl := BitVec.ofNat 32 c.ctl, src := c.src
                           dst := c.dst, cobj := c.cobj, desc := desc, chunk := 0, failed := none, relAt := 0
                           begun := false, moved := false, held := none }
        { g.writeAll (al.headD 0) (regWrites d [tick]) with copies := g.copies ++ [cp], copyNum := g.copyNum + 1 }), .adv)

/-- Whether a group is the producer (05 R87, 14 R244). -/
def isProducer (g : Wg) (k : Nat) : Bool := k == g.hdr.prodg && g.hdr.prodg != 0xFF

/-- `cpy` (14 R244). -/
def execCpy (h : Hdr) (d a : Opnd) (s : State) : Host.Outcome State Fault Refusal :=
  .next (perGroup h false true (fun s w al =>
    let g := getWg s w
    let k := grpOf (al.headD 0)
    let c := toCommand (commandBlock g k (regNum a))
    if !isProducer g k then (s, streamTrap 1)
    else match commandCheck g c none with
      | some e => (s, e)
      | none => issueCopy s w al d c none) s)

/-- `cpyt` (14 R244). -/
def execCpyt (h : Hdr) (d a b : Opnd) (imm : Word) (s : State) : Host.Outcome State Fault Refusal :=
  .next (perGroup h false true (fun s w al =>
    let g := getWg s w
    let k := grpOf (al.headD 0)
    let t := readTy g (al.headD 0) .n32 b imm
    if !isProducer g k then (s, streamTrap 1)
    else if t % 16 ≠ 0 then (s, .trap 0x04 0 (BitVec.ofNat 64 t))
    else if t + 256 > g.hdr.sdata then (s, boundsTrap 1 0 t)
    else match spBad g t 256 with
      | some x => (s, .trap 0x15 0 (BitVec.ofNat 64 x))
      | none => match toDesc (spRead g t 256) with
        | none => (s, streamTrap 4)
        | some desc =>
          let c := toCommand (commandBlock g k (regNum a))
          match commandCheck g c (some desc) with
          | some e => (s, e)
          | none => issueCopy s w al d c (some desc)) s)

/-! ### Pointers and waits (14 R237, R246) -/

/-- `cpwp` (14 R246). -/
def execCpwp (h : Hdr) (d a : Opnd) (imm : Word) (s : State) : Host.Outcome State Fault Refusal :=
  .next (perGroup h true false (fun s w al =>
    let g := getWg s w
    let c := readTy g (al.headD 0) .n32 a imm
    if c > 3 then (s, streamTrap 7)
    else (setWg s w ((if isUni d then al.take 1 else al).foldl (fun x t => x.writeAll t (regWrites d [(getChan g c).wp])) g), .adv)) s)

/-- `cpwait` (14 R246). -/
def execCpwait (h : Hdr) (a b : Opnd) (imm : Word) (s : State) : Host.Outcome State Fault Refusal :=
  .next (perGroup h true false (fun s w al =>
    let g := getWg s w
    let c := readTy g (al.headD 0) .n32 a imm
    let t := BitVec.ofNat 32 (readTy g (al.headD 0) .n32 b imm)
    if c > 3 then (s, streamTrap 7)
    else if !reached (getChan g c).ip t then (s, streamTrap 6)
    else match (Wait.cpwait c t 0).chans g with
      | some cs => chanEnd s w cs
      | none => (s.bump, .rest (.cpwait c t s.fresh))) s)

/-- `cpfence` (14 R246). -/
def execCpfence (h : Hdr) (a : Opnd) (imm : Word) (s : State) : Host.Outcome State Fault Refusal :=
  .next (perGroup h true false (fun s w al =>
    let g := getWg s w
    let m := readTy g (al.headD 0) .n32 a imm % 16
    let js := (g.copies.filter (fun c => bit m c.chan)).map Copy.num
    match (Wait.cpfence m js 0).chans g with
    | some cs => chanEnd s w cs
    | none => (s.bump, .rest (.cpfence m js s.fresh))) s)

/-! ### Chunks (14 R241, R242, R245, R247) -/

/-- Where bytes of a copy lie: in the data region, or in memory with what a write there carries. -/
inductive Place where
  | pad (a : Nat)
  | mem (pa : Nat) (at' : StoreAttr)

/-- Place n bytes at a displacement from an operand, or the reason of the fault (14 R247). -/
def place (s : State) (g : Wg) (isHandle : Bool) (b : DWord) (o : Int) (n : Nat) (wr : Bool) : Except (Nat × DWord) Place :=
  if !isHandle then .ok (.pad ((b.toNat : Int) + o).toNat)
  else match getCtx s g.ctx with
    | none => .error (1, b)
    | some c => match resolve c b o n wr false with
      | .error r => .error (r, b)
      | .ok (r, pa) => .ok (.mem pa (regionAttr g.ctx g.part r pa))

/-- The reductions of the core's cluster at a place are performed, before an access of its streamer there (11 R200); a read goes to memory where
the buffer does not hold the bytes (01 R20, 22 R353). -/
def Place.settle (s : State) (core n : Nat) (wr : Bool) : Place → State
  | .pad _ => s
  | .mem pa a =>
    let s := sendCombsAt s (clusterOf core) pa n
    if wr then s else coreMeets s core a.part pa n

/-- The bytes at a place, through the core's buffer (14 R245). -/
def Place.read (s : State) (g : Wg) (n : Nat) : Place → List Byte
  | .pad a => (rangeFrom a n).map (fun k => SMap.get 0 g.data k)
  | .mem pa _ => (rangeFrom pa n).map (fun k => coreByte s g.core k)

/-- Whether an uncorrectable word is among the bytes at a place (14 R247). -/
def Place.bad (s : State) (g : Wg) (n : Nat) : Place → Bool
  | .pad a => (spBad g a n).isSome
  | .mem pa _ => coreBad s g.core pa n

/-- Whether a clear holds back an access (10 R174); a write also needs the buffer's lines free. -/
def Place.waits (s : State) (core n : Nat) (wr : Bool) : Place → Bool
  | .pad _ => false
  | .mem pa _ => clearingAt s pa || clearingAt s (pa + n - 1) || (wr && (getCore s core).lines.any (fun l => !l.free s))

/-- Store bytes of a region through a core's buffer, line by line, each with the granule it is logged as (22 R358). -/
def storeRange (s : State) (core pa : Nat) (bs : List Byte) (a : StoreAttr) : State :=
  (rangeFrom (pa / 128) ((pa + bs.length - 1) / 128 + 1 - pa / 128)).foldl (fun s l =>
    let lo := max pa (128 * l)
    let hi := min (pa + bs.length) (128 * l + 128)
    bufferStore s core lo ((bs.drop (lo - pa)).take (hi - lo))
      { a with vgran := Config.regionGranule a.ctx (lo / 65536), repl := a.repl.map (fun q => q + (lo - pa)) }) s

/-- Write bytes at a place. -/
def Place.write (s : State) (w : Nat) (bs : List Byte) : Place → State
  | .pad a => modWg s w (fun g => g.spWrite a bs)
  | .mem pa a => storeRange s (getWg s w).core pa bs a

/-- A piece of a chunk: where it is read (none for padding or zeros), how many bytes it writes, and where. -/
structure Piece where
  src : Option (DWord × Int)
  fill : List Byte
  dst : Int
  n : Nat

/-- The index tuple of an element of a tensor, dimension 0 innermost (14 R241). -/
def tupleOf : List Dim → Nat → List Nat
  | [], _ => []
  | x :: ds, e => e % x.dext :: tupleOf ds (e / x.dext)

/-- The piece of an element of a tensor copy (14 R241). PAD has 32 bits: that it is zero-extended in an element of 8 bytes is the model's choice
(log 120). -/
def elemPiece (c : Copy) (d : Desc) (e : Nat) : Piece :=
  let z := 2 ^ d.kind
  let is := d.dims.zip (tupleOf d.dims e)
  let src := is.map (fun x => (x.1, (x.2 : Int) + x.1.soff))
  { src := if src.all (fun x => decide (0 ≤ x.2) && decide (x.2 < x.1.sext)) then
        some (c.src, src.foldl (fun n x => n + x.2 * x.1.sstr) 0) else none
    fill := leBytes z (d.pad.toNat)
    dst := is.foldl (fun n x => n + (x.2 : Int) * x.1.dstr) 0
    n := z }

/-- The pieces of a chunk of a copy without a plane tile (14 R245). -/
def chunkPieces (c : Copy) : List Piece :=
  let o := 4096 * c.chunk
  let n := min 4096 (c.len - o)
  match c.desc with
  | none => [{ src := some (c.src, o), fill := [], dst := o, n := n }]
  | some d => (rangeFrom (o / 2 ^ d.kind) (n / 2 ^ d.kind)).map (elemPiece c d)

/-- A bit field of a line of a tile: element k of a line read from memory (03 R53, 14 R242). -/
def elemField (kind x k : Nat) : Nat :=
  if isBx kind then x / 2 ^ ((bxMag kind + 1) * k) % 2 ^ (bxMag kind + 1)
  else if kind = 7 then x / 2 ^ (8 * k) % 2 ^ 8 else x / 2 ^ (4 * k) % 2 ^ 4

/-- The bit of plane p that an element field gives (03 R54, R55). -/
def planeBit (kind p f : Nat) : Bool := if isBx kind then (if p = 0 then bit f (bxMag kind) else bit f (p - 1)) else bit f p

/-- The bytes of a plane tile from its lines, each a scale and a payload (03 R54, R55). -/
def tileOf (kind : Nat) (lines : List (Nat × Nat)) : List Byte :=
  (rangeFrom 0 (tileBytes kind)).map (fun i =>
    if isBx kind && decide (i ≥ 256 * (bxMag kind + 1)) then
      BitVec.ofNat 8 ((lines.getD (i - 256 * (bxMag kind + 1)) (0, 0)).1 % 256)
    else
      let x := (lines.getD (i % 256 / 2) (0, 0)).2
      BitVec.ofNat 8 ((rangeFrom 0 8).foldl (fun n b =>
        n + b2n (planeBit kind (i / 256) (elemField kind x (8 * (i % 2) + b))) * 2 ^ b) 0))

/-- Run checks of a list in order: the first failure. -/
def allPlaces (s : State) (g : Wg) : List (Bool × DWord × Int × Nat × Bool) → Except (Nat × DWord) (List (Place × Nat × Bool))
  | [] => .ok []
  | (k, b, o, n, wr) :: xs =>
    match place s g k b o n wr with
    | .error e => .error e
    | .ok p => (allPlaces s g xs).map (fun ps => (p, n, wr) :: ps)

/-- The accesses of a copy's next chunk, in order: its reads, then its writes. -/
def chunkAccesses (c : Copy) : List (Bool × DWord × Int × Nat × Bool) :=
  let sk := ctlSrck c.ctl.toNat
  let dk := ctlDstk c.ctl.toNat
  match c.desc with
  | some d =>
    if isPlane d.kind then
      d.lines.flatMap (fun l => (lineReads d.kind l.2).map (fun r => (sk, if r.1 then d.auxs else c.src, r.2.1, r.2.2, false)))
        ++ [(dk, c.dst, 0, tileBytes d.kind, true)]
    else
      let ps := chunkPieces c
      ps.filterMap (fun p => p.src.map (fun x => (sk, x.1, x.2, p.n, false))) ++ ps.map (fun p => (dk, c.dst, p.dst, p.n, true))
  | none =>
    let ps := chunkPieces c
    ps.filterMap (fun p => p.src.map (fun x => (sk, x.1, x.2, p.n, false))) ++ ps.map (fun p => (dk, c.dst, p.dst, p.n, true))

/-- The bytes at an operand of a copy. -/
def readAt (s : State) (g : Wg) (k : Bool) (b : DWord) (o : Int) (n : Nat) : List Byte :=
  match place s g k b o n false with
  | .ok p => p.read s g n
  | .error _ => []

/-- Write bytes at the destination of a copy. -/
def writeAt (s : State) (w : Nat) (k : Bool) (b : DWord) (o : Int) (bs : List Byte) : State :=
  match place s (getWg s w) k b o bs.length true with
  | .ok p => p.write s w bs
  | .error _ => s

/-- Move the bytes of a plane copy (14 R242). -/
def movePlane (s : State) (w : Nat) (c : Copy) (d : Desc) : State :=
  let g := getWg s w
  let sk := ctlSrck c.ctl.toNat
  let lines := (rangeFrom 0 128).map (fun l =>
    match d.lines.find? (fun x => x.1 == l) with
    | none => (0, 0)
    | some x =>
      let get (aux : Bool) : Nat := ((lineReads d.kind x.2).find? (fun r => r.1 == aux)).elim 0 (fun r =>
        leVal (readAt s g sk (if aux then d.auxs else c.src) r.2.1 r.2.2))
      (get true, get false))
  let s := writeAt s w (ctlDstk c.ctl.toNat) c.dst 0 (tileOf d.kind lines)
  if isBx d.kind then
    modWg s w (fun g => g.spWrite d.auxd.toNat (lines.map (fun x => BitVec.ofNat 8 (x.1 / 256))))
  else s

/-- Move the bytes of the pieces of a chunk, in order (14 R241). -/
def movePieces (s : State) (w : Nat) (c : Copy) (ps : List Piece) : State :=
  ps.foldl (fun s p =>
    let bs := match p.src with
      | some x => readAt s (getWg s w) (ctlSrck c.ctl.toNat) x.1 x.2 p.n
      | none => p.fill
    writeAt s w (ctlDstk c.ctl.toNat) c.dst p.dst bs) s

/-- Change a copy of workgroup w, by number. -/
def modCopy (s : State) (w num : Nat) (f : Copy → Copy) : State :=
  modWg s w (fun g => { g with copies := g.copies.map (fun c => if c.num == num then f c else c) })

/-- A copy meets a fault: its record, and the channel's (14 R247). -/
def faultCopy (s : State) (w : Nat) (c : Copy) (reason : Nat) (addr : DWord) : State :=
  let r : FRec := { taddr := addr, tinfo := BitVec.ofNat 64 (c.ticket.toNat * 2 ^ 32 + c.chan * 1024 + reason), cause := 0x0D }
  let s := modCopy s w c.num (fun c => { c with failed := some r })
  modChan s w c.chan (fun x => { x with fault := match x.fault with
    | some f => some (f.1, { f.2 with tinfo := f.2.tinfo ||| 0x100 })
    | none => some (c.ticket - BitVec.ofNat 32 c.len, r) })

/-- The copy at the head of a channel (14 R245). -/
def headCopy (g : Wg) (c : Nat) : Option Copy := g.copies.find? (fun x => x.chan == c)

/-- Whether all chunks of a copy are done. -/
def Copy.delivered (c : Copy) : Bool := c.failed.isSome || decide (c.len ≤ 4096 * c.chunk)

/-- Whether the streamer works for a workgroup: not for a killed context (18 R315). -/
def contextLives (s : State) (g : Wg) : Bool := (getCtx s g.ctx).any (fun c => !c.dead)

/-- Whether a channel has work for the streamer (14 R237). -/
def chanWork (s : State) (w k : Nat) : Bool :=
  let g := getWg s w
  g.status == .resident && contextLives s g && (match headCopy g k with | some c => !c.delivered | none => false)

/-- The channels of a core that have work: workgroup and channel. -/
def workOf (s : State) (core : Nat) : List (Nat × Nat) :=
  ((rangeFrom 0 s.wgs.length).filter (fun w => (getWg s w).core == core)).flatMap (fun w =>
    ((rangeFrom 0 4).filter (chanWork s w)).map (fun k => (w, k)))

/-- The turn of a channel at its core's streamer: none while another channel with work has not been served since this one was; else the
channel is the latest served (14 R237). -/
def takeTurn (s : State) (core w k : Nat) : Option State :=
  let served := (getCore s core).served
  let since := served.takeWhile (· != (w, k))
  if !served.contains (w, k) || (workOf s core).all (fun x => x == (w, k) || since.contains x) then
    some (modCore s core (fun c => { c with served := (w, k) :: c.served.filter (· != (w, k)) }))
  else none

/-- COPY_CHUNK: the next chunk of the copy at the head of channel k, when its turn has come (14 R237, R245); a cut stops copies between
chunks (18 R308). A chunk that waits for a clear is not done, and gives its turn away. The last chunk's advance of WP is the completion's
(11 R194). -/
def execCopyChunk (w k : Nat) (s : State) : Host.Outcome State Fault Refusal :=
  let g := getWg s w
  match headCopy g k, takeTurn s g.core w k with
  | none, _ => .next s
  | _, none => .next s
  | some c, some turn =>
    if !chanWork s w k then .next s
    else
      let s := turn
      match allPlaces s g (chunkAccesses c) with
      | .error (r, h) => .next (faultCopy s w c r h)
      | .ok ps =>
        if ps.any (fun p => p.1.waits s g.core p.2.1 p.2.2) then .next s
        else
        let s := ps.foldl (fun s p => p.1.settle s g.core p.2.1 p.2.2) s
        if ps.any (fun p => !p.2.2 && p.1.bad s g p.2.1) then
          .next (faultCopy s w c 6 (if ctlSrck c.ctl.toNat then c.src else 0))
        else
          let s := match c.desc with
            | some d => if isPlane d.kind then movePlane s w c d else movePieces s w c (chunkPieces c)
            | none => movePieces s w c (chunkPieces c)
          let stamp := s.fresh
          let s := modCopy s w c.num (fun c => { c with chunk := c.chunk + 1, relAt := stamp })
          let wp := 4096 * (c.chunk + 1)
          if c.len ≤ wp then .next s
          else .next (streamWakes (modChan s w k (fun x => { x with wp := c.ticket - BitVec.ofNat 32 (c.len - wp) })) w)

/-! ### Completion (14 R245, R247, 18 R313) -/

/-- Step 6 of a copy whose transition is over: its arrival, or the end of its record (14 R245). -/
def endCopy (s : State) (w : Nat) (c : Copy) : State :=
  if ctlBare c.ctl.toNat then engineArrive s w (ctlBar c.ctl.toNat) (.copy c.num) c.failed
  else freeSource s w (.copy c.num)

/-- The transition of a copy is over; a fault or PARK makes it a copy fault (13 R217, 14 R247). -/
def copyAnswer (s : State) (w num : Nat) (ok : Bool) : State :=
  match (getWg s w).copies.find? (fun c => c.num == num) with
  | none => s
  | some c =>
    let s := if ok then s else faultCopy s w c 7 c.cobj
    modCopy s w num (fun c => { c with moved := true, held := none })

/-- Send an engine's transition on to a home slice, as a request of its own: held for a place, or the chained one (13 R215, R216). -/
def engineReq (s : State) (o : Obj) (origin : Origin) (w core : Nat) (kind : ReqKind) (held : Bool) : State :=
  let r : Req := { id := s.fresh, stamp := s.fresh, origin := origin, who := [], wg := w, core := core, ctx := o.ctx, part := o.part
                   die := o.die, pa := o.pa, ret := true, prop := o.prop, vgran := o.va / 65536, kind := kind, size := 16
                   scope := 0, ss := 0, after := [], behind := [], held := held }
  { s with reqs := s.reqs ++ [r] }.bump

/-- The completion transition of a copy (14 R245 step 5, 13 R217). -/
def copyTransition (s : State) (w : Nat) (c : Copy) : State :=
  let g := getWg s w
  match getCtx s g.ctx with
  | none => s
  | some x => match resolve x c.cobj 0 16 true true with
    | .error r => modCopy (faultCopy s w c r c.cobj) w c.num (fun c => { c with moved := true })
    | .ok (r, pa) =>
      let o : Obj := { ctx := g.ctx, part := g.part, die := dieOf g.core, pa := pa
                       va := Config.regionGranule g.ctx (pa / 65536) * 65536 + pa % 65536, prop := r.prop, via := some g.core }
      let data := BitVec.ofNat 64 c.len
      let t := ctlTrans c.ctl.toNat
      let wide := match lookEntry s o t with
        | .ok e => eReleases e.2.2 && decide (ctlScope c.ctl.toNat ≥ 2) && !drained s g.core c.relAt
        | .error _ => false
      let q := engineWaits s o t
      if q.2 || wide then q.1
      else match transition q.1 o t data .engine with
        | (s, .done _ _) => copyAnswer s w c.num true
        | (s, .full) => modCopy (engineReq s o (.copy w c.num) w g.core (.trans t data (BitVec.ofNat 64 o.va)) true) w c.num
            (fun c => { c with held := some s.fresh })
        | (s, .chain st old code va pa l) =>
          modCopy (engineReq s (o.next va pa l) (.copy w c.num) w g.core (.chain code data (BitVec.ofNat 64 va) (st, old)) false)
            w c.num (fun c => { c with held := some s.fresh })
        | (s, _) => copyAnswer s w c.num false

/-- Whether a copy's arrival is held at the barrier unit (14 R231). -/
def arrivalHeld (g : Wg) (a : ArrSrc) : Bool := g.bars.any (fun b => b.held.any (fun x => x.1 == a))

/-- COPY_COMPLETION: the completion steps of the delivered copy at the head of channel k (14 R245): the release, the write pointer,
the transition, the arrival. A step that must wait is done by a later one of these events. -/
def execCopyCompletion (w k : Nat) (s : State) : Host.Outcome State Fault Refusal :=
  let g := getWg s w
  match headCopy g k with
  | none => .next s
  | some c =>
    let scope := if ctlRel c.ctl.toNat then ctlScope c.ctl.toNat else 1
    if (g.status != .resident && g.status != .cutting) || !contextLives s g || !c.delivered || c.held.isSome
        || arrivalHeld g (.copy c.num) || (scope ≥ 2 && !drained s g.core c.relAt) then .next s
    else
      let s := if c.begun || !ctlRel c.ctl.toNat then s else flushHost s g.part scope 0b1111
      let s := modChan s w k (fun x => { x with wp := c.ticket })
      let s := streamWakes (modCopy s w c.num (fun c => { c with begun := true })) w
      let s := if c.moved || c.failed.isSome || !ctlTre c.ctl.toNat then
          modCopy s w c.num (fun c => { c with moved := true }) else copyTransition s w c
      match (getWg s w).copies.find? (fun x => x.num == c.num) with
      | some c => if c.moved then .next (streamWakes (endCopy s w c) w) else .next s
      | none => .next s

end Sys2Proof.Machine
end

