-- ==== Sys2Proof/Machine/Anvil.lean ====
section
/-!
DEFINITION. Anvil.lean: the block-matrix array (15 R249 to R267, tiles of 03 R54 to R56).
-/
namespace Sys2Proof.Machine

/-! ### Dense and sparse forms -/

/-- The n values of a map from key i on. -/
def SMap.dense {α : Type} (d : α) : List (Nat × α) → Nat → Nat → List α
  | _, _, 0 => []
  | [], _, n + 1 => d :: SMap.dense d [] 0 n
  | (k, v) :: m, i, n + 1 => if k = i then v :: SMap.dense d m (i + 1) n else d :: SMap.dense d ((k, v) :: m) (i + 1) n

/-- The map of a list of values from key i on. -/
def SMap.ofList {α : Type} [DecidableEq α] (d : α) : Nat → List α → List (Nat × α)
  | _, [] => []
  | i, x :: xs => if x = d then SMap.ofList d (i + 1) xs else (i, x) :: SMap.ofList d (i + 1) xs

/-! ### The array at placement (15 R250) -/

def Tile.empty (fmt : Nat) : Tile := { fmt := fmt, elem := [], exp := [] }
def PBank.empty : PBank := { p := [], ea := [], eb := [], bad := [] }
def CBank.empty : CBank := { c := [], bad := [], logged := [] }

/-- The state of an array that is newly allotted. -/
def Anvil.fresh : Anvil :=
  { fa := 0, fb := 0, b0 := Tile.empty 0, b1 := Tile.empty 0, p0 := PBank.empty, p1 := PBank.empty, c0 := CBank.empty
    c1 := CBank.empty, merr := 0, log := [], queue := [], jobNum := 0 }

/-- Slot, P bank and C bank by number, and their replacement. -/
def Anvil.slot (x : Anvil) (n : Bool) : Tile := if n then x.b1 else x.b0
def Anvil.setSlot (x : Anvil) (n : Bool) (t : Tile) : Anvil := if n then { x with b1 := t } else { x with b0 := t }
def Anvil.pBank (x : Anvil) (n : Bool) : PBank := if n then x.p1 else x.p0
def Anvil.setP (x : Anvil) (n : Bool) (t : PBank) : Anvil := if n then { x with p1 := t } else { x with p0 := t }
def Anvil.cBank (x : Anvil) (n : Bool) : CBank := if n then x.c1 else x.c0
def Anvil.setC (x : Anvil) (n : Bool) (t : CBank) : Anvil := if n then { x with c1 := t } else { x with c0 := t }

/-! ### Formats and tiles (15 R251, 03 R54, R55) -/

/-- The KIND of 14 R241 that a format code's tile has. -/
def fmtKind (f : Nat) : Nat := f + 4

/-- The bit of plane p of a tile at a, for element k of a line. -/
def tileBit (g : Wg) (a p line k : Nat) : Bool := bit (SMap.get 0 g.data (a + 256 * p + 2 * line + k / 8)).toNat (k % 8)

/-- An element of a tile: for a block format, in halves of its pair-exponent unit (15 R256); else two's complement. -/
def tileElem (g : Wg) (f a line k : Nat) : Int :=
  if isBx (fmtKind f) then
    let m := bxMag (fmtKind f)
    let mag := (rangeFrom 1 m).foldl (fun n p => n + b2n (tileBit g a p line k) * 2 ^ (p - 1)) 0
    let pe := bit (SMap.get 0 g.data (a + 256 * (m + 1) + line)).toNat (k / 2)
    let v : Int := (mag * (if pe then 1 else 2) : Nat)
    if tileBit g a 0 line k then -v else v
  else
    let n := if f = 3 then 8 else 4
    sext n ((rangeFrom 0 n).foldl (fun x p => x + b2n (tileBit g a p line k) * 2 ^ p) 0)

/-- An uncorrectable word of an operand: plane code, first line lost, lines lost, data address (15 R257, R263). -/
structure Lost where
  plane : Nat
  line : Nat
  count : Nat
  addr : Nat

/-- The uncorrectable words of a tile at a and of its exponent vector at e, in the order in which they are met: the sign plane, the PE plane
and the exponents are read alongside the first magnitude plane, and the other magnitude planes after them, one by one (15 R251, R257). Among
words read together the order is the model's (log 58). -/
def lostWords (g : Wg) (f a e : Nat) : List Lost :=
  let hit (base n : Nat) (f : Nat → Nat × Nat × Nat) : List Lost :=
    (rangeFrom 0 n).filterMap (fun i =>
      if g.badd.contains (base / 8 + i) then
        some { plane := (f i).1, line := (f i).2.1, count := (f i).2.2, addr := base + 8 * i } else none)
  let kind := fmtKind f
  if isBx kind then
    let m := bxMag kind
    hit a 64 (fun i => (i / 32, i % 32 * 4, 4)) ++ hit (a + 256 * (m + 1)) 16 (fun i => (0xE, 8 * i, 8))
      ++ hit e 16 (fun i => (0xF, 8 * i, 8)) ++ hit (a + 512) (32 * (m - 1)) (fun i => (i / 32 + 2, i % 32 * 4, 4))
  else hit a (if f = 3 then 256 else 128) (fun i => (i / 32, i % 32 * 4, 4))

/-- Whether a line is lost. -/
def lineLost (ls : List Lost) (l : Nat) : Bool := ls.any (fun x => decide (x.line ≤ l) && decide (l < x.line + x.count))

/-- The exponents of a tile's lines as they are latched (15 R255, R256): 127 for integers, 0 for a lost line. -/
def tileExps (g : Wg) (f e : Nat) (ls : List Lost) : List Nat :=
  (rangeFrom 0 128).map (fun l => if lineLost ls l then 0 else if isBx (fmtKind f) then
    (SMap.get 0 g.data (e + l)).toNat else 127)

/-- The elements of a tile's lines, zero where a line is lost. -/
def tileLines (g : Wg) (f a : Nat) (ls : List Lost) : List (List Int) :=
  (rangeFrom 0 128).map (fun l => (rangeFrom 0 16).map (fun k => if lineLost ls l then 0 else tileElem g f a l k))

/-- Cut a list into lines of 16. -/
def sixteens (n : Nat) (xs : List Int) : List (List Int) :=
  match n with
  | 0 => []
  | n + 1 => xs.take 16 :: sixteens n (xs.drop 16)

/-- A sum of products (15 R256). -/
def dotOf : List Int → List Int → Int
  | x :: xs, y :: ys => x * y + dotOf xs ys
  | _, _ => 0

/-- A lost word's log entry (15 R263). -/
def Lost.entry (x : Lost) (kind : Nat) (bank : Bool) : DWord :=
  BitVec.ofNat 64 (kind * 2 ^ 61 + b2n bank * 2 ^ 60 + x.plane * 2 ^ 56 + x.line * 2 ^ 48 + x.count * 2 ^ 40 + x.addr)

/-- The log entry of an element of a bank (15 R263). -/
def elemEntry (kind : Nat) (bank : Bool) (row col addr : Nat) : DWord :=
  BitVec.ofNat 64 (kind * 2 ^ 61 + b2n bank * 2 ^ 60 + row * 2 ^ 48 + 2 ^ 40 + col * 2 ^ 32 + addr)

/-! ### Array operations -/

/-- `mcfg` on the array: both slots are emptied (15 R255). -/
def Anvil.config (x : Anvil) (fb : Nat) : Anvil := { x with b0 := Tile.empty fb, b1 := Tile.empty fb }

/-- Stage a B tile of format f (15 R255). -/
def Anvil.stage (x : Anvil) (g : Wg) (slot : Bool) (f a e : Nat) : Anvil × List DWord :=
  let ls := lostWords g f a e
  (x.setSlot slot { fmt := f, elem := SMap.ofList 0 0 (tileLines g f a ls).flatten
                    exp := SMap.ofList 0 0 (tileExps g f e ls) },
   ls.map (fun l => l.entry 1 slot))

/-- Multiply an A tile of format f by a staged one (15 R256). -/
def Anvil.multiply (x : Anvil) (g : Wg) (slot pb : Bool) (f a e : Nat) : Anvil × List DWord :=
  let ls := lostWords g f a e
  let ea := tileExps g f e ls
  let t := x.slot slot
  let eb := SMap.dense 0 t.exp 0 128
  let live (f : Nat) (xs : List (List Int)) (es : List Nat) : List (List Int) :=
    xs.zipWith (fun l n => if isBx (fmtKind f) && n == 0xFF then l.map (fun _ => 0) else l) es
  let rows := live f (tileLines g f a ls) ea
  let cols := live t.fmt (sixteens 128 (SMap.dense 0 t.elem 0 2048)) eb
  (x.setP pb { p := SMap.ofList 0 0 (rows.flatMap (fun r => cols.map (dotOf r))), ea := SMap.ofList 0 0 ea
               eb := SMap.ofList 0 0 eb, bad := [] },
   ls.map (fun l => l.entry 0 false))

/-- One element of `scacc` (15 R258). -/
def scaccElem (x : Word) (p : Int) (ea eb : Nat) (k : Int) (bad : Bool) : Word :=
  match FV.ofBits Fmt.f32 false x.toNat with
  | .nan _ => 0x7FC00000
  | .inf n => if ea = 0xFF ∨ eb = 0xFF ∨ bad then 0x7FC00000 else BitVec.ofNat 32 (Fmt.f32.inf n)
  | v =>
    if ea = 0xFF ∨ eb = 0xFF ∨ bad then 0x7FC00000
    else BitVec.ofNat 32 (sumOf Fmt.f32 { rm := .rne, ftz := false }
      [v, .num (decide (p < 0)) p.natAbs ((ea : Int) + eb - 254 + k)]).1

/-- Scale and accumulate (15 R258), with an entry for each element with a parity error that it reads (R262, R263). -/
def Anvil.accumulate (x : Anvil) (pb cb : Bool) (k : Int) : Anvil × List DWord :=
  let p := x.pBank pb
  let c := x.cBank cb
  let ps := (SMap.dense 0 p.p 0 16384).zip (SMap.dense 0 c.c 0 16384)
  let ea := SMap.dense 0 p.ea 0 128
  let eb := SMap.dense 0 p.eb 0 128
  let new := ps.mapIdx (fun i e => scaccElem e.2 e.1 (ea.getD (i / 128) 0) (eb.getD (i % 128) 0) k
    (p.bad.contains i || c.bad.contains i))
  let errs := (rangeFrom 0 16384).flatMap (fun i =>
    (if p.bad.contains i then [elemEntry 2 pb (i / 128) (i % 128) 0] else [])
      ++ (if c.bad.contains i && !c.logged.contains i then [elemEntry 3 cb (i / 128) (i % 128) 0] else []))
  (x.setC cb { c := SMap.ofList 0 0 new, bad := [], logged := [] }, if p.bad.isEmpty && c.bad.isEmpty then [] else errs)

/-- The rectangle of an instruction: its word when it has one, else the whole bank; none where the word is malformed. -/
def rectOf (g : Wg) (t : Nat) (sub : BitVec 4) (imm : Word) : Rect × Nat × Bool :=
  if sub.getLsbD 1 then
    let o := (Opnd.ofBits (imm.extractLsb' 0 10)).getD (.imm 0)
    let x := readTy g t .n32 o 0
    let r : Rect := { row := bits x 6 0, col := bits x 14 8, h := bits x 22 16 + 1, w := bits x 30 24 + 1 }
    (r, x, !bit x 31 && !bit x 23 && !bit x 15 && !bit x 7 && decide (r.row + r.h ≤ 128) && decide (r.col + r.w ≤ 128))
  else ({ row := 0, col := 0, h := 128, w := 128 }, 0, true)

/-- The index of element (i, j) of a rectangle in its bank. -/
def Rect.at (r : Rect) (i j : Nat) : Nat := 128 * (r.row + i) + r.col + j

/-- The elements of a rectangle, row by row. -/
def Rect.elems (r : Rect) : List (Nat × Nat) := (rangeFrom 0 r.h).flatMap (fun i => (rangeFrom 0 r.w).map (fun j => (i, j)))

/-- Load values into a rectangle (15 R260): one entry for each uncorrectable source word, which is read once (R265). -/
def Anvil.load (x : Anvil) (g : Wg) (cb : Bool) (r : Rect) (a b : Nat) : Anvil × List DWord :=
  let c := x.cBank cb
  let adr (i j : Nat) : Nat := a + i * b + 4 * j
  let val (i j : Nat) : Word :=
    if g.badd.contains (adr i j / 8) then 0x7FC00000 else BitVec.ofNat 32 (spRead g (adr i j) 4)
  let inside (n : Nat) : Bool :=
    decide (r.row ≤ n / 128) && decide (n / 128 < r.row + r.h) && decide (r.col ≤ n % 128) && decide (n % 128 < r.col + r.w)
  let new := (SMap.dense 0 c.c 0 16384).mapIdx (fun n v => if inside n then val (n / 128 - r.row) (n % 128 - r.col) else v)
  let lost := r.elems.filter (fun e => g.badd.contains (adr e.1 e.2 / 8))
  let errs := (lost.map (fun e => adr e.1 e.2 / 8)).eraseDups.filterMap (fun n =>
    (lost.find? (fun e => adr e.1 e.2 / 8 == n)).map (fun e => elemEntry 4 cb (r.row + e.1) (r.col + e.2) (8 * n)))
  (x.setC cb { c := SMap.ofList 0 0 new, bad := c.bad.filter (fun n => !inside n), logged := c.logged.filter (fun n => !inside n) },
   errs)

/-- A C element as `mdrain` reads it (15 R261). -/
def CBank.read (c : CBank) (n : Nat) : Word := if c.bad.contains n then 0x7FC00000 else SMap.get 0 c.c n

/-- A binary32 value rounded to bfloat16 (15 R261). -/
def toBf16 (x : Word) : Nat :=
  match FV.ofBits Fmt.f32 false x.toNat with
  | .nan _ => 0x7FC0
  | .inf n => Fmt.bf16.inf n
  | .num n m e => if m = 0 then Fmt.bf16.zero n else (roundTo Fmt.bf16 .rne false n m e).1

/-- What `mdrain` writes: data address and bytes, in order (15 R261, 03 R53). That a BX block's scale is written before its payload, where the two
overlap, is the model's choice (log 125). -/
def drainWrites (c : CBank) (r : Rect) (out a b : Nat) : List (Nat × List Byte) :=
  if out ≤ 1 then
    let z := if out = 0 then 4 else 2
    r.elems.map (fun e =>
      let v := c.read (r.at e.1 e.2)
      (a + e.1 * b + e.2 * z, leBytes z (if out = 0 then v.toNat else toBf16 v)))
  else
    let m := bxMag (out + 2)
    let p := 2 * (m + 1)
    let nb := r.w / 16
    (rangeFrom 0 (r.h * nb)).flatMap (fun i =>
      let q := quantise m ((rangeFrom 0 16).map (fun k =>
        FV.ofBits Fmt.f32 false (c.read (r.at (i / nb) (16 * (i % nb) + k))).toNat))
      [(a + 2 * i, leBytes 2 q.1),
       (b + p * i, leBytes p (q.2.1.mapIdx (fun k f => f * 2 ^ ((m + 1) * k))).sum)])

/-- The elements of a rectangle with parity errors that have not been logged (15 R261). -/
def drainErrs (c : CBank) (r : Rect) (cb : Bool) : List Nat × List DWord :=
  let hit := if c.bad.isEmpty then [] else
    (r.elems.map (fun e => r.at e.1 e.2)).filter (fun n => c.bad.contains n && !c.logged.contains n)
  (hit, hit.map (fun n => elemEntry 3 cb (n / 128) (n % 128) 0))

/-! ### Issue (15 R252 to R254) -/

/-- The lanes, by number in the group, that keep an Anvil instruction from issuing (04 R68). -/
def anvilLanes (h : Hdr) (g : Wg) (k : Nat) : Nat :=
  laneMask (rangeFrom 0 32) (fun l =>
    let th := getTh g (32 * k + l)
    !(th.live && th.kind == .real && guardOn h th))

/-- An Anvil instruction in its group: the lane check, the array, and its own checks and acceptance (15 R254). -/
def anvilFrame (h : Hdr) (closes : Bool) (act : State → Nat → Nat → Anvil → State × End) (s : State) : State :=
  let w := s.bundle.wg
  (groupsOf s.bundle.lanes).foldl (fun s k =>
    let g := getWg s w
    let ls := laneGroup s k
    let r : State × End :=
      if anvilLanes h g k ≠ 0 then (s, .trap 0x03 (BitVec.ofNat 64 (2 * 2 ^ 32 + anvilLanes h g k)) 0)
      else match g.anvil with
        | none => (s, .trap 0x02 0 0)
        | some x => act s w (32 * k) x
    ls.foldl (fun s t => finish s w t closes r.2) r.1) s

/-- The data addresses that an array instruction accesses: first, and bytes (15 R254 to R261). -/
def ACmd.span : ACmd → List (Nat × Nat)
  | .stage _ f a e | .multiply _ _ f a e =>
    (a, tileBytes (fmtKind f)) :: (if isBx (fmtKind f) then [(e, 128)] else [])
  | .load _ r a b => (rangeFrom 0 r.h).map (fun i => (a + i * b, 4 * r.w))
  | .drain _ r out a b =>
    if out ≤ 1 then (rangeFrom 0 r.h).map (fun i => (a + i * b, (if out = 0 then 4 else 2) * r.w))
    else
      let n := r.h * (r.w / 16)
      [(a, 2 * n), (b, 2 * (bxMag (out + 2) + 1) * n)]
  | _ => []

/-- How often %irs has been written in the lanes of a group (15 R267). -/
def groupMoves (g : Wg) (k : Nat) : Nat := ((rangeFrom (32 * k) 32).map (fun t => (getTh g t).moves)).sum

/-- Accept an instruction of group k: it waits for a place in the queue, and is done there in its turn (15 R252). Its issue is a release at
core scope (11 R194). -/
def accept (s : State) (w k : Nat) (x : Anvil) (arv : Option Nat) (cmd : ACmd) : State × End :=
  if x.queue.length ≥ 8 then (s, .stay .anvilQ)
  else
    let r := tryRelease s w (laneGroup s k) (laneGroup s k) 0 0b1111
    if !r.2 then (r.1, .stay .drain)
    else (modWg r.1 w (fun g =>
    let j : AJob := { num := x.jobNum, grp := k, moves := groupMoves g k, arv := arv, cmd := cmd, span := cmd.span, got := [], wrote := 0
                      acted := false, errs := [] }
    { g with anvil := some { x with queue := x.queue ++ [j], jobNum := x.jobNum + 1 } }), .adv)

/-- Trap 0x04 of an array operand (15 R254). -/
def anvilAlign (reason v : Nat) : End := .trap 0x04 (BitVec.ofNat 64 reason) (BitVec.ofNat 64 v)

/-- The first failing check of a list: a trap, or a range outside the data region, as kind, address and bytes. -/
def anvilChecks (g : Wg) (arv : Option Nat) (align : List (Bool × Nat × Nat)) (ranges : List (Nat × Nat × Nat)) : Option End :=
  match arv with
  | some b =>
    if b ≥ g.hdr.bars then some (misuse 0 b 1)
    else match align.find? (fun x => !x.1) with
      | some x => some (anvilAlign x.2.1 x.2.2)
      | none => (ranges.find? (fun x => !inRegion g x.2.1 x.2.2)).map (fun x => boundsTrap x.1 0 x.2.1)
  | none =>
    match align.find? (fun x => !x.1) with
    | some x => some (anvilAlign x.2.1 x.2.2)
    | none => (ranges.find? (fun x => !inRegion g x.2.1 x.2.2)).map (fun x => boundsTrap x.1 0 x.2.1)

/-- The checks of a tile operand: alignments, then ranges (15 R254). That the tile's alignment comes before the exponent vector's is the model's
choice (log 124). -/
def tileChecks (f a e : Nat) : List (Bool × Nat × Nat) × List (Nat × Nat × Nat) :=
  let bx := isBx (fmtKind f)
  ((a % 256 == 0, 1, a) :: (if bx then [(e % 128 == 0, 2, e)] else []),
   (1, a, tileBytes (fmtKind f)) :: (if bx then [(1, e, 128)] else []))

/-- The barrier of an instruction's arrival. -/
def arvOf (bar : BitVec 4) (arv : Bool) : Option Nat := if arv then some bar.toNat else none

/-! ### The instructions (15 R255 to R264) -/

/-- `mcfg` (15 R255). -/
def execMcfg (h : Hdr) (mod : BitVec 3) (sub : BitVec 4) (s : State) : Host.Outcome State Fault Refusal :=
  .next (anvilFrame h true (fun s w t x => accept s w (grpOf t) { x with fa := sub.toNat, fb := mod.toNat } none (.config mod.toNat)) s)

/-- `mldb` (15 R255). -/
def execMldb (h : Hdr) (bar : BitVec 4) (arv : Bool) (sub : BitVec 4) (a b : Opnd) (imm : Word) (s : State) :
    Host.Outcome State Fault Refusal :=
  .next (anvilFrame h true (fun s w t x =>
    let g := getWg s w
    let p := readTy g t .n32 a imm
    let e := readTy g t .n32 b imm
    let c := tileChecks x.fb p e
    match anvilChecks g (arvOf bar arv) c.1 c.2 with
    | some e => (s, e)
    | none => accept s w (grpOf t) x (arvOf bar arv) (.stage (sub.getLsbD 0) x.fb p e)) s)

/-- `mmb` (15 R256). -/
def execMmb (h : Hdr) (bar : BitVec 4) (arv : Bool) (sub : BitVec 4) (a b : Opnd) (imm : Word) (s : State) :
    Host.Outcome State Fault Refusal :=
  .next (anvilFrame h arv (fun s w t x =>
    let g := getWg s w
    let p := readTy g t .n32 a imm
    let e := readTy g t .n32 b imm
    let c := tileChecks x.fa p e
    match anvilChecks g (arvOf bar arv) c.1 c.2 with
    | some e => (s, e)
    | none => accept s w (grpOf t) x (arvOf bar arv) (.multiply (sub.getLsbD 0) (sub.getLsbD 1) x.fa p e)) s)

/-- `scacc` (15 R258). -/
def execScacc (h : Hdr) (sub : BitVec 4) (a : Opnd) (imm : Word) (s : State) : Host.Outcome State Fault Refusal :=
  .next (anvilFrame h true (fun s w t x =>
    let k := intOf .i32 (readTy (getWg s w) t .i32 a imm)
    accept s w (grpOf t) x none (.accumulate (sub.getLsbD 0) (sub.getLsbD 1) k)) s)

/-- `mzero` (15 R260). -/
def execMzero (h : Hdr) (sub : BitVec 4) (s : State) : Host.Outcome State Fault Refusal :=
  .next (anvilFrame h true (fun s w t x => accept s w (grpOf t) x none (.zero (sub.getLsbD 0))) s)

/-- `mldc` (15 R260). That the alignment of the address comes before the stride's, and both before the rectangle, is the model's choice (log 124). -/
def execMldc (h : Hdr) (sub : BitVec 4) (a b : Opnd) (imm : Word) (s : State) : Host.Outcome State Fault Refusal :=
  .next (anvilFrame h true (fun s w t x =>
    let g := getWg s w
    let p := readTy g t .n32 a imm
    let q := readTy g t .n32 b imm
    let r := rectOf g t sub imm
    match anvilChecks g none [(p % 4 == 0, 3, p), (q % 4 == 0, 3, q), (r.2.2, 4, r.2.1)]
        ((ACmd.load (sub.getLsbD 0) r.1 p q).span.map (fun x => (1, x))) with
    | some e => (s, e)
    | none => accept s w (grpOf t) x none (.load (sub.getLsbD 0) r.1 p q)) s)

/-- `mdrain` (15 R261). The order of its alignment checks is that of `mldc` (log 124). -/
def execMdrain (h : Hdr) (bar : BitVec 4) (mod : BitVec 3) (arv : Bool) (sub : BitVec 4) (a b : Opnd) (imm : Word) (s : State) :
    Host.Outcome State Fault Refusal :=
  .next (anvilFrame h arv (fun s w t x =>
    let g := getWg s w
    let p := readTy g t .n32 a imm
    let q := readTy g t .n32 b imm
    let r := rectOf g t sub imm
    let out := mod.toNat
    let cb := sub.getLsbD 0
    let z := if out = 0 then 4 else 2
    let align := [(p % z == 0, 3, p)] ++ (if out ≤ 1 then [(q % z == 0, 3, q)] else [])
      ++ [(r.2.2 && (decide (out ≤ 1) || (r.1.col % 16 == 0 && r.1.w % 16 == 0)), 4, r.2.1)]
    let cmd := ACmd.drain cb r.1 out p q
    match anvilChecks g (arvOf bar arv) align (cmd.span.map (fun x => (2, x))) with
    | some e => (s, e)
    | none => accept s w (grpOf t) x (arvOf bar arv) cmd) s)

/-- `merr`: waits for the queue to empty, then reads a log entry (15 R264). -/
def execMerr (h : Hdr) (d a : Opnd) (imm : Word) (s : State) : Host.Outcome State Fault Refusal :=
  .next (anvilFrame h false (fun s w t x =>
    let g := getWg s w
    let i := readTy g t .n32 a imm
    if !x.queue.isEmpty then (s, .stay .merr)
    else (setWg s w (g.writeAll t (tyWrites d .n64 (if i < 4 then (x.log.getD i 0).toNat else 0))), .adv)) s)

/-- `merr.clr` (15 R264). -/
def execMerrClr (h : Hdr) (s : State) : Host.Outcome State Fault Refusal :=
  .next (anvilFrame h true (fun s w _ x =>
    if !x.queue.isEmpty then (s, .stay .merr)
    else (modWg s w (fun g => { g with anvil := some { x with merr := 0, log := [] } }), .adv)) s)

/-! ### The work of the array (15 R252, R265) -/

/-- A workgroup as an array instruction sees it: of the words it has read, their contents of then (15 R265). -/
def AJob.view (j : AJob) (g : Wg) : Wg :=
  j.got.foldl (fun g w =>
    let g := g.spWrite w.1 (leBytes 8 w.2.1.toNat)
    if w.2.2 then { g with badd := w.1 / 8 :: g.badd } else g) g

/-- The array state after an instruction that reads the scratchpad as `g` shows it, with the errors met; `mdrain` marks the elements it logs. -/
def ACmd.run (g : Wg) (x : Anvil) : ACmd → Anvil × List DWord
  | .config fb => (x.config fb, [])
  | .stage slot f a e => x.stage g slot f a e
  | .multiply slot pb f a e => x.multiply g slot pb f a e
  | .accumulate pb cb k => x.accumulate pb cb k
  | .zero cb => (x.setC cb CBank.empty, [])
  | .load cb r a b => x.load g cb r a b
  | .drain cb r _ _ _ =>
    let c := x.cBank cb
    let e := drainErrs c r cb
    (x.setC cb { c with logged := c.logged ++ e.1 }, e.2)

/-- The writes of an array instruction to the scratchpad, in order (15 R261). -/
def ACmd.writes (x : Anvil) : ACmd → List (Nat × List Byte)
  | .drain cb r out a b => drainWrites (x.cBank cb) r out a b
  | _ => []

/-- The array instruction that is in progress: the oldest that has not done all its work. -/
def Anvil.current (x : Anvil) : Option AJob := x.queue.find? (fun j => !j.acted)

/-- Replace an array instruction in the queue. -/
def Anvil.setJob (x : Anvil) (j : AJob) : Anvil := { x with queue := x.queue.map (fun k => if k.num == j.num then j else k) }

/-- The instruction in progress does all that is left of its work: it reads the words it has not read, makes the writes that are left, and
the array state is as it leaves it (15 R252). -/
def actArray (g : Wg) : Wg :=
  match g.anvil with
  | none => g
  | some x => match x.current with
    | none => g
    | some j =>
      let r := j.cmd.run (j.view g) x
      let g := ((j.cmd.writes x).drop j.wrote).foldl (fun g y => g.spWrite y.1 y.2) g
      { g with anvil := some (r.1.setJob { j with acted := true, errs := r.2, got := [] }) }

/-- The instruction in progress reads one 8-byte word of its operands (15 R265). -/
def readWord (g : Wg) (a : Nat) : Wg :=
  match g.anvil with
  | none => g
  | some x => match x.current with
    | none => g
    | some j =>
      if a % 8 ≠ 0 || j.got.any (fun w => w.1 == a) || !j.span.any (fun p => overlap p.1 p.2 a 8) then g
      else { g with anvil := some (x.setJob { j with
        got := j.got ++ [(a, BitVec.ofNat 64 (spRead g a 8), (spBad g a 8).isSome)] }) }

/-- The instruction in progress makes its next write (15 R261). -/
def writeNext (g : Wg) : Wg :=
  match g.anvil with
  | none => g
  | some x => match x.current with
    | none => g
    | some j => match (j.cmd.writes x)[j.wrote]? with
      | none => g
      | some y => { g.spWrite y.1 y.2 with anvil := some (x.setJob { j with wrote := j.wrote + 1 }) }

/-- The oldest array instruction whose arrival is not held (14 R231). -/
def nextDone (g : Wg) (x : Anvil) : Option AJob := x.queue.find? (fun j => !arrivalHeld g (.anvil j.num))

/-- ANVIL_INSTRUCTION_DONE: the oldest accepted instruction of workgroup w whose arrival is not held has done its work; it is complete with
its arrival: its errors show in %merr, and its place is free (15 R252, R262, R265). -/
def execAnvilInstructionDone (w : Nat) (s : State) : Host.Outcome State Fault Refusal :=
  let g := getWg s w
  match g.anvil with
  | none => .next s
  | some x => match nextDone g x with
    | none => .next s
    | some j =>
      if g.status != .resident && g.status != .cutting then .next s
      else
        let s := if j.acted then s else setWg s w (actArray g)
        match j.arv with
        | none => .next (freeSource s w (.anvil j.num))
        | some b => .next (engineArrive s w b (.anvil j.num) none)

end Sys2Proof.Machine
end

