-- ==== Sys2Proof/Machine/Launch.lean ====
section
/-!
DEFINITION. Launch.lean: launch entries, the completion logic, admission, and `enq`, `ldqe`, `tmset` (17 R272 to R281, R290, R291,
R294 to R298, 05 R87 to R91).
-/
namespace Sys2Proof.Machine

/-! ### Launch entries (17 R273 to R276) -/

/-- The fields of a launch entry. -/
structure LFields where
  kobj : Nat
  grid : Nat
  clw : Nat
  deadline : Nat
  flags : Nat
  budget : Nat
  cfut : Nat
  subt : Nat
  place : Nat

/-- The fields of the 1,024 bits of an entry (17 R273). -/
def fieldsOf (raw : BitVec 1024) : LFields :=
  let n := raw.toNat
  { kobj := bits n 63 0, grid := bits n 95 64, clw := bits n 99 96, deadline := bits n 159 128, flags := bits n 191 160
    budget := bits n 319 256, cfut := bits n 383 320, subt := bits n 447 384, place := bits n 511 448 }

def LFields.ctrans (f : LFields) : Nat := bits f.flags 3 0
def LFields.kom (f : LFields) : Bool := bit f.flags 5
def LFields.ovc (f : LFields) : Bool := bit f.flags 6
def LFields.subrel (f : LFields) : Bool := bit f.flags 7
def LFields.pin (f : LFields) : Bool := bit f.place 63
/-- The core of pinned workgroup w (17 R275). -/
def LFields.pinCore (f : LFields) (w : Nat) : Nat := bits f.place (7 * w + 6) (7 * w)
/-- The number of pinned workgroups. -/
def LFields.pinned (f : LFields) : Nat := if f.pin then min 8 f.grid else 0
/-- The workgroups of cluster j. -/
def LFields.cluster (f : LFields) (j : Nat) : List Nat := rangeFrom (j * f.clw) f.clw
/-- The clusters that hold a pinned workgroup: these come first. -/
def LFields.pinClusters (f : LFields) : Nat := if f.clw = 0 then 0 else ceilDiv f.pinned f.clw

/-- Whether an entry is malformed, in a partition with some cores (17 R276). -/
def malformed (cores : List Nat) (raw : BitVec 1024) : Bool :=
  let f := fieldsOf raw
  bits raw.toNat 127 100 != 0 || bits f.flags 31 8 != 0 || bit f.flags 4 || bits f.place 62 56 != 0
    || f.kobj % 64 != 0 || bits f.kobj 55 54 != 0
    || f.grid == 0 || f.clw < 1 || f.clw > 4 || f.grid % f.clw != 0
    || (f.cfut != 0 && (f.cfut % 16 != 0 || f.cfut ≥ 2 ^ 54))
    || (rangeFrom 0 f.pinned).any (fun w => !cores.contains (f.pinCore w))
    || (rangeFrom 0 f.pinned).any (fun w => (rangeFrom 0 f.pinned).any (fun v =>
        v / f.clw == w / f.clw && clusterOf (f.pinCore v) != clusterOf (f.pinCore w)))

/-! ### The completion logic (17 R281, R290, R291, 13 R217) -/

/-- The number of the check of 10 R178 that an address fails. -/
def failedCheck : Xlat → Nat
  | .ok _ _ => 0
  | .trap 0x04 _ => 1
  | .trap 0x07 _ => 8
  | .trap _ i => match i % 256 with
    | 1 => 2 | 2 => 3 | 3 => 4 | 4 => 5 | 5 => 6 | 10 => 9 | _ => 7
  | .badPte _ _ => 5
  | .park _ _ _ => 6

/-- A launch fault is reported (17 R291). -/
def launchFault (s : State) (p : Nat) (raw : BitVec 1024) (status : Nat) (info : DWord) : State :=
  let f := fieldsOf raw
  postEvent s p (.launchFault (BitVec.ofNat 64 f.kobj) (BitVec.ofNat 64 f.cfut) f.ctrans status info)

/-- The %tinfo value that a thread would get where an engine meets PARK (17 R291, 13 R218). -/
def parkInfo (s : State) (o : Obj) (t : Nat) : DWord :=
  match lookEntry s o t with
  | .ok (c, st, e) => stagedInfo false 0x01 c st t 0xF e
  | .error (r, c, st) => stagedInfo false r c st t 0 0

/-- The answer of an engine's transition for an entry (17 R291). An uncorrectable error in the completion future is a launch fault with %tinfo
0: the spec names none (log 117). -/
def entryAnswer (s : State) (p : Nat) (raw : BitVec 1024) (status : Nat) (o : Obj) (t : Nat) : TOut → State
  | .fault _ i => launchFault s p raw status i
  | .park => launchFault s p raw status (parkInfo s o t)
  | .bad => launchFault s p raw status 0
  | _ => s

/-- The die whose tables the chip's units use for a context: the first of its partition. -/
def firstDie (s : State) (p : Nat) : Nat := (getPart s p).dies.headD 0

/-- The completion logic performs CTRANS on CFUT with a status (17 R281, R290). -/
def completeFuture (s : State) (p ctx : Nat) (raw : BitVec 1024) (status : Nat) : State :=
  let f := fieldsOf raw
  if f.cfut = 0 then s
  else
    let die := firstDie s p
    let out := checkAddr s ctx die f.cfut (stagedNeed true true 0b1111) s.fresh
    let s := countWalk s ctx die f.cfut (stagedNeed true true 0b1111)
    match out with
    | .ok pa l =>
      let o : Obj := { ctx := ctx, part := p, die := die, pa := pa, va := f.cfut, prop := l.prop, via := none }
      let x := BitVec.ofNat 64 status
      let org := Origin.entry p raw status
      let q := engineWaits (startClear s l.uns pa) o f.ctrans
      let s := q.1
      if q.2 then
        engineReq s o org 0 (die * Config.coresPerDie) (.trans f.ctrans x (BitVec.ofNat 64 f.cfut)) false
      else match transition s o f.ctrans x .engine with
        | (s, .full) => engineReq s o org 0 (die * Config.coresPerDie) (.trans f.ctrans x (BitVec.ofNat 64 f.cfut)) true
        | (s, .chain st old code va pa l) =>
          engineReq s (o.next va pa l) org 0 (die * Config.coresPerDie) (.chain code x (BitVec.ofNat 64 va) (st, old)) false
        | (s, r) => entryAnswer s p raw status o f.ctrans r
    | r => launchFault (logPte s r) p raw status (BitVec.ofNat 64 (failedCheck r))

/-! ### Kernel headers (05 R87 to R91) -/

/-- The fields of a header's 512 bits (05 R87). -/
def headerOf (x : Nat) : Header :=
  { magic := bits x 15 0, dclass := bits x 31 16, tlen := bits x 63 32, entry := bits x 95 64, traph := bits x 127 96
    vregs := bits x 136 128, sregs := bits x 151 144, sdata := bits x 191 160, bars := bits x 196 192
    queues := bits x 203 200, stcls := bits x 223 208, tsets := bits x 235 224, prodg := bits x 263 256
    array := bit x 264, help := bit x 265, policy := bits x 267 266, gather := bits x 279 272, hold := bits x 287 280
    seqn := bits x 294 288, wgt := bits x 319 304, seqofs := bits x 351 320
    rz := bits x 511 352 + bits x 303 295 + bits x 271 268 + bits x 255 236 + bits x 207 204 + bits x 199 197
      + bits x 159 152 + bits x 143 137 }

/-- The number of groups of a workgroup (04 R57). -/
def Header.groups (h : Header) : Nat := ceilDiv h.wgt 32

/-- Whether a header exceeds a floor limit (05 R89). -/
def Header.aboveFloor (h : Header) : Bool :=
  h.vregs > 128 || h.sregs > 64 || h.sdata > 4 * 2 ^ 20 || h.tlen > 21845 || h.bars > 16 || h.queues > 8
    || h.stcls ≥ 2 ^ 8 || h.seqn > 16 || h.wgt > 512

/-- Whether every field of a header lies in its range and within the limits of class 0x0940 (05 R87, R89). -/
def Header.inRange (h : Header) : Bool :=
  h.rz == 0 && decide (1 ≤ h.tlen) && decide (h.tlen ≤ 87381) && decide (h.entry < h.tlen) && decide (h.traph < h.tlen)
    && decide (1 ≤ h.vregs) && decide (h.vregs ≤ 256) && decide (1 ≤ h.sregs) && decide (h.sregs ≤ 128)
    && h.sdata % 256 == 0 && decide (h.sdata ≤ 7 * 2 ^ 20) && decide (h.bars ≤ 16) && decide (h.queues ≤ 8)
    && (h.tsets == 0 || ((rangeFrom 0 12).any (fun k => h.tsets == 2 ^ k)))
    && decide (1 ≤ h.wgt) && decide (h.wgt ≤ 512) && (h.prodg == 0xFF || decide (h.prodg < h.groups))
    && decide (h.policy ≤ 2) && decide (h.seqn ≤ 64)
    && (h.seqn == 0 || (h.seqofs % 4 == 0 && decide (64 + 12 * h.tlen ≤ h.seqofs)))

/-- Whether every byte of a range passes as an ordinary read (05 R88 step 3): one byte of each 64 KiB page is checked. -/
def rangeReadable (s : State) (ctx die a n : Nat) : Bool :=
  (rangeFrom (a / 65536) ((a + n + 65535) / 65536 - a / 65536)).all (fun k =>
    match checkAddr s ctx die (max a (65536 * k)) (Need.plainRead 1) 0 with
    | .ok _ _ => true
    | _ => false)

/-- The descriptor of sequence k, when it can be read; one with an uncorrectable error cannot (05 R91, log 61). -/
def seqDesc (s : State) (ctx die kobj : Nat) (h : Header) (k : Nat) : Option Nat :=
  let va := kobj + h.seqofs + 4 * k
  if virtBad s ctx die va 4 then none else readVirtNat s ctx die va 4

/-- The operation counts of a kernel's sequences, when its sequence area has no fault (05 R91). -/
def seqArea (s : State) (ctx die kobj : Nat) (h : Header) : Option (List (BitVec 8 × Nat)) :=
  (rangeFrom 0 h.seqn).mapM (fun k => do
    let d ← seqDesc s ctx die kobj h k
    let n := bits d 5 0
    if bits d 31 16 ≠ 0 ∨ bits d 7 6 ≠ 0 ∨ n = 0 ∨ n > 32 then none else pure (BitVec.ofNat 8 (d / 256), n))

/-- Whether the operations of a sequence area are all readable (05 R91). An area that goes on into a following mapped page is readable:
"extends past the end of a mapped page" is read as going on into a page that is not (log 102). -/
def seqsReadable (s : State) (ctx die kobj : Nat) (h : Header) (q : List (BitVec 8 × Nat)) : Bool :=
  h.seqn == 0 || rangeReadable s ctx die (kobj + h.seqofs) (4 * h.seqn + 12 * (q.map Prod.snd).sum)

/-- What the checks of a kernel object, and the read of its sequence descriptors, do besides their outcome (10 R171, R174, 01 R20). -/
def logKernel (s : State) (ctx die kobj : Nat) (h : Header) : State :=
  let s := logRange s ctx die (kobj + 64) (12 * h.tlen)
  if h.seqn = 0 then s
  else
    let s := meetRange (logRange s ctx die (kobj + h.seqofs) (4 * h.seqn)) ctx die (kobj + h.seqofs) (4 * h.seqn)
    match seqArea s ctx die kobj h with
    | some q => logRange s ctx die (kobj + h.seqofs + 4 * h.seqn) (12 * (q.map Prod.snd).sum)
    | none => s

/-- The status with which a header is refused, if it is (05 R88). -/
def headerStatus (s : State) (ctx die kobj : Nat) (h : Header) : Option Nat :=
  if h.magic ≠ 0x5A4B then some 0x15
  else if (h.dclass ≠ 0 ∧ h.dclass ≠ 0x0940) ∨ (h.dclass = 0 ∧ h.aboveFloor) then some 0x14
  else if !h.inRange then some 0x15
  else if !rangeReadable s ctx die (kobj + 64) (12 * h.tlen) then some 0x15
  else match seqArea s ctx die kobj h with
    | none => some 0x15
    | some q => if seqsReadable s ctx die kobj h q then none else some 0x15

/-! ### Admission (17 R277 to R281) -/

/-- The absolute deadline of an entry at an instant (17 R272). -/
def absDeadline (f : LFields) (t : Nat) : Nat := (if f.subrel then f.subt else t) + 1000 * f.deadline

/-- The remaining budget of an entry (17 R280). -/
def Entry.rem (e : Entry) : Nat := e.budget - e.charge

/-- The entries that take part in the demand test (17 R279, R280). -/
def demandSet (p : Part) : List Entry := p.entries.filter (fun e => e.status.isNone && !e.demoted)

/-- The demand test of a new entry with deadline d and budget c (17 R279). -/
def demandOk (p : Part) (t d c : Nat) : Bool :=
  let es := (demandSet p).map (fun e => (e.d, e.rem))
  let n := p.cores.length
  (d :: (es.map Prod.fst).filter (· ≥ d)).all (fun dk =>
    decide (4 * (((es.filter (fun e => e.1 ≤ dk)).map Prod.snd).sum + c : Int) ≤ 5 * n * ((dk : Int) - t - p.params.lbound)))

/-- Where the checker takes its next entry from (17 R277). -/
inductive Source where
  | store
  | spill (ctx : Nat)
  | slot (k : Nat)
  | migrant (ctx : Nat)

/-- The contexts of a partition that have entries in their spill rings. -/
def spillers (s : State) (p : Nat) : List Nat :=
  (s.ctxs.filter (fun c => c.2.part == p && !c.2.spill.isEmpty)).map Prod.fst

/-- HPRI of the queue in a slot (21 R342). -/
def slotHpri (s : State) (p k : Nat) : Nat :=
  match ((getPart s p).slots.getD k Slot.free).queue with
  | none => 0
  | some _ => bits ((getPart s p).slots.getD k Slot.free).qcb 303 300

/-- The slot that offers its entry: the highest HPRI, in turn among equals (21 R341). -/
def offeringSlot (s : State) (p : Nat) : Option Nat :=
  let x := getPart s p
  let ks := (rangeFrom 0 16).filter (fun k => !(x.slots.getD k Slot.free).present.isEmpty)
  let top := ks.foldl (fun m k => max m (slotHpri s p k)) 0
  let ks := ks.filter (fun k => slotHpri s p k == top)
  match ks.find? (· > x.rr) with
  | some k => some k
  | none => ks.head?

/-- The sources that have an entry to present: the store before the spill rings, the slots beside them, and the entries of contexts that have come
from another device (17 R277, 22 R359). -/
def sources (s : State) (p : Nat) : List Source :=
  (if !(getPart s p).store.isEmpty then [.store] else (spillers s p).map Source.spill)
    ++ ((offeringSlot s p).toList.map Source.slot)
    ++ ((s.ctxs.filter (fun c => c.2.part == p && !c.2.migrants.isEmpty)).map (fun c => Source.migrant c.1))

/-- Wake the lanes that sleep for a place in the store or a spill ring, for every context of a partition (13 R215). -/
def wakeRings (s : State) (p : Nat) : State :=
  (s.ctxs.filter (fun c => c.2.part == p)).foldl (fun s c => sendWakes s p none c.1) s

/-- The entry of a context that has come from another device, as it is presented at an instant: d is what is left of D, rounded up to whole µs, and
counts from now; the budget is what remained (22 R359 step 6). -/
def Migrant.present (m : Migrant) (t : Nat) : BitVec 1024 :=
  let n := m.raw.toNat
  BitVec.ofNat 1024 (n - bits n 159 128 * 2 ^ 128 + ceilDiv (m.d - t) 1000 % 2 ^ 32 * 2 ^ 128 - bits n 167 167 * 2 ^ 167)

/-- An entry of a context as it is presented for admission. -/
structure Offer where
  raw : BitVec 1024
  ctx : Nat
  old : Option Migrant     -- what it has come to on another device

/-- Take the entry of a source. -/
def takeSource (s : State) (p : Nat) : Source → Option (State × Offer)
  | .store => match (getPart s p).store with
    | [] => none
    | e :: es => some (wakeRings (modPart s p (fun x => { x with store := es })) p, { raw := e.1, ctx := e.2, old := none })
  | .spill c => match ((getCtx s c).map Ctx.spill).getD [] with
    | [] => none
    | e :: es => some (wakeRings (modCtx s c (fun x => { x with spill := es })) p, { raw := e, ctx := c, old := none })
  | .migrant c => match ((getCtx s c).map Ctx.migrants).getD [] with
    | [] => none
    | m :: ms => some (modCtx s c (fun x => { x with migrants := ms }), { raw := m.present (dtime s), ctx := c, old := some m })
  | .slot k =>
    let x := getPart s p
    match x.slots[k]? with
    | none => none
    | some sl => match sl.present, sl.queue with
      | e :: es, some _ =>
        some (modPart s p (fun x => { x with slots := modAt x.slots k (fun y => { y with present := es }), rr := k }),
          { raw := e, ctx := bits sl.qcb 107 88, old := none })
      | _, _ => none

/-- The code with which an entry is refused, or its header (17 R277). -/
def admissionCode (s : State) (p ctx : Nat) (raw : BitVec 1024) : Except Nat (Header × Nat) :=
  let x := getPart s p
  let f := fieldsOf raw
  let t := dtime s
  let d := absDeadline f t
  let die := firstDie s p
  if x.quiet then .error 0x16
  else if malformed x.cores raw then .error 0x15
  else match checkAddr s ctx die f.kobj (Need.plainRead 64) 0 with
    | .ok pa l =>
      let h := headerOf (((readVirtNat s ctx die f.kobj 64)).getD 0)
      if !zeroed s l pa && memBad s pa 64 then .error 0x15
      else match headerStatus s ctx die f.kobj h with
        | some c => .error c
        | none =>
          if f.deadline < 1 ∨ (d : Int) - t ≤ x.params.lbound then .error 0x11
          else if f.budget < 1 ∨ f.budget > 2 ^ 47 then .error 0x12
          else if (x.entries.filter (fun e => e.status.isNone)).length ≥ 4096 then .error 0x13
          else if !demandOk x t d f.budget then .error 0x10
          else .ok (h, pa)
    | _ => .error 0x15

/-- The lowest free index of the list (17 R294). -/
def freeIndex (p : Part) : Nat :=
  ((rangeFrom 0 4096).find? (fun k => !p.entries.any (fun e => e.qe == k && e.status.isNone))).getD 0

/-- The ranges of an entry in which some workgroups have ended and others are saved: its pinned clusters, its saved ones, and those never placed
(17 R284, R285, 22 R359). -/
def rangesOf (f : LFields) (old : Option Migrant) : List Nat × Range :=
  let k := f.pinClusters
  let all := f.grid / f.clw
  match old with
  | none => (rangeFrom 0 k, { saved := [], lo := k, n := all - k })
  | some m =>
    let has (l : List Nat) (j : Nat) : Bool := l.any (fun n => n / f.clw == j)
    let saved := m.wgs.map Wg.wgid
    let seen := (rangeFrom k (all - k)).filter (fun j => has saved j || has m.ended j)
    let lo := seen.foldl (fun x j => max x (j + 1)) k
    ((rangeFrom 0 k).filter (fun j => has saved j || !has m.ended j),
     { saved := (rangeFrom k (lo - k)).filter (fun j => has saved j || !has m.ended j), lo := lo, n := all - lo })

/-- Add an admitted entry to the list (17 R281, R284), with the saved workgroups that it brings from another device (22 R359). -/
def addEntry (s : State) (p : Nat) (o : Offer) (h : Header) (kernel : Nat) : State :=
  let f := fieldsOf o.raw
  let x := getPart s p
  let r := rangesOf f o.old
  let e : Entry :=
    { qe := freeIndex x, raw := o.raw, ctx := o.ctx, d := absDeadline f (dtime s), budget := f.budget, charge := 0, fresh := 0
      order := x.nextOrder, demoted := false, overrun := none, hdr := h, kernel := kernel
      chip := r.2, dies := [], cls := [], pinned := r.1, ended := o.old.elim [] Migrant.ended, lastEnd := o.old.elim 0 Migrant.lastEnd
      status := none }
  let s := modPart s p (fun x => { x with entries := x.entries ++ [e], nextOrder := x.nextOrder + 1 })
  match o.old with
  | none => s
  | some m => { s with wgs := s.wgs ++ m.wgs.map (fun g => { g with part := p, ctx := o.ctx, qe := e.qe, order := e.order, kernel := kernel, hdr := h }) }

/-- Whether a multiple of 1,000 ns has come at which a partition's charges have not been folded (17 R280). -/
def foldDue (s : State) (p : Nat) : Bool :=
  (getPart s p).setup.isSome && decide ((getPart s p).lastFold < dtime s / 1000 * 1000)

/-- What the reads and checks of an admission do besides their outcome (10 R171, R174, 01 R20, 17 R277 step 3). -/
def logAdmission (s : State) (p ctx : Nat) (raw : BitVec 1024) : State :=
  let die := firstDie s p
  let kobj := (fieldsOf raw).kobj
  if (getPart s p).quiet || malformed (getPart s p).cores raw then s
  else
    let s := meetRange (logRange s ctx die kobj 64) ctx die kobj 64
    match readVirtNat s ctx die kobj 64 with
    | none => s
    | some x => if (headerOf x).magic = 0x5A4B && (headerOf x).inRange then logKernel s ctx die kobj (headerOf x) else s

/-- ADMISSION_DECISION: the checker decides the next entry that the arbiter presents, with the charges of the latest fold (17 R277, R280,
R281). An entry of a killed context ends with 0x20 (R292). -/
def execAdmissionDecision (p : Nat) (s : State) : Host.Outcome State Fault Refusal :=
  let ss := sources s p
  match ss[Config.arbiter s.tick % ss.length]? with
  | none => .next s
  | some src => match if foldDue s p then none else takeSource s p src with
    | none => .next s
    | some (s, o) =>
      let raw := o.raw
      let ctx := o.ctx
      if (getCtx s ctx).any Ctx.dead then .next (completeFuture s p ctx raw 0x20)
      else
        let s := logAdmission s p ctx raw
        match admissionCode s p ctx raw with
        | .ok (h, pa) => .next (addEntry s p o h pa)
        | .error c => .next (completeFuture s p ctx raw c)

/-! ### `enq`, `ldqe`, `tmset` (17 R295 to R298) -/

/-- What `enq` needs of the entry's page. -/
def enqNeed : Need := { align := 128, rd := true, wr := false, ss := 0b0010 }

/-- `enq` of one lane, or of a group: `al` are its active lanes among those of the bundle, `ls` (17 R296). -/
def enqLane (h : Hdr) (s : State) (w t : Nat) (al ls : List Nat) (d a : Opnd) : State × End :=
  let g := getWg s w
  let va := (readPair g t a).toNat
  match access s w va enqNeed with
  | (s, .error e) => (s, e)
  | (s, .ok (pa, _)) =>
    let r := tryRelease s w al al 0b1111 0b0010
    if !r.2 || clearingAt r.1 pa then (r.1, .stay .drain)
    else
      let s := coreMeets (sendCombsAt r.1 (clusterOf g.core) pa 128) g.core g.part pa 128
      if coreBad s g.core pa 128 then (s, .trap 0x15 0 (BitVec.ofNat 64 va))
      else
        let raw := BitVec.ofNat 1024 (coreRead s g.core pa 128)
        let st : Nat := if malformed (getPart s g.part).cores raw then 2
          else if (getPart s g.part).store.length ≥ 1024 then 1 else 0
        let s := if st = 0 then modPart s g.part (fun x => { x with store := x.store ++ [(raw, g.ctx)] }) else s
        let p (u : Nat) : Pend := { Pend.start h s.fresh .known (regWrites d [BitVec.ofNat 32 st]) 0 with
          closeTo := some (posAfter s (getWg s w) (thOf s w u)) }
        ((ls.foldl (fun s u => addPend s w u (if al.contains u then p u else { (p u).shared with closeTo := (p u).closeTo })) s).bump, .adv)

/-- `enq` (17 R296). -/
def execEnq (h : Hdr) (d a : Opnd) (s : State) : Host.Outcome State Fault Refusal :=
  .next (
    let w := s.bundle.wg
    if isUni d then
      (groupsOf s.bundle.lanes).foldl (fun s k =>
        let ls := laneGroup s k
        let al := ls.filter (fun t => activeIn h false (thOf s w t))
        match al with
        | [] => ls.foldl (fun s t => finish s w t true .adv) s
        | t :: _ =>
          let r := enqLane h s w t al ls d a
          ls.foldl (fun s u => finish s w u false r.2) r.1) s
    else
      perLaneInOrder h false false true (fun s w t => enqLane h s w t [t] [t] d a) s)

/-- `ldqe` (17 R297). -/
def execLdqe (h : Hdr) (ty : Ty) (d a : Opnd) (imm : Word) (s : State) : Host.Outcome State Fault Refusal :=
  .next (execLoad h d (fun s w t =>
    let g := getWg s w
    let o := readTy g t .n32 a imm % 128
    let n := ty.width / 8
    let raw := ((entryOf s g).map (fun e => e.raw.toNat)).getD 0
    if o % n ≠ 0 then (s, .error (.trap 0x04 0 (BitVec.ofNat 64 o)))
    else (s, .ok (Pend.start h s.fresh .known (tyWrites d ty (raw / 2 ^ (8 * o) % 2 ^ ty.width)) 0))) s)

/-- `tmset` (17 R298). -/
def execTmset (h : Hdr) (a : Opnd) (imm : Word) (s : State) : Host.Outcome State Fault Refusal :=
  .next (perGroup h true false (fun s w al =>
    (modWg s w (fun g => { g with tmr := readTy g (al.headD 0) .n64 a imm }), .adv)) s)

end Sys2Proof.Machine
end

