-- ==== Sys2Proof/Machine/Packets.lean ====
section
/-!
DEFINITION. Packets.lean: link packets, their layout and their check (22 R363), and the sending side of streams (22 R362, R364, R371).
-/
namespace Sys2Proof

/-! ### The layout of a packet (22 R363) -/

/-- The 320 bits of a header, numbered as in the map of R363. -/
def Packet.bits (p : Packet) : Nat :=
  let f (w lo v : Nat) : Nat := v % 2 ^ w * 2 ^ lo
  f 4 316 p.ver + f 4 312 p.type + f 20 292 p.srcDev + f 20 272 p.dstDev + f 16 256 p.sEpoch + f 16 240 p.dEpoch + f 2 238 p.ch
    + f 2 236 p.op + f 1 235 (Machine.b2n p.last) + f 1 234 (Machine.b2n p.retx) + f 1 233 p.dir + f 1 232 (p.rz / 2 ^ 40) + f 32 200 p.psn
    + f 32 168 p.opsn + f 18 150 p.chunk + f 12 138 p.exp + f 32 106 p.offset + f 13 93 p.data.length + f 4 89 p.sub + f 4 85 p.ty
    + f 2 83 p.ord + f 3 80 p.scope + f 8 72 p.reason + f 8 64 (p.rz / 2 ^ 32) + f 32 32 p.credit + f 32 0 p.rz

/-- The 40 bytes of a header, most significant first (22 R363). -/
def Packet.header (p : Packet) : List Byte := (leBytes 40 p.bits).reverse

/-- One bit of the CRC-32C. -/
def crcBit (c : Word) : Word := if c.getLsbD 0 then (c >>> 1) ^^^ 0x82F63B78#32 else c >>> 1

/-- One byte of the CRC-32C. -/
def crcByte (c : Word) (b : Byte) : Word :=
  crcBit (crcBit (crcBit (crcBit (crcBit (crcBit (crcBit (crcBit (c ^^^ b.setWidth 32))))))))

/-- CRC-32C: the Castagnoli polynomial, reflected, from ones, complemented. -/
def crc32c (bs : List Byte) : Nat := (~~~ bs.foldl crcByte 0xFFFFFFFF#32).toNat

/-- The check of a packet: CRC-32C of the header and the data. -/
def Packet.check (p : Packet) : Nat := crc32c (p.header ++ p.data)

/-- The payload of the datagram that carries a packet: header, data, ICRC (22 R363; its byte order: log 106). -/
def Packet.payload (p : Packet) : List Byte := p.header ++ p.data ++ (leBytes 4 p.icrc).reverse

end Sys2Proof

namespace Sys2Proof.Machine

/-! ### Sequence numbers (22 R364) -/

/-- Sequence numbers count modulo 2^32. -/
def psnBefore (a b : Nat) : Bool := a % 2 ^ 32 != b % 2 ^ 32 && decide ((b + 2 ^ 32 - a % 2 ^ 32) % 2 ^ 32 < 2 ^ 31)

/-- The later of two sequence numbers. -/
def psnMax (a b : Nat) : Nat := if psnBefore a b then b else a

/-! ### Streams (22 R362, R364) -/

/-- A stream as it starts (22 R364). -/
def Stream.fresh (part dev ch : Nat) (out : Bool) (now : Nat) : Stream :=
  { part := part, dev := dev, ch := ch, out := out, dEpoch := 0
    snd := { next := 0, unacked := [], queue := [], credit := 63, timeout := 20000, since := now, last := now }
    rcv := { expect := 0, credit := 63, owed := 0, since := now }, opsn := 0, results := [], failed := [], lost := [] }

/-- Whether a stream is the one named. -/
def Stream.is (x : Stream) (part dev ch : Nat) (out : Bool) : Bool :=
  x.part == part && x.dev == dev && x.ch == ch && x.out == out

/-- The stream named, new where there is none yet. -/
def streamOf (s : State) (part dev ch : Nat) (out : Bool) : Stream :=
  (s.streams.find? (fun x => x.is part dev ch out)).getD (Stream.fresh part dev ch out (dtime s))

/-- Replace a stream, or add it. -/
def putStream (s : State) (x : Stream) : State :=
  { s with streams := if s.streams.any (fun y => y.is x.part x.dev x.ch x.out) then
      s.streams.map (fun y => if y.is x.part x.dev x.ch x.out then x else y) else s.streams ++ [x] }

/-! ### Packets of a stream (22 R363) -/

/-- Whether a receiver discards a packet without answer (22 R363). -/
def packetDropped (p : Packet) (type : Nat) : Bool := p.ver != 1 || p.type != type || p.rz != 0 || p.icrc != p.check

/-- A packet of a stream with its addressing, and the rest zero. -/
def packetOf (s : State) (st : Stream) (type : Nat) : Packet :=
  { ver := 1, type := type, srcDev := Config.deviceId.toNat, dstDev := st.dev, sEpoch := (getPart s st.part).epoch
    dEpoch := st.dEpoch, ch := st.ch, op := 0, last := false, retx := false, dir := 0, psn := 0, opsn := 0, chunk := 0, exp := 0
    offset := 0, sub := 0, ty := 0, ord := 0, scope := 0, reason := 0, credit := 0, rz := 0, data := [], icrc := 0 }

/-- A packet leaves by a die's port, with its check, the ports of its stream, and the addressing of the peer table (22 R362, R363). -/
def transmit (s : State) (die part : Nat) (p : Packet) : State :=
  let x := getPart s part
  modDev s (fun d => { d with sent := d.sent ++ [
    { die := die, srcPort := 0xC000 + (Config.portHash p.srcDev p.dstDev p.ch).toNat, dstPort := x.setup.elim 0xB5E4 PartSetup.port
      peer := SMap.find x.peers p.dstDev, pkt := { p with icrc := p.check } }] })

/-! ### Sending (22 R364) -/

/-- The packets of a link operation are charged to its entry (17 R287). -/
def chargeLink (s : State) (l : LinkOp) (n : Nat) : State :=
  let g := getWg s l.wg
  modEntryOf s g (fun e => { e with fresh := e.fresh + ceilDiv (Config.packetBytes n) 64 })

/-- Whether a stream has credit for a new packet (22 R364). -/
def Stream.mayBegin (st : Stream) : Bool := !psnBefore st.snd.credit st.snd.next

/-- Send the next new packet of a stream by a die's port, or keep it until there is credit (22 R364). -/
def sendNew (s : State) (die : Nat) (st : Stream) (p : Packet) : State :=
  if !st.mayBegin then putStream s { st with snd := { st.snd with queue := st.snd.queue ++ [(die, p)] } }
  else
    let p := { p with psn := st.snd.next }
    let st := { st with snd := { st.snd with
      next := (st.snd.next + 1) % 2 ^ 32, unacked := st.snd.unacked ++ [(die, p)]
      since := if st.snd.unacked.isEmpty then dtime s else st.snd.since
      last := if st.snd.unacked.isEmpty then dtime s else st.snd.last } }
    transmit (putStream s st) die st.part p

/-- Whether a stream carries a link operation. -/
def Stream.carries (s : State) (st : Stream) (l : LinkOp) : Bool :=
  st.out && (getWg s l.wg).part == st.part && l.dev == st.dev && l.ch == st.ch

/-- Send those of a stream's unacknowledged packets again that a test picks, in their order, with RETX set and the destination's epoch as it is now
known (22 R364). -/
def resendWhere (s : State) (st : Stream) (f : Packet → Bool) : State :=
  (st.snd.unacked.filter (fun x => f x.2)).foldl (fun s x =>
    let s := transmit s x.1 st.part { x.2 with retx := true, dEpoch := st.dEpoch }
    match s.links.find? (fun l => st.carries s l && l.opsn == x.2.opsn) with
    | some l => chargeLink s l x.2.data.length
    | none => s) s

/-- Send every unacknowledged packet of a stream again (22 R364). -/
def resend (s : State) (st : Stream) : State :=
  putStream (resendWhere s st (fun _ => true)) { st with snd := { st.snd with last := dtime s } }

/-- The link operations of a restored workgroup are sent again from their first unacknowledged chunk, under the same sequence numbers (22
R371). -/
def resendOps (s : State) (w : Nat) : State :=
  (s.links.filter (fun l => l.wg == w && !l.cancelled)).foldl (fun s l =>
    match s.streams.find? (fun st => st.carries s l) with
    | some st => resendWhere s st (fun p => p.opsn == l.opsn)
    | none => s) s

end Sys2Proof.Machine
end

