-- ==== Sys2Proof/Machine/Placement.lean ====
section
/-!
DEFINITION. Placement.lean: grants, the distributor tree, loading, placing and restoring workgroups, and their end (17 R283 to R286,
R290, 04 R57 to R61, R79, 05 R90 to R92, 08 R141 to R143, R153, 18 R312).
-/
namespace Sys2Proof.Machine

/-! ### Grants (17 R283, R285, R286) -/

/-- The partition to which a die belongs. -/
def partOfDie (s : State) (die : Nat) : Option Nat := s.parts.findIdx? (fun p => p.dies.contains die)

/-- The cores that an entry holds. -/
def heldCores (s : State) (p e : Nat) : List Nat := (getPart s p).cores.filter (fun c => (getCore s c).grant == some (p, e))

/-- Whether a workgroup occupies its core. -/
def Wg.onCore (g : Wg) : Bool := g.status == .resident || g.status == .cutting

/-- The workgroups on a core, by number. -/
def wgsOn (s : State) (core : Nat) : List Nat :=
  (rangeFrom 0 s.wgs.length).filter (fun w => (getWg s w).onCore && (getWg s w).core == core)

/-- The workgroups of an unfinished entry with some status. -/
def wgsOf (s : State) (p e : Nat) (f : WgStatus → Bool) : List Nat :=
  (rangeFrom 0 s.wgs.length).filter (fun w => ofEntry s p e (getWg s w) && f (getWg s w).status)

/-- Whether a core may take workgroup n of an entry, for its pin or its cluster's (17 R275). -/
def pinAllows (f : LFields) (n core : Nat) : Bool :=
  if n < f.pinned then f.pinCore n == core
  else if n / f.clw < f.pinClusters then
    (f.cluster (n / f.clw)).all (fun m => !decide (m < f.pinned) || clusterOf (f.pinCore m) == clusterOf core)
  else true

/-- The number of clusters of a range. -/
def Range.len (r : Range) : Nat := r.saved.length + r.n

/-- An empty range. -/
def Range.empty : Range := { saved := [], lo := 0, n := 0 }

/-- The first cluster of a range. -/
def Range.first (r : Range) : Option Nat := match r.saved with | j :: _ => some j | [] => if r.n = 0 then none else some r.lo

/-- A range cut after its first k clusters: those, and the rest. -/
def Range.cut (r : Range) (k : Nat) : Range × Range :=
  let m := min (k - r.saved.length) r.n
  ({ saved := r.saved.take k, lo := r.lo, n := m }, { saved := r.saved.drop k, lo := r.lo + m, n := r.n - m })

/-- Whether a context is quiesced for migration (22 R359). -/
def quietCtx (s : State) (c : Nat) : Bool := (getCtx s c).any (fun x => x.quiet)

/-- Where a workgroup that is not placed may go: on its pinned core, on a core-cluster where its cluster has a pin or other workgroups, or
anywhere (17 R275, R284). -/
inductive Bound where
  | pin (core : Nat)
  | cluster (cl : Nat)
  | free
  deriving DecidableEq, Repr

/-- Where workgroup n of an entry may go. -/
def boundOf (s : State) (p : Nat) (e : Entry) (n : Nat) : Bound :=
  let f := fieldsOf e.raw
  if n < f.pinned then .pin (f.pinCore n)
  else match (f.cluster (n / f.clw)).find? (· < f.pinned) with
    | some m => .cluster (clusterOf (f.pinCore m))
    | none => match (wgsOf s p e.qe (fun x => x == .resident || x == .cutting)).find? (fun w => (getWg s w).wgid / f.clw == n / f.clw) with
      | some w => .cluster (clusterOf (getWg s w).core)
      | none => .free

/-- The clusters of an entry that wait one by one: the pinned ones and those that ranges list. -/
def Entry.listed (e : Entry) : List Nat :=
  e.pinned ++ e.chip.saved ++ e.dies.flatMap (fun x => x.2.saved) ++ e.cls.flatMap (fun x => x.2.saved)

/-- Where the workgroups of an entry that are not placed, and are in no range as never placed, may go. -/
def bounds (s : State) (p : Nat) (e : Entry) : List Bound :=
  let f := fieldsOf e.raw
  let saved := (wgsOf s p e.qe (· == .saved)).map (fun w => (getWg s w).wgid)
  let new := (e.listed.flatMap f.cluster).filter (fun n =>
    !e.ended.contains n && (wgsOf s p e.qe (· != .ended)).all (fun w => (getWg s w).wgid != n))
  (saved ++ new).map (boundOf s p e)

/-- The number of workgroups of an entry that have never been placed and may go anywhere. -/
def Entry.anywhere (e : Entry) : Nat :=
  (e.chip.n + (e.dies.map (fun x => x.2.n)).sum + (e.cls.map (fun x => x.2.n)).sum) * (fieldsOf e.raw).clw

/-- Whether an entry places workgroups (17 R288, 22 R359). -/
def Entry.places (s : State) (e : Entry) : Bool := e.status.isNone && e.overrun.isNone && !quietCtx s e.ctx

/-- Whether an entry has a workgroup to place that a core could take (17 R283). -/
def couldUse (s : State) (p : Nat) (e : Entry) (core : Nat) : Bool :=
  e.places s && (decide (e.anywhere > 0)
    || (bounds s p e).any (fun b => b == .pin core || b == .cluster (clusterOf core) || b == .free))

/-- The cores an entry holds without a workgroup of its own on them. -/
def idleHeld (s : State) (p e : Nat) : List Nat :=
  (heldCores s p e).filter (fun c => !(wgsOn s c).any (fun w => ofEntry s p e (getWg s w)))

/-- Whether an entry can hold another core, this one (17 R282, R283): it has a workgroup pinned there; or, for each core that it holds idle
or would hold and has no pinned workgroup for, another that is not pinned elsewhere. -/
def canHold (s : State) (p : Nat) (e : Entry) (core : Nat) : Bool :=
  let bs := bounds s p e
  let cs := (core :: idleHeld s p e.qe).filter (fun c => !bs.contains (.pin c))
  let cls := (cs.map clusterOf).eraseDups
  let extra := cls.map (fun k => (cs.filter (fun c => clusterOf c == k)).length - bs.count (.cluster k))
  e.places s && (bs.contains (.pin core) || decide (extra.sum ≤ e.anywhere + bs.count .free))

/-- Whether entry a comes before entry b in the order of grants (17 R283). -/
def Entry.before (a b : Entry) : Bool :=
  if a.demoted != b.demoted then !a.demoted
  else if a.demoted || a.d == b.d then decide (a.order < b.order) else decide (a.d < b.d)

/-- The first of some entries in the order of grants. -/
def firstEntry (es : List Entry) : Option Entry :=
  es.foldl (fun m e => match m with | some x => if e.before x then some e else m | none => some e) none

/-- The last of some entries in the order of grants: of which a core is taken first (17 R285). -/
def lastEntry (es : List Entry) : Option Entry :=
  es.foldl (fun m e => match m with | some x => if x.before e then some e else m | none => some e) none

/-- The range of a distributor, and its replacement; an empty range is not listed. -/
def rangeOf (m : List (Nat × Range)) (k : Nat) : Range := SMap.get Range.empty m k
def setRange (m : List (Nat × Range)) (k : Nat) (r : Range) : List (Nat × Range) :=
  SMap.set Range.empty m k (if r.len = 0 then Range.empty else r)

/-- How many clusters a distributor hands on: in proportion to the granted cores, at least one (17 R284). -/
def share (n part whole : Nat) : Nat := if n = 0 then 0 else min n (max 1 (n * part / whole))

/-- The chip distributor hands a die distributor without a range a subrange from its front (17 R284). -/
def handDie (s : State) (p q die : Nat) : State :=
  let held := heldCores s p q
  modEntry s p q (fun e =>
    if (rangeOf e.dies die).len ≠ 0 then e
    else
      let x := e.chip.cut (share e.chip.len (held.filter (fun c => dieOf c == die)).length held.length)
      { e with dies := setRange e.dies die x.1, chip := x.2 })

/-- A die distributor hands a cluster distributor without a range a subrange from its front (17 R284). -/
def handCluster (s : State) (p q cl : Nat) : State :=
  let die := cl * Config.coresPerCluster / Config.coresPerDie
  let held := (heldCores s p q).filter (fun c => dieOf c == die)
  modEntry s p q (fun e =>
    if (rangeOf e.cls cl).len ≠ 0 then e
    else
      let r := rangeOf e.dies die
      let x := r.cut (share r.len (held.filter (fun c => clusterOf c == cl)).length held.length)
      { e with cls := setRange e.cls cl x.1, dies := setRange e.dies die x.2 })

/-- The earliest entry that can hold a core (17 R283). -/
def bestFor (s : State) (core : Nat) : Option (Nat × Entry) :=
  match partOfDie s (dieOf core) with
  | none => none
  | some p => (firstEntry ((getPart s p).entries.filter (fun e => canHold s p e core))).map (fun e => (p, e))

/-- CORE_GRANT: a free core is granted to the earliest entry that can hold it, and the distributors hand ranges on (17 R283,
R284). -/
def execCoreGrant (core : Nat) (s : State) : Host.Outcome State Fault Refusal :=
  if (getCore s core).grant.isSome || !(wgsOn s core).isEmpty then .next s
  else match bestFor s core with
    | none => .next s
    | some (p, e) =>
      let s := modCore s core (fun c => { c with grant := some (p, e.qe), preq := false, windowEnd := none })
      .next (handCluster (handDie s p e.qe (dieOf core)) p e.qe (clusterOf core))

/-- Take the back half of a sibling's range, rounded down (17 R284). -/
def stealHalf (m : List (Nat × Range)) (from' thief : Nat) : List (Nat × Range) :=
  let r := rangeOf m from'
  let x := r.cut (r.len - r.len / 2)
  setRange (setRange m from' x.1) thief x.2

/-- The sibling with the most clusters remaining, at least two, ties to the lower number (17 R284). -/
def richest (m : List (Nat × Range)) (f : Nat → Bool) : Option Nat :=
  ((m.filter (fun x => f x.1 && decide (x.2.len ≥ 2))).foldl (fun (b : Option (Nat × Nat)) x =>
    match b with
    | some y => if x.2.len > y.2 then some (x.1, x.2.len) else b
    | none => some (x.1, x.2.len)) none).map Prod.fst

/-- A grant ends when no workgroup of its holder is on the core and the holder has nothing more to place there, or the core is wanted
back (17 R286). -/
def endGrants (s : State) (cores : List Nat) : State :=
  cores.foldl (fun s c =>
    match (getCore s c).grant with
    | none => s
    | some (p, q) =>
      let more := match getEntry s p q with
        | none => false
        | some e => couldUse s p e c && !(getCore s c).preq
      if !more && !(wgsOn s c).any (fun w => ofEntry s p q (getWg s w)) then
        modCore s c (fun x => { x with grant := none, preq := false, windowEnd := none })
      else s) s

/-! ### Room on a core (04 R61, 06 R98, 08 R141, 05 R92) -/

/-- The first place for a region among used ones, at a multiple of 2,048. -/
def freeSpot (used : List (Nat × Nat)) (n : Nat) : Option Nat :=
  (0 :: used.map (fun r => roundUp (r.1 + r.2) 2048)).find? (fun a =>
    decide (a + n ≤ Config.spBytes) && !used.any (fun r => overlap a n r.1 r.2))

/-- The text regions of a core that a workgroup on it uses, or that hold a given kernel. -/
def keptTexts (s : State) (core kernel : Nat) : List Text :=
  (getCore s core).texts.filter (fun x => x.kernel == kernel || (wgsOn s core).any (fun w => (getWg s w).kernel == x.kernel))

/-- Regions that text and data occupy. -/
def usedSpace (s : State) (core : Nat) (texts : List Text) : List (Nat × Nat) :=
  texts.map (fun x => (x.base, 12 * x.tlen))
    ++ ((wgsOn s core).filter (fun w => (getWg s w).hdr.sdata > 0)).map (fun w =>
      ((getWg s w).base, roundUp (getWg s w).hdr.sdata 2048))

/-- Where the text and the data of a workgroup would go, with these texts kept. -/
def spots (s : State) (core kernel : Nat) (h : Header) (texts : List Text) : Option (Nat × Nat) :=
  let used := usedSpace s core texts
  match texts.find? (fun x => x.kernel == kernel) with
  | some x => (if h.sdata = 0 then some 0 else freeSpot used (roundUp h.sdata 2048)).map (fun b => (x.base, b))
  | none => (freeSpot used (12 * h.tlen)).bind (fun t =>
      (if h.sdata = 0 then some 0 else freeSpot ((t, 12 * h.tlen) :: used) (roundUp h.sdata 2048)).map (fun b => (t, b)))

/-- Control-store slots that some texts use. -/
def slotsUsed (texts : List Text) : Nat := (texts.map (fun x => x.seqs.length)).sum

/-- Sum of a resource over the workgroups of a core. -/
def usedOn (s : State) (core : Nat) (f : Wg → Nat) : Nat := ((wgsOn s core).map (fun w => f (getWg s w))).sum

/-- The first place for n consecutive tag sets among those that the workgroups of a core have (08 R159). -/
def freeSets (s : State) (core n : Nat) : Option Nat :=
  let used := ((wgsOn s core).filter (fun w => (getWg s w).hdr.tsets > 0)).map (fun w => ((getWg s w).tbase, (getWg s w).hdr.tsets))
  if n = 0 then some 0
  else (0 :: used.map (fun r => r.1 + r.2)).find? (fun a => decide (a + n ≤ 2048) && !used.any (fun r => overlap a n r.1 r.2))

/-- Whether group records, a slot, registers, tag sets and the Anvil are free for a workgroup (04 R61, 06 R98, 08 R159, 15 R249). -/
def roomFor (s : State) (core : Nat) (h : Header) (anvil : Bool) : Bool :=
  decide ((wgsOn s core).length < 8)
    && decide (usedOn s core (fun g => g.hdr.groups) + h.groups ≤ 64)
    && decide (usedOn s core (fun g => g.hdr.groups * roundUp g.hdr.vregs 8) + h.groups * roundUp h.vregs 8 ≤ 8192)
    && (freeSets s core h.tsets).isSome
    && (!anvil || !(wgsOn s core).any (fun w => (getWg s w).anvil.isSome))

/-! ### Loading (05 R90, R91) -/

/-- Read an instruction word in a context's tables, if the loader can. -/
def loadWord (s : State) (ctx die va : Nat) : Option IWord :=
  if virtBad s ctx die va 12 then none else (readVirtNat s ctx die va 12).map (BitVec.ofNat 96)

/-- Load n words: those that can be read, and the numbers of the others. -/
def loadWords (s : State) (ctx die va n : Nat) : List (Nat × IWord) × List Nat :=
  (rangeFrom 0 n).foldr (fun k r => match loadWord s ctx die (va + 12 * k) with
    | some x => (if x = 0 then r.1 else (k, x) :: r.1, r.2)
    | none => (r.1, k :: r.2)) ([], [])

/-- A sequence as the loader finds it: its kinds of parameters and its LEN, from its descriptor; none where that cannot be read. -/
def seqLens (s : State) (ctx die kobj : Nat) (h : Header) : List (Option (BitVec 8 × Nat)) :=
  (rangeFrom 0 h.seqn).map (fun k => (seqDesc s ctx die kobj h k).map (fun d => (BitVec.ofNat 8 (d / 256), bits d 5 0)))

/-- The sequences of a kernel as the loader reads them (05 R90, R91). Of a kernel object that has changed since admission, a sequence whose
descriptor cannot be read is uncorrectable, with no operations in the area; a slot holds the first 32 operations; a sequence without operations
acts as a word of zeros (log 61). -/
def loadSeqs (s : State) (ctx die kobj : Nat) (h : Header) : List MSeq :=
  let lens := seqLens s ctx die kobj h
  lens.mapIdx (fun k q => match q with
    | none => { pk := 0, ops := [0], bad := [0] }
    | some q =>
      let first := kobj + h.seqofs + 4 * h.seqn + 12 * ((lens.take k).map (fun x => x.elim 0 Prod.snd)).sum
      let r := loadWords s ctx die first (min 32 q.2)
      { pk := q.1, ops := (rangeFrom 0 (min 32 q.2)).map (SMap.get 0 r.1), bad := r.2 })

/-- The text and sequences of a kernel, loaded at a core address (05 R90). -/
def loadText (s : State) (ctx die kobj kernel base : Nat) (h : Header) : Text :=
  let r := loadWords s ctx die (kobj + 64) h.tlen
  { kernel := kernel, base := base, tlen := h.tlen, words := r.1, bad := r.2, seqs := loadSeqs s ctx die kobj h }

/-- What the reads of a loading do besides their outcome: they start the clears that they meet, and the errors that they correct are counted (10
R174, 01 R20). -/
def meetKernel (s : State) (ctx die kobj : Nat) (h : Header) : State :=
  let ops := ((seqLens s ctx die kobj h).map (fun x => x.elim 0 Prod.snd)).sum
  meetRange (meetRange s ctx die (kobj + 64) (12 * h.tlen)) ctx die (kobj + h.seqofs + 4 * h.seqn) (12 * ops)

/-- Whether a kernel and a data region fit on a core with these texts kept: the core addresses of its text and data. -/
def fits (s : State) (core kernel : Nat) (h : Header) (texts : List Text) : Option (Nat × Nat) :=
  if slotsUsed texts + (if texts.any (fun x => x.kernel == kernel) then 0 else h.seqn) ≤ 64 then spots s core kernel h texts else none

/-- The texts of a core that stay beside a kernel: those in use, and, one by one from the latest loaded to the first, those of the others beside
which the kernel still fits (05 R90). Which unused text is evicted is the model's choice (log 65). -/
def texts? (s : State) (core kernel : Nat) (h : Header) : List Text :=
  let kept := keptTexts s core kernel
  let all := (getCore s core).texts
  let stay := (all.filter (fun x => !kept.contains x)).reverse.foldl (fun ts x =>
    if (fits s core kernel h (ts ++ [x])).isSome then ts ++ [x] else ts) kept
  all.filter (fun x => stay.contains x)

/-- Make room on a core for a kernel and a data region, evicting unused texts whose space is needed, and load the text if it is not there: the
state, and the core address of the data region; none where there is no room (05 R90, R92, 08 R141). -/
def makeRoom (s : State) (core ctx kobj kernel : Nat) (h : Header) : Option (State × Nat) :=
  let texts := texts? s core kernel h
  (fits s core kernel h texts).map (fun b =>
    if texts.any (fun x => x.kernel == kernel) then (modCore s core (fun c => { c with texts := texts }), b.2)
    else
      let s := meetKernel (logKernel s ctx (dieOf core) kobj h) ctx (dieOf core) kobj h
      (modCore s core (fun c => { c with texts := texts ++ [loadText s ctx (dieOf core) kobj kernel b.1 h] }), b.2))

/-! ### Stealing (17 R284) -/

/-- The saved workgroups of cluster j of an entry, in ascending position. -/
def savedOf (s : State) (p : Nat) (e : Entry) (j : Nat) : List Nat :=
  (rangeFrom 0 (fieldsOf e.raw).clw).filterMap (fun k =>
    (wgsOf s p e.qe (· == .saved)).find? (fun w => (getWg s w).wgid == j * (fieldsOf e.raw).clw + k))

/-- Whether an entry's granted cores of some core-cluster could take a cluster of its workgroups: enough of them have room (04 R61). -/
def canTake (s : State) (p : Nat) (e : Entry) (j cl : Nat) : Bool :=
  let n := match (savedOf s p e j).length with | 0 => (fieldsOf e.raw).clw | m => m
  decide (n ≤ ((heldCores s p e.qe).filter (fun c => clusterOf c == cl && !(getCore s c).preq && roomFor s c e.hdr e.hdr.array
    && (fits s c e.kernel e.hdr (texts? s c e.kernel e.hdr)).isSome)).length)

/-- DISTRIBUTOR_STEAL: a die distributor (level 0) or a cluster distributor (level 1) with an empty range, and granted cores that could take
what it gets, takes from a sibling, or from its parent (17 R284). -/
def execDistributorSteal (p e level thief : Nat) (s : State) : Host.Outcome State Fault Refusal :=
  match getEntry s p e with
  | none => .next s
  | some x =>
    let take (m : List (Nat × Range)) (f : Nat → Bool) (parent : State) (set : List (Nat × Range) → State)
        (mine : Entry → Range) (cls : List Nat) : State :=
      let t := match richest m f with
        | some k => set (stealHalf m k thief)
        | none => parent
      match (getEntry t p e).bind (fun y => (mine y).first) with
      | some j => if cls.any (canTake s p x j) then t else s
      | none => s
    if level = 0 then
      if (rangeOf x.dies thief).len ≠ 0 then .next s
      else .next (take x.dies (fun _ => true) (handDie s p e thief) (fun m => modEntry s p e (fun x => { x with dies := m }))
        (fun y => rangeOf y.dies thief) (rangeFrom (8 * thief) 8))
    else
      let die := thief * Config.coresPerCluster / Config.coresPerDie
      if (rangeOf x.cls thief).len ≠ 0 then .next s
      else .next (take x.cls (fun k => k * Config.coresPerCluster / Config.coresPerDie == die) (handCluster s p e thief)
        (fun m => modEntry s p e (fun x => { x with cls := m })) (fun y => rangeOf y.cls thief) [thief])

/-! ### Placing (04 R59, R60, 17 R284) -/

/-- What lane i of a workgroup of a kernel is (04 R59). -/
def laneKind (h : Header) (i : Nat) : LaneKind :=
  if i < h.wgt then .real
  else if h.help && h.wgt % 4 != 0 && decide (i < ceilDiv h.wgt 4 * 4) then .helper else .absent

/-- A thread record at placement (04 R60, 06 R98, R103). -/
def freshThread (k : LaneKind) (entry : Nat) : Thread :=
  { Thread.none with kind := k, live := k != .absent, npc := BitVec.ofNat 32 entry, irs := posWord false 0 0 entry }

/-- A workgroup at placement (04 R61, 06 R98, 08 R143, R159, 14 R229, R235, R237, 15 R250). -/
def freshWg (p ctx q order wgid clid core kernel base tbase : Nat) (h : Header) : Wg :=
  { status := .resident, part := p, ctx := ctx, qe := q, order := order, wgid := wgid, clid := clid, core := core, kernel := kernel, hdr := h
    threads := (rangeFrom 0 (32 * h.groups)).map (fun i => freshThread (laneKind h i) h.entry)
    groups := List.replicate h.groups { u := [], badu := [] }, data := [], badd := [], base := base
    bars := List.replicate h.bars (Barrier.fresh h.groups), queues := List.replicate h.queues Queue.fresh, tags := [], tbase := tbase, badTags := []
    chans := List.replicate 4 { ip := 0, wp := 0, fault := none }, copies := [], copyNum := 0
    anvil := if h.array then some Anvil.fresh else none, tmr := 0, tmrDue := false, ctxcyc := 0, bundles := []
    savedOwn := [], savedFaults := [], cutAt := none }

/-- The entries of a cluster in its core-cluster's ownership table are written back (08 R153). -/
def restoreOwn (s : State) (cl : Nat) (g : Wg) : State :=
  g.savedOwn.foldl (fun s e =>
    setOwn s cl e.1 { live := true, gen := e.2.1, owner := ownerOf g, spos := e.2.2.1, base := e.2.2.2.1, lenm := e.2.2.2.2.1
                      holder := e.2.2.2.2.2 }) s

/-- A thread restarts: a rewound one at its %irs (18 R310, R312). -/
def Thread.restart (th : Thread) : Thread := if th.rewound then { th.goPos th.irs with rewound := false } else th

/-- Link results kept for the scratchpad of a saved workgroup are written (22 R371). -/
def writeKept (s : State) (w : Nat) : State :=
  let s := (s.links.filter (fun l => l.wg == w)).foldl (fun s l =>
    l.result.foldl (fun s r => modWg s w (fun g => g.spWrite (l.loc.toNat + r.1) r.2)) s) s
  { s with links := s.links.map (fun l => if l.wg == w then { l with result := [] } else l) }

/-- The asynchronous traps that are pending in the lanes of a restored workgroup are taken before anything else, in a wait too (18 R312). -/
def takePending (s : State) (w : Nat) : State :=
  let ts := (rangeFrom 0 (getWg s w).threads.length).filter (fun t => (thOf s w t).live && (asyncTrap (thOf s w t)).isSome)
  if ts.isEmpty then s
  else dropWaits (ts.foldl (fun s t => match asyncTrap (thOf s w t) with
    | some a => takeBoundary (endEarly s w t true) w t (a.1, a.2, 0)
    | none => s) s) w

/-- The groups that wait to pop, in every queue, take the entries that came while they could not (14 R236, 18 R308). -/
def servePops (s : State) (w : Nat) : State :=
  (rangeFrom 0 (getWg s w).queues.length).foldl (fun s n =>
    (getQueue (getWg s w) n).popW.foldl (fun s _ => servePop s w n) s) s

/-- Restore a saved workgroup on a core: its data region and its tag sets may lie elsewhere, pending asynchronous traps are taken first, a thread
that faults on a page again posts a new record, and its link operations are sent again (18 R310, R312, 22 R371). -/
def restoreWg (s : State) (w core base : Nat) : State :=
  let g := getWg s w
  let sets := (freeSets s core g.hdr.tsets).getD 0
  let s := writeKept (restoreOwn s (clusterOf core) g) w
  let s := takePending (modWg s w (fun g => { g with
    status := .resident, core := core, base := base, tbase := sets, savedOwn := [], savedFaults := []
    threads := g.threads.map Thread.restart })) w
  resendOps (streamWakes (servePops s w) w) w

/-- Place new workgroup n of an entry on a core; none where it has no room. -/
def placeNew (s : State) (p : Nat) (e : Entry) (n core : Nat) : Option State :=
  let f := fieldsOf e.raw
  if !roomFor s core e.hdr e.hdr.array then none
  else (makeRoom s core e.ctx f.kobj e.kernel e.hdr).map (fun r =>
    { r.1 with wgs := r.1.wgs ++ [freshWg p e.ctx e.qe e.order n (n % f.clw) core e.kernel r.2 ((freeSets s core e.hdr.tsets).getD 0) e.hdr] })

/-- Place saved workgroup w on a core; none where it has no room. -/
def placeSaved (s : State) (e : Entry) (w core : Nat) : Option State :=
  let g := getWg s w
  if !roomFor s core e.hdr g.anvil.isSome || g.savedOwn.any (fun x => (getOwn s (clusterOf core) x.1).live) then none
  else (makeRoom s core e.ctx (fieldsOf e.raw).kobj e.kernel e.hdr).map (fun r => restoreWg r.1 w core r.2)

/-- Whether some cores may take workgroups of an entry: granted, not wanted back, distinct, of one core-cluster (17 R284, 18 R307). -/
def coresOk (s : State) (p e : Nat) (cores : List Nat) : Bool :=
  cores.all (fun c => (getCore s c).grant == some (p, e) && !(getCore s c).preq
      && clusterOf c == clusterOf (cores.headD 0))
    && cores.eraseDups.length == cores.length

/-- Run steps that may have no room: all or nothing. -/
def allOf {α : Type} (s : State) (f : State → α → Option State) : List α → Option State
  | [] => some s
  | x :: xs => (f s x).bind (fun s => allOf s f xs)

/-- Take cluster j out of the range of the cluster distributor that is to place it, where it is the first, or out of the pinned ones; a
saved cluster of which some workgroups are on cores is in no range. None where it is not this distributor's to place. -/
def takeCluster (s : State) (p : Nat) (e : Entry) (j cl : Nat) : Option State :=
  let r := rangeOf e.cls cl
  if e.pinned.contains j then some (modEntry s p e.qe (fun e => { e with pinned := e.pinned.filter (· != j) }))
  else if r.first = some j then some (modEntry s p e.qe (fun e => { e with cls := setRange e.cls cl (r.cut 1).2 }))
  else if (wgsOf s p e.qe (fun x => x == .resident || x == .cutting)).any (fun w => (getWg s w).wgid / (fieldsOf e.raw).clw == j)
      && !(savedOf s p e j).isEmpty then some s
  else none

/-- Whether the members of cluster j that are on cores are on a core-cluster. -/
def siblingsOn (s : State) (p : Nat) (e : Entry) (j cl : Nat) : Bool :=
  (wgsOf s p e.qe (fun x => x == .resident || x == .cutting)).all (fun w =>
    (getWg s w).wgid / (fieldsOf e.raw).clw != j || clusterOf (getWg s w).core == cl)

/-- WORKGROUP_PLACEMENT: cluster j of entry e is placed on granted cores, one for each workgroup, or its saved workgroups are restored
there (17 R284, 04 R61, 18 R312). An entry that has nothing more to place loses its empty cores (17 R286). -/
def execWorkgroupPlacement (p e cl : Nat) (cores : List Nat) (s : State) : Host.Outcome State Fault Refusal :=
  match getEntry s p e with
  | none => .next s
  | some x =>
    let f := fieldsOf x.raw
    let saved := savedOf s p x cl
    let k := clusterOf (cores.headD 0)
    let n := if saved.isEmpty then f.clw else saved.length
    let ns := if saved.isEmpty then f.cluster cl else saved.map (fun w => (getWg s w).wgid)
    if !x.places s || cores.length ≠ n || !coresOk s p e cores || !siblingsOn s p x cl k
        || !(ns.zip cores).all (fun y => pinAllows f y.1 y.2) then .next s
    else match (takeCluster s p x cl k).bind (fun s =>
        if saved.isEmpty then allOf s (fun s y => placeNew s p x y.1 y.2) (ns.zip cores)
        else allOf s (fun s y => placeSaved s x y.1 y.2) (saved.zip cores)) with
      | some s => .next (endGrants s (heldCores s p e))
      | none => .next s

/-! ### Ends (04 R79, 17 R290) -/

/-- Whether a reduction of a workgroup's context from its core waits in its cluster's combining buffer (11 R200). -/
def combOf (s : State) (g : Wg) : Bool :=
  (getCombs s (clusterOf g.core)).any (fun c => c.who.any (fun e => e.part == g.part && e.ctx == g.ctx && e.core == g.core))

/-- Whether everything that a workgroup issued has been performed and acknowledged: its requests, its context's buffered stores and
reductions of its core, its copies, link operations and array instructions (04 R79). -/
def wgQuiet (s : State) (w : Nat) : Bool :=
  let g := getWg s w
  !s.reqs.any (fun r => r.wg == w && r.part == g.part && (match r.origin with | .thread _ _ _ => true | .copy _ _ => true | _ => !r.ret))
    && !(getCore s g.core).lines.any (fun l => l.ctx == g.ctx && l.part == g.part)
    && !combOf s g
    && g.copies.isEmpty && !s.links.any (fun l => l.wg == w)
    && (match g.anvil with | some a => a.queue.isEmpty | none => true)

/-- Retire the buffers that a workgroup stores (08 R152). -/
def retireStored (s : State) (w : Nat) : State :=
  let g := getWg s w
  retireWhere s (fun o => o.owner == ownerOf g && o.spos == g.clid)

/-- The live ownership entries of a workgroup's cluster, as they are saved (08 R153). -/
def liveOwn (s : State) (w : Nat) : List (Nat × Nat × Nat × Nat × Nat × Nat) :=
  let g := getWg s w
  (rangeFrom 0 64).filterMap (fun i =>
    let o := getOwn s (clusterOf g.core) i
    if o.live && o.owner == ownerOf g then some (i, o.gen, o.spos, o.base, o.lenm, o.holder) else none)

/-- The workgroups of workgroup w's cluster with some status. -/
def matesOf (s : State) (w : Nat) (f : WgStatus → Bool) : List Nat :=
  (rangeFrom 0 s.wgs.length).filter (fun v => f (getWg s v).status && ownerOf (getWg s v) == ownerOf (getWg s w))

/-- Workgroup w, on a core until now, has been saved or has ended. With the last of its cluster on a core, the cluster's live ownership entries
are saved, if it has saved workgroups, and their slots are free (08 R153); the cluster returns to its entry's range, or to its pinned ones (17
R285). -/
def leaveCore (s : State) (w : Nat) : State :=
  let g := getWg s w
  match matesOf s w (fun x => x == .resident || x == .cutting), (matesOf s w (· == .saved)).head? with
  | [], some v =>
    let own := liveOwn s w
    let s := own.foldl (fun s e => setOwn s (clusterOf g.core) e.1 { Own.free with gen := e.2.1 }) s
    let s := modWg s v (fun g => { g with savedOwn := own })
    modEntry s g.part g.qe (fun e =>
      let f := fieldsOf e.raw
      let j := g.wgid / f.clw
      if j < f.pinClusters then { e with pinned := insNat e.pinned j }
      else { e with chip := { e.chip with saved := insNat e.chip.saved j } })
  | _, _ => s

/-- A workgroup is over: its resources return (04 R61). -/
def dropWg (s : State) (w : Nat) : State :=
  let on := (getWg s w).onCore
  let s := modWg (retireStored s w) w (fun g => { g with
    status := .ended, bundles := [], copies := [], anvil := none, savedOwn := [], savedFaults := [] })
  if on then leaveCore s w else s

/-- Whether all the workgroups of an entry that have not ended are ready to end (04 R79). -/
def endsNow (s : State) (p : Nat) (e : Entry) : Bool :=
  let ws := wgsOf s p e.qe (· != .ended)
  ws.all (fun w => (getWg s w).status == .resident && !(getWg s w).threads.any (fun th => th.live) && wgQuiet s w)
    && ws.length + e.ended.length == (fieldsOf e.raw).grid

/-- Whether an entry with KOM = 1 is to be killed: its deadline has come, and its last workgroup does not end at it (17 R289, R292). -/
def killDue (s : State) (p : Nat) (e : Entry) : Bool :=
  (fieldsOf e.raw).kom && e.status.isNone && decide (e.d ≤ dtime s) && !(e.d == dtime s && endsNow s p e)

/-- An entry ends with a status: its grants, index and leaf are free (17 R290). -/
def endEntry (s : State) (p q status : Nat) : State :=
  let held := heldCores s p q
  endGrants (modEntry s p q (fun e => { e with status := some status, chip := Range.empty, dies := [], cls := [], pinned := [] })) held

/-- The status of an entry whose last workgroup has ended: 0x00 at the deadline or before; after it 0x20 with KOM = 1, else 0x01 (17 R278,
R289, R292). -/
def Entry.endStatus (e : Entry) : Nat := if e.lastEnd ≤ e.d then 0 else if (fieldsOf e.raw).kom then 0x20 else 1

/-- WORKGROUP_END: the workgroup's last live lane has exited and all it issued is acknowledged (04 R79); with the last workgroup its
entry ends (17 R290). A core that its entry has nothing more to place on is free (R286). -/
def execWorkgroupEnd (w : Nat) (s : State) : Host.Outcome State Fault Refusal :=
  let g := getWg s w
  if g.status != .resident || g.threads.any (fun th => th.live) || !wgQuiet s w then .next s
  else
    let s := modEntry (dropWg s w) g.part g.qe (fun e => { e with ended := insNat e.ended g.wgid, lastEnd := dtime s })
    match getEntry s g.part g.qe with
    | none => .next (endGrants s [g.core])
    | some e =>
      if e.overrun.isNone && e.ended.length == (fieldsOf e.raw).grid then .next (endEntry s g.part g.qe e.endStatus)
      else .next (endGrants s (insNat (heldCores s g.part g.qe) g.core))

/-- Whether an ended entry's accesses and engine operations are all acknowledged, or cancelled (17 R290, R289), and its cuts complete (R292). -/
def entryQuiet (s : State) (p : Nat) (e : Entry) : Bool :=
  let mine (w : Nat) : Bool := (getWg s w).part == p && (getWg s w).order == e.order
  !s.reqs.any (fun r => r.part == p && r.ctx == e.ctx && mine r.wg
      && (match r.origin with | .thread _ _ _ => true | .copy _ _ => true | .link _ => true | _ => false))
    && !s.links.any (fun l => mine l.wg)
    && !s.wgs.any (fun g => g.part == p && g.order == e.order && g.onCore)
    && (getPart s p).cores.all (fun c => !(getCore s c).lines.any (fun l => l.part == p && l.ctx == e.ctx)
      && !(getCombs s (clusterOf c)).any (fun x => x.who.any (fun y => y.part == p && y.ctx == e.ctx)))

/-- ENTRY_COMPLETION: the release at system scope and the completion transition of an ended entry, the one with admission order e (11 R195, 17
R290). -/
def execEntryCompletion (p e : Nat) (s : State) : Host.Outcome State Fault Refusal :=
  match (getPart s p).entries.find? (fun x => x.order == e && x.status.isSome) with
  | none => .next s
  | some x =>
    if !entryQuiet s p x then .next s
    else
      let s := modPart s p (fun y => { y with entries := y.entries.filter (fun z => z.order != e) })
      .next (completeFuture (flushHost s p 5 0b1111) p x.ctx x.raw (x.status.getD 0))

end Sys2Proof.Machine
end

