-- ==== Sys2Proof/Machine/System.lean ====
section
/-!
DEFINITION. System.lean: `trap`, `rti`, `region`, `ppoint`, `brk`, `sleep` (18 R318 to R324), and the entry of traps that were found
earlier (18 R302, R303, R314).
-/
namespace Sys2Proof.Machine

/-- `trap` (18 R319). -/
def execTrap (h : Hdr) (a : Opnd) (imm : Word) (s : State) : Host.Outcome State Fault Refusal :=
  .next (perLane h true false (fun s w t =>
    (s, .trap 0x14 (BitVec.ofNat 64 (readTy (getWg s w) t .n32 a imm)) 0)) s)

/-- `rti`: each active lane leaves its handler (18 R320). -/
def leaveHandler (h : Hdr) (k : Rti) (s : State) : State :=
  perLane h true false (fun s w t =>
    let g := getWg s w
    let th := getTh g t
    if !th.th then (s, .trap 0x02 1 0)
    else (modTh s w t (fun th => { ({ th.endWindows with pend := th.endWindows.pend.map (fun p => { p with closeTo := none }) } : Thread).rtiTo k (seqLen s g (bits th.tsq.toNat 22 17)) with wait := .none }), .gone)) s

/-- `rti.re` (18 R320). -/
def execRtiRe (h : Hdr) (s : State) : Host.Outcome State Fault Refusal := .next (leaveHandler h .re s)

/-- `rti.next` (18 R320). -/
def execRtiNext (h : Hdr) (s : State) : Host.Outcome State Fault Refusal := .next (leaveHandler h .next s)

/-- `rti.drop` (18 R320). -/
def execRtiDrop (h : Hdr) (s : State) : Host.Outcome State Fault Refusal := .next (leaveHandler h .drop s)

/-- `region` (18 R321). -/
def execRegion (h : Hdr) (s : State) : Host.Outcome State Fault Refusal :=
  .next (perLane h true false (fun s w t => (modTh s w t (fun th => th.setIrs th.pos), .adv)) s)

/-- `ppoint` (18 R322). -/
def execPpoint (h : Hdr) (s : State) : Host.Outcome State Fault Refusal :=
  .next (perLane h true false (fun s w t =>
    (if (getCore s (getWg s w).core).preq then modTh s w t (fun th => { th with stopped := true }) else s, .adv)) s)

/-- `brk` (18 R316, R317, R323). -/
def execBrk (h : Hdr) (sub : BitVec 4) (s : State) : Host.Outcome State Fault Refusal :=
  .next (perLane h true false (fun s w t =>
    let th := thOf s w t
    let on := ((getCtx s (getWg s w).ctx).map (fun c => bit c.dctl.toNat 0)).getD false
    (s, if on && !th.th && !th.oneShot then .trap 0x11 (BitVec.ofNat 64 (0x100 + sub.toNat)) 0 else .adv)) s)

/-- `sleep`: a wait of some cycles; of 0, until the next rebuild of the bundles, where it stands until then (18 R324). -/
def execSleep (h : Hdr) (a : Opnd) (imm : Word) (s : State) : Host.Outcome State Fault Refusal :=
  .next (perLane h true false (fun s w t =>
    let n := readTy (getWg s w) t .n32 a imm
    (modTh s w t Thread.endWindows, .rest (if n = 0 then .rebundle else .sleep n))) s)

/-- SLEEP_END: the cycles of a sleep are over (18 R324). -/
def execSleepEnd (w t : Nat) (s : State) : Host.Outcome State Fault Refusal :=
  if (getWg s w).status == .resident && (thOf s w t).live && (thOf s w t).wait == .sleep 0 then .next (endWait s w t false)
  else .next s

/-- TIMER_EXPIRY: %tmr has reached 0, and every live lane has trap 0x10 pending (17 R298). -/
def execTimerExpiry (w : Nat) (s : State) : Host.Outcome State Fault Refusal :=
  if !(getWg s w).tmrDue then .next s
  else .next (modWg s w (fun g => { g with
    tmrDue := false
    threads := g.threads.map (fun th =>
      if th.live && !th.async.any (fun a => a.1 == 0x10) then { th with async := th.async ++ [(0x10, 0)] } else th) }))

/-! ### Late entries -/

/-- The threads that leave a wait together: those of the group that wait with thread t at the same barrier or queue, and t (18 R301,
R303). -/
def leavesWith (g : Wg) (t : Nat) : List Nat :=
  match (getTh g t).wait with
  | .barrier _ _ | .push _ _ | .pop _ _ => (waiters g (grpOf t) (· == (getTh g t).wait)).filter (fun u => (asyncTrap (getTh g u)).isSome)
  | _ => [t]

/-- TRAP_ENTRY: a lane whose trap waited for its results enters it when they are complete (18 R302); a lane between instructions, or
in a wait, takes a pending 0x0F or 0x10 (17 R288, 18 R301, R303). No lane enters while an `spzero` of its is in progress (18 R300). -/
def execTrapEntry (w t : Nat) (s : State) : Host.Outcome State Fault Refusal :=
  let g := getWg s w
  let th := getTh g t
  let zeroing (t : Nat) : Bool := match (getTh g t).wait with | .zero _ _ => true | _ => false
  if g.status != .resident || !th.live || !th.pend.isEmpty || zeroing t then .next s
  else match th.due with
    | some d => .next (enterTrap s w t d.1 d.2.1 d.2.2)
    | none =>
      let us := leavesWith g t
      if (asyncTrap th).isNone || us.any (fun u => !(getTh g u).pend.isEmpty) then .next s
      else .next (dropWaits (us.foldl (fun s u => match asyncTrap (thOf s w u) with
        | some a => takeBoundary (endEarly s w u true) w u (a.1, a.2, 0)
        | none => s) s) w)

end Sys2Proof.Machine
end

