-- ==== Sys2Proof/Machine/Preempt.lean ====
section
/-!
DEFINITION. Preempt.lean: taking back cores, saving and killing, budgets and deadlines (17 R280, R285 to R289, 18 R307 to R315).
-/
namespace Sys2Proof.Machine

/-! ### Taking back (17 R285, 18 R307) -/

/-- Whether entry e has a strictly earlier claim than entry f (17 R285). -/
def Entry.outranks (e f : Entry) : Bool := if f.demoted then !e.demoted else !e.demoted && decide (e.d < f.d)

/-- The holder of a core in a partition. -/
def holderOf (s : State) (p core : Nat) : Option Entry :=
  match (getCore s core).grant with
  | some (q, i) => if q = p then getEntry s p i else none
  | none => none

/-- Whether the Bellows takes a core back for an entry: it can hold a core, none that it could use is free, and this core's holder has
the latest deadline among the holders of cores that it could use, later than its own; or it needs this core for a pinned workgroup, and the
holder's deadline is later (17 R285). -/
def wantsBack (s : State) (p core : Nat) (e : Entry) : Bool :=
  let cs := (getPart s p).cores.filter (couldUse s p e)
  let pinned := (bounds s p e).contains (.pin core)
  match holderOf s p core with
  | none => false
  | some f =>
    canHold s p e core && e.outranks f
      && (pinned || (cs.all (fun c => (getCore s c).grant.isSome || !(wgsOn s c).isEmpty)
        && (lastEntry (cs.filterMap (holderOf s p))).any (fun x => x.qe == f.qe)))

/-- Whether some entry wants a core back, or its workgroups are of a context that migrates (22 R359). -/
def coreWanted (s : State) (p core : Nat) : Bool :=
  (getPart s p).entries.any (fun e => e.status.isNone && wantsBack s p core e)
    || (wgsOn s core).any (fun w => quietCtx s (getWg s w).ctx)

/-- CORE_TAKE_BACK: the polite request for a core (17 R285, 18 R307); one on which its holder has no workgroup is free at once (R286). -/
def execCoreTakeBack (p core : Nat) (s : State) : Host.Outcome State Fault Refusal :=
  if (getCore s core).preq || !coreWanted s p core then .next s
  else .next (endGrants (modCore s core (fun c => { c with
    preq := true, windowEnd := some (dtime s + (getPart s p).params.polite) })) [core])

/-- POLITE_WITHDRAWAL: the core is no longer wanted; %preq is cleared and threads stopped at a `ppoint` continue (18 R307, R322). -/
def execPoliteWithdrawal (core : Nat) (s : State) : Host.Outcome State Fault Refusal :=
  match (getCore s core).grant with
  | none => .next s
  | some (p, _) =>
    if !(getCore s core).preq || (getCore s core).windowEnd.isNone || coreWanted s p core then .next s
    else
      let s1 := modCore s core (fun c => { c with preq := false, windowEnd := none })
      .next ((wgsOn s core).foldl (fun s w => modWg s w (fun g => { g with
        threads := g.threads.map (fun th => { th with stopped := false }) })) s1)

/-- The bundles in which the threads of a workgroup complete what they have issued, one for each group and position (18 R308 step 2). -/
def finishBundles (s : State) (g : Wg) : List (List Nat) :=
  let ts := (rangeFrom 0 g.threads.length).filter (finishing s g)
  let key (t : Nat) : Nat × Word := (grpOf t, (getTh g t).pos)
  ((ts.map key).eraseDups).map (fun k => ts.filter (fun t => key t == k))

/-- A cut begins for the cluster of workgroup w (18 R308). -/
def beginCut (s : State) (w : Nat) : State :=
  (matesOf s w (· == .resident)).foldl (fun s v => modWg s v (fun g =>
    { g with status := .cutting, cutAt := some s.cyc, bundles := finishBundles s g })) s

/-- POLITE_WINDOW_END: workgroups not saved when the polite window ends are cut (18 R307). -/
def execPoliteWindowEnd (core : Nat) (s : State) : Host.Outcome State Fault Refusal :=
  match (getCore s core).windowEnd with
  | none => .next s
  | some e =>
    if dtime s < e then .next s
    else .next ((wgsOn s core).foldl beginCut (modCore s core (fun c => { c with windowEnd := none })))

/-! ### Saving (18 R307, R308, R310, R311) -/

/-- Whether a wait is one in which a workgroup may be saved politely: on something other than a long-latency result or the completion
of a `fence`, `stload` or `merr` (18 R307). -/
def Wait.polite : Wait → Bool
  | .none | .drain | .merr | .zero _ _ => false
  | _ => true

/-- Whether a copy's completion steps have begun and are neither done nor held (18 R308, R313, 14 R231). -/
def Copy.ending (g : Wg) (c : Copy) : Bool := c.begun && c.held.isNone && !arrivalHeld g (.copy c.num)

/-- Whether a cut completes an array instruction: its group has moved %irs since it issued (15 R267). -/
def AJob.kept (g : Wg) (j : AJob) : Bool := groupMoves g j.grp != j.moves

/-- Whether the array has completed what it must, but for arrivals that are held: everything for a polite save; for a cut, what the latest
moves of %irs close (15 R267, 14 R231, 18 R307, R308). -/
def arrayQuiet (g : Wg) (polite : Bool) : Bool :=
  match g.anvil with
  | some a => a.queue.all (fun j => !polite && (if j.acted then j.arv.isNone || arrivalHeld g (.anvil j.num) else !j.kept g))
  | none => true

/-- Whether what a workgroup has issued is complete but for what its saved state holds (18 R308, R309, R313). -/
def wgDrained (s : State) (w : Nat) (polite : Bool) : Bool :=
  let g := getWg s w
  !s.reqs.any (fun r => r.wg == w && r.part == g.part && (match r.origin with
      | .thread _ _ _ => true
      | .copy _ _ => !r.held
      | _ => false))
    && !(getCore s g.core).lines.any (fun l => l.ctx == g.ctx && l.part == g.part)
    && !combOf s g && !g.copies.any (Copy.ending g) && arrayQuiet g polite

/-- Whether a thread is rewound at a freeze: a long-latency result is discarded, an array instruction of its group is, an `spzero` of it is in
progress, or it is parked by a staged object (18 R310). -/
def mustRewind (g : Wg) (t : Nat) : Bool :=
  let th := getTh g t
  !th.pend.isEmpty || (match th.wait with | .park _ | .ring | .zero _ _ => true | _ => false)
    || (match g.anvil with | some a => a.queue.any (fun j => j.grp == grpOf t && !j.acted) | none => false)

/-- Whether the live lanes of a group all stay in their wait, so that it is resumed as it is (18 R312). -/
def groupWaits (g : Wg) (k : Nat) : Bool :=
  let ls := liveOf g k
  ls.all (fun t => (getTh g t).wait == (getTh g (ls.headD 0)).wait && !mustRewind g t)

/-- The wait that a saved thread resumes; of the others it restarts at its instruction (18 R310, R312). -/
def savedWait (g : Wg) (t : Nat) : Wait :=
  if mustRewind g t then .none
  else match (getTh g t).wait with
    | .sleep n => .sleep n
    | .rebundle => .rebundle
    | .cpwait c x i => .cpwait c x i
    | .cpfence m js i => .cpfence m js i
    | .barrier b y => if groupWaits g (grpOf t) then .barrier b y else .none
    | .push q h => if groupWaits g (grpOf t) then .push q h else .none
    | .pop q d => if groupWaits g (grpOf t) then .pop q d else .none
    | _ => .none

/-- A thread as it is saved: results outstanding are discarded, a synchronous trap not yet entered is dropped, an asynchronous one
stays pending (18 R308, R311, R314). After a polite save it restarts exactly where it stopped (R307). -/
def savedThread (g : Wg) (polite : Bool) (t : Nat) : Thread :=
  let th := getTh g t
  let back := !polite && mustRewind g t
  let late := match th.due with
    | some (c, i, _) => if c = 0x0F ∨ c = 0x10 then [(c, i)] else []
    | none => []
  { th with
    rewound := back, pend := [], early := if back then [] else th.early, wait := savedWait g t, due := none, async := th.async ++ late
    held := none, gather := none, freed := false, stopped := false, relAt := none, order := [] }

/-- The array as it is saved: what has acted is complete, be its arrival held; the rest is discarded (15 R267). -/
def Anvil.saved (x : Anvil) : Anvil :=
  { (x.queue.filter (fun j => j.acted)).foldl (fun x j => x.complete j.num) x with queue := [] }

/-- The numbers of the fault records that threads of a workgroup are parked in (10 R179). -/
def Wg.faultNums (g : Wg) : List Nat :=
  g.threads.filterMap (fun th => match th.wait with | .fault n _ _ => if th.live then some n else Option.none | _ => Option.none)

/-- A core whose lanes are parked in a fault record besides those of a workgroup: the workgroup's own, or another (10 R179). -/
def otherParked (s : State) (w n : Nat) : Option Nat :=
  let vs := (rangeFrom 0 s.wgs.length).filter (fun v => v != w && (getWg s v).onCore && (getWg s v).faultNums.contains n)
  let cs := vs.map (fun v => (getWg s v).core)
  if cs.contains (getWg s w).core then some (getWg s w).core else cs.head?

/-- The fault records of a core that a workgroup's threads are parked in are saved with it (18 R310, R311). One in which other workgroups' threads are
parked stays, on a core of theirs (10 R179, log 121). -/
def saveFaults (s : State) (w : Nat) : State :=
  let g := getWg s w
  let mine := (getCore s g.core).faults.filter (fun r => g.faultNums.contains r.num)
  let s1 := modCore (modWg s w (fun g => { g with savedFaults := mine })) g.core (fun c => { c with
    faults := c.faults.filter (fun r => !g.faultNums.contains r.num || otherParked s w r.num == some g.core) })
  mine.foldl (fun t r => match otherParked s w r.num with
    | some c => if c = g.core then t else modCore t c (fun x => { x with faults := x.faults ++ [r] })
    | none => t) s1

/-- Workgroup w is saved, politely or at a freeze (18 R307, R308, R311); the grant of its core ends with the holder's last workgroup there
(17 R286). -/
def saveWg (s : State) (w : Nat) (polite : Bool) : State :=
  let s := saveFaults s w
  let g := getWg s w
  let s := modWg s w (fun g => { g with
    status := .saved, bundles := [], cutAt := none, anvil := g.anvil.map Anvil.saved
    threads := g.threads.mapIdx (fun t _ => savedThread g polite t) })
  let s := modCore (dropWaits (leaveCore s w) w) g.core (fun c => { c with parks := c.parks.filter (fun e => e.wg != w) })
  if (wgsOn s g.core).any (fun v => ofEntry s g.part g.qe (getWg s v)) then s
  else modCore s g.core (fun c => if c.grant == some (g.part, g.qe) then { c with grant := none, preq := false, windowEnd := none } else c)

/-- Whether packets of a link operation are not acknowledged yet. -/
def LinkOp.sending (s : State) (l : LinkOp) : Bool :=
  s.streams.any (fun x => x.carries s l && x.snd.unacked.any (fun p => p.2.opsn == l.opsn))

/-- Chunks of a link operation. -/
def LinkOp.chunks (l : LinkOp) : Nat := if l.op ≤ 1 then ceilDiv l.len 4096 else 1

/-- Whether a cancelled link operation is still to be awaited: packets of it are not acknowledged, or all have been sent, and the reply is on its way
(17 R290, 18 R315, 22 R373). -/
def LinkOp.awaited (s : State) (l : LinkOp) : Bool := !l.answered && (l.sending s || decide (l.chunk ≥ l.chunks))

/-- A workgroup stops and is not saved: its copies and link operations are given up, but for these that are still to be awaited (18 R315, 17 R289,
R290). With `atOnce`, transitions of its that are held at a home slice are given up too; at the end of a cut they stay accepted there (R313). -/
def stopAs (atOnce : Bool) (s : State) (w : Nat) : State :=
  let s := dropWg s w
  let s := modCore s (getWg s w).core (fun c => { c with parks := c.parks.filter (fun e => e.wg != w) })
  { s with
    links := (s.links.filter (fun l => l.wg != w || l.awaited s)).map (fun l =>
      if l.wg == w then { l with cancelled := true } else l)
    reqs := if !atOnce then s.reqs else s.reqs.filter (fun r => match r.origin with
      | .copy v _ => v != w || !r.held
      | .link n => !r.held || s.links.any (fun l => l.num == n && l.wg != w)
      | _ => true) }

/-- A workgroup stops at once (18 R315, 17 R289). -/
def stopWg (s : State) (w : Nat) : State := stopAs true s w

/-- Whether a workgroup that leaves its core is discarded and not saved: its entry has ended, or has overrun with OVC = 1 (17 R288, R292). -/
def discards (s : State) (g : Wg) : Bool := (entryOf s g).all (fun e => e.overrun.isSome)

/-- A workgroup whose save begins is saved, or discarded. -/
def leaveAs (s : State) (w : Nat) (polite : Bool) : State :=
  if discards s (getWg s w) then endGrants (stopAs false s w) [(getWg s w).core] else saveWg s w polite

/-- POLITE_SAVE: a workgroup of a core under a polite request, all of whose live lanes are stopped or wait, is saved (18 R307). -/
def execPoliteSave (w : Nat) (s : State) : Host.Outcome State Fault Refusal :=
  let g := getWg s w
  let ok := (g.threads.filter (fun th => th.live)).all (fun th =>
    (th.stopped || th.wait.polite) && th.pend.isEmpty && th.due.isNone)
  if g.status != .resident || !(getCore s g.core).preq || !ok || !wgDrained s w true then .next s
  else .next (leaveAs s w true)

/-- FREEZE: the end of a cut: region-closing instructions are complete, and everything issued is drained; the workgroup is saved (18
R308), or, when its entry has ended meanwhile or overran with OVC = 1, discarded (17 R288, R292). -/
def execFreeze (w : Nat) (s : State) : Host.Outcome State Fault Refusal :=
  let g := getWg s w
  if g.status != .cutting || g.threads.any (fun th => th.live && th.pend.any (fun p => p.closeTo.isSome))
      || (rangeFrom 0 g.threads.length).any (finishing s g) || !wgDrained s w false then .next s
  else .next (leaveAs s w false)

/-! ### Killing (18 R315, 17 R289) -/

/-- Some workgroups stop at once, the saved ones first: what their clusters' buffers are is then still in the ownership tables (08 R152). -/
def stopAll (s : State) (ws : List Nat) : State :=
  (ws.filter (fun w => (getWg s w).status == .saved) ++ ws.filter (fun w => (getWg s w).status != .saved)).foldl stopWg s

/-- An entry stops with a status: its workgroups, resident or saved, are stopped; a cut in progress completes (17 R289, R292). -/
def stopEntry (s : State) (p q status : Nat) : State :=
  endEntry (stopAll s (wgsOf s p q (fun x => x == .resident || x == .saved))) p q status

/-- Whether an entry of the pending launches is a context's. -/
def pendingOf (s : State) (p c : Nat) : List (BitVec 1024) :=
  (((getPart s p).store.filter (fun e => e.2 == c)).map Prod.fst) ++ ((getCtx s c).map (fun x => x.spill ++ x.migrants.map Migrant.raw)).getD []

/-- The first steps of a kill: the context's workgroups stop, and its admitted entries end with 0x20 (18 R315). -/
def killContext (s : State) (c : Nat) : State :=
  match getCtx s c with
  | none => s
  | some x =>
    let s := modCtx s c (fun x => { x with dead := true })
    let s := stopAll s ((rangeFrom 0 s.wgs.length).filter (fun w =>
      (getWg s w).ctx == c && (getWg s w).part == x.part && (getWg s w).status != .ended))
    let es := ((getPart s x.part).entries.filter (fun e => e.ctx == c && e.status.isNone)).map Entry.qe
    es.foldl (fun s q => stopEntry s x.part q 0x20) s

/-- Whether a killed context's buffered writes and requests are all performed, and its entries done (18 R315 steps 3, 4). -/
def killQuiet (s : State) (p c : Nat) : Bool :=
  (getPart s p).entries.all (fun e => e.ctx != c) && !s.reqs.any (fun r => r.ctx == c)
    && !s.links.any (fun l => (getWg s l.wg).ctx == c && (getWg s l.wg).part == p)
    && (getPart s p).cores.all (fun k => !(getCore s k).lines.any (fun l => l.ctx == c)
      && !(getCombs s (clusterOf k)).any (fun x => x.who.any (fun y => y.ctx == c)))

/-- Pending launches of a killed context end with 0x20 (18 R315 step 4). -/
def endPending (s : State) (p c : Nat) : State :=
  let raws := pendingOf s p c
  let s := modCtx (modPart s p (fun x => { x with store := x.store.filter (fun e => e.2 != c) })) c
    (fun x => { x with spill := [], migrants := [] })
  raws.foldl (fun s raw => completeFuture s p c raw 0x20) s

/-- The regions of a killed context are revoked (18 R315 step 5, 14 R238). -/
def revokeAll (s : State) (c : Nat) : State :=
  modCtx s c (fun x => { x with
    revoked := true, regions := x.regions.map (fun r => (r.1, { r.2 with gen := nextGen r.2.gen })) })

/-- CONTEXT_KILL: the next stage of the kill of context c (18 R315): its work stops; when its writes have drained, its pending launches
end and its handles are revoked. -/
def execContextKill (c : Nat) (s : State) : Host.Outcome State Fault Refusal :=
  match getCtx s c with
  | none => .next s
  | some x =>
    if !x.dead then .next (killContext s c)
    else if x.revoked || !killQuiet s x.part c then .next s
    else if !(pendingOf s x.part c).isEmpty then .next (endPending s x.part c)
    else .next (revokeAll s c)

/-- KILL_TIMEOUT: a cut that has not frozen within the kill timeout kills its context (18 R308). -/
def execKillTimeout (w : Nat) (s : State) : Host.Outcome State Fault Refusal :=
  let g := getWg s w
  match g.status, g.cutAt with
  | .cutting, some t =>
    if 4 * (s.cyc - t) < 5 * (getPart s g.part).params.killTimeout then .next s else .next (killContext s g.ctx)
  | _, _ => .next s

/-! ### Budgets and deadlines (17 R280, R287 to R289, R292) -/

/-- Trap 0x0F becomes pending in every live lane of a workgroup (17 R288). -/
def overrunTrap (s : State) (w ovc : Nat) : State :=
  modWg s w (fun g => { g with threads := g.threads.map (fun th =>
    if th.live && !th.async.any (fun a => a.1 == 0x0F) then { th with async := th.async ++ [(0x0F, BitVec.ofNat 64 ovc)] } else th) })

/-- A fold finds an entry over its budget (17 R288): traps, then demotion, or the end of its placing and of its saved workgroups. -/
def overrun (s : State) (p : Nat) (e : Entry) : State :=
  let ovc := (fieldsOf e.raw).ovc
  if ovc then
    let s := stopAll s (wgsOf s p e.qe (· == .saved))
    let s := (wgsOf s p e.qe (fun x => x == .resident || x == .cutting)).foldl (fun s w => overrunTrap s w 1) s
    endGrants (modEntry s p e.qe (fun x => { x with overrun := some (dtime s) })) (heldCores s p e.qe)
  else
    let s := (wgsOf s p e.qe (· != .ended)).foldl (fun s w => overrunTrap s w 0) s
    modEntry s p e.qe (fun x => { x with demoted := true })

/-- BUDGET_FOLD: the cycles counted are folded into the charges when %dtime passes a multiple of 1,000; an entry over its budget whose deadline
kill is due is killed (17 R280, R288, R292). -/
def execBudgetFold (p : Nat) (s : State) : Host.Outcome State Fault Refusal :=
  if dtime s / 1000 * 1000 ≤ (getPart s p).lastFold then .next s
  else
    let s := modPart s p (fun x => { x with
      lastFold := dtime s / 1000 * 1000
      entries := x.entries.map (fun e => { e with charge := e.charge + e.fresh, fresh := 0 }) })
    .next (((getPart s p).entries.filter (fun e =>
      e.status.isNone && !e.demoted && e.overrun.isNone && decide (e.charge ≥ e.budget))).foldl (fun s e =>
      if killDue s p e then stopEntry s p e.qe 0x20 else overrun s p e) s)

/-- OVERRUN_WINDOW_EXPIRY: of an entry that overran with OVC = 1, the workgroups that are resident when their handlers' time is over are cut; when
none of its workgroups is left it ends with status 0x02 (17 R288). -/
def execOverrunWindowExpiry (p e : Nat) (s : State) : Host.Outcome State Fault Refusal :=
  match getEntry s p e with
  | none => .next s
  | some x => match x.overrun with
    | none => .next s
    | some t =>
      if (wgsOf s p e (· != .ended)).isEmpty then .next (endEntry s p e (if killDue s p x then 0x20 else 0x02))
      else if dtime s < t + (getPart s p).params.polite then .next s
      else .next ((wgsOf s p e (· == .resident)).foldl beginCut s)

/-- DEADLINE_KILL: an entry with KOM = 1 whose deadline has come is killed (17 R289). -/
def execDeadlineKill (p e : Nat) (s : State) : Host.Outcome State Fault Refusal :=
  match getEntry s p e with
  | none => .next s
  | some x =>
    if killDue s p x then .next (stopEntry s p e 0x20) else .next s

end Sys2Proof.Machine
end

