-- ==== Sys2Proof/Machine/Link.lean ====
section
/-!
DEFINITION. Link.lean: link operations and the link protocol (22 R362 to R373).
-/
namespace Sys2Proof.Machine

/-! ### Issue (22 R365 to R368) -/

/-- Fields of a remote handle (22 R365). -/
def rmDev (h : DWord) : Nat := bits h.toNat 63 44
def rmExp (h : DWord) : Nat := bits h.toNat 43 32
def rmOfs (h : DWord) : Nat := bits h.toNat 31 0

/-- A link instruction: 0 `xput`, 1 `xget`, 2 `xatom`, 3 `xstx`, with what its form carries (22 R366, R367). -/
structure LinkForm where
  op : Nat
  sub : Nat := 0
  ty : Ty := .b32
  ord : Nat := 0
  scope : Nat := 0
  data : DWord := 0
  data2 : DWord := 0

/-- The remote and the local operand of a command (22 R366). -/
def LinkForm.remote (f : LinkForm) (c : Command) : DWord := if f.op = 0 then c.dst else c.src
def LinkForm.localOp (f : LinkForm) (c : Command) : DWord := if f.op = 0 then c.src else c.dst
/-- Whether the local operand is a region handle. -/
def LinkForm.localHandle (f : LinkForm) (ctl : Nat) : Bool := if f.op = 0 then ctlSrck ctl else ctlDstk ctl
/-- Bytes at the local operand (22 R366). -/
def LinkForm.bytes (f : LinkForm) (c : Command) : Nat := if f.op ≤ 1 then c.len else if f.op = 2 then f.ty.width / 8 else 16

/-- Whether a command block is well formed for a link instruction (22 R366). -/
def LinkForm.blockOk (f : LinkForm) (c : Command) : Bool :=
  bits c.ctl 14 2 == 0 && decide (ctlScope c.ctl < 6) && ctlBare c.ctl
    && (if f.op = 0 then ctlDstk c.ctl else ctlSrck c.ctl)
    && (f.localHandle c.ctl || decide ((f.localOp c).toNat < 2 ^ 32))
    && (ctlTre c.ctl || c.cobj == 0)
    && (if f.op ≤ 1 then c.len % 4 == 0 && decide (4 ≤ c.len) && decide (c.len ≤ 2 ^ 30) else c.len == 0)

/-- The alignment of the local operand (22 R366). -/
def LinkForm.align (f : LinkForm) : Nat := if f.op ≤ 1 then 4 else if f.op = 2 then f.ty.width / 8 else 16

/-- The first failing check of a link instruction (22 R368). -/
def LinkForm.check (g : Wg) (f : LinkForm) (c : Command) : Option End :=
  let a := f.localOp c
  if !f.blockOk c then some (streamTrap 2)
  else if ctlBar c.ctl ≥ g.hdr.bars then some (streamTrap 3)
  else if a.toNat % f.align ≠ 0 then some (.trap 0x04 0 a)
  else if ctlTre c.ctl ∧ c.cobj.toNat % 16 ≠ 0 then some (.trap 0x04 0 c.cobj)
  else if !f.localHandle c.ctl && !inRegion g a.toNat (f.bytes c) then
    some (engineBounds (if f.op = 0 then 1 else 2) a.toNat)
  else none

/-- A link instruction acts once in its group (22 R368): its checks, a link record, the release, and its place in its stream. -/
def linkIssue (f : Wg → Nat → LinkForm) (a : Opnd) (s : State) (w : Nat) (al : List Nat) : State × End :=
  let g := getWg s w
  let k := grpOf (al.headD 0)
  let x := f g (al.headD 0)
  let c := toCommand (commandBlock g k (regNum a))
  let die := dieOf g.core
  if !isProducer g k then (s, streamTrap 1)
  else match x.check g c with
    | some e => (s, e)
    | none =>
      if (s.links.filter (fun l => l.die == die)).length ≥ 1024 then (s, .stay .linkRec)
      else
        let r := tryRelease s w al al 0b1111 0b1111
        if !r.2 then (r.1, .stay .drain)
        else
          let s := r.1
          let st := streamOf s g.part (rmDev (x.remote c)) (ctlCh c.ctl) true
          let l : LinkOp :=
            { num := s.fresh, op := x.op, wg := w, die := die, dev := rmDev (x.remote c), ch := ctlCh c.ctl, opsn := st.opsn
              ctl := BitVec.ofNat 32 c.ctl, len := c.len, loc := x.localOp c, rem := x.remote c, cobj := c.cobj, sub := x.sub
              ty := x.ty.code.toNat, ord := x.ord, scope := x.scope, data := x.data, data2 := x.data2, chunk := 0, got := 0
              failed := none, answered := false, cancelled := false, result := [], relAt := 0, performed := false, held := none }
          let s := putStream s { st with opsn := (st.opsn + 1) % 2 ^ 32 }
          ({ s with links := s.links ++ [l] }.bump, .adv)

/-- `xput` (22 R367 to R369). -/
def execXput (h : Hdr) (a : Opnd) (s : State) : Host.Outcome State Fault Refusal :=
  .next (perGroup h false true (linkIssue (fun _ _ => { op := 0 }) a) s)

/-- `xget` (22 R367 to R369). -/
def execXget (h : Hdr) (a : Opnd) (s : State) : Host.Outcome State Fault Refusal :=
  .next (perGroup h false true (linkIssue (fun _ _ => { op := 1 }) a) s)

/-- `xatom` (22 R367 to R369). -/
def execXatom (h : Hdr) (ty : Ty) (sub : BitVec 4) (a b : Opnd) (mw : MemW) (s : State) : Host.Outcome State Fault Refusal :=
  .next (perGroup h false true (linkIssue (fun g t =>
    let d := atomData g t sub.toNat ty b
    { op := 2, sub := sub.toNat, ty := ty, ord := mw.ord.toNat, scope := mw.scope.toNat, data := d.1, data2 := d.2 }) a) s)

/-- `xstx` (22 R367 to R369). -/
def execXstx (h : Hdr) (sub : BitVec 4) (a b : Opnd) (mw : MemW) (s : State) : Host.Outcome State Fault Refusal :=
  .next (perGroup h false true (linkIssue (fun g t =>
    { op := 3, sub := sub.toNat, ord := mw.ord.toNat, scope := mw.scope.toNat
      data := BitVec.ofNat 64 (readTy g t .b64 b 0) }) a) s)

/-! ### Acknowledging (22 R364) -/

/-- The last in-order number that a stream has received. -/
def Stream.lastIn (st : Stream) : Nat := (st.rcv.expect + 2 ^ 32 - 1) % 2 ^ 32

/-- Send ACK for a stream's receiving space, with a limit that never moves backward (22 R364). -/
def sendAck (s : State) (die : Nat) (st : Stream) : State :=
  let limit := psnMax st.rcv.credit ((st.rcv.expect + Config.creditGrant s.tick % 2 ^ 30) % 2 ^ 32)
  let st := { st with rcv := { st.rcv with owed := 0, credit := limit } }
  transmit (putStream s st) die st.part
    { packetOf s st 2 with dir := b2n st.out, psn := st.lastIn, credit := limit }

/-- Send NAK for a stream's receiving space (22 R364). -/
def sendNak (s : State) (die : Nat) (st : Stream) (dir reason : Nat) : State :=
  transmit s die st.part { packetOf s st 3 with dir := dir, psn := st.lastIn, reason := reason, credit := st.rcv.credit }

/-! ### Sending (22 R369, R370) -/

/-- Change a link operation, by number. -/
def modLink (s : State) (num : Nat) (f : LinkOp → LinkOp) : State :=
  { s with links := s.links.map (fun l => if l.num == num then f l else l) }

/-- A link operation has its answer (22 R369, R372). -/
def answerLink (s : State) (num : Nat) (reason : Nat) : State :=
  let stamp := s.fresh
  modLink s num (fun l => { l with
    answered := true, relAt := stamp, failed := if reason = 0 then l.failed else some (l.failed.getD reason) })

/-- Bytes of chunk c. -/
def LinkOp.chunkLen (l : LinkOp) (c : Nat) : Nat := min 4096 (l.len - 4096 * c)

/-- The type of an `xatom`. -/
def LinkOp.type (l : LinkOp) : Ty := (Ty.ofCode (BitVec.ofNat 4 l.ty)).getD .b32

/-- The data of a request of `xatom` or `xstx`: for `.cas` the expected value first (22 R364, 11 R198). -/
def LinkOp.payload (l : LinkOp) : List Byte :=
  if l.op = 2 then
    let n := l.type.width / 8
    (if l.sub = 7 then leBytes n l.data2.toNat else []) ++ leBytes n l.data.toNat
  else leBytes 8 l.data.toNat

/-- The reason of a link fault for a reason of 14 R247 on a local operand (22 R372). -/
def localReason (r : Nat) : Nat := if r = 1 then 2 else r

/-- Whether two link operations are of one stream (22 R362). -/
def sameStream (s : State) (l m : LinkOp) : Bool :=
  (getWg s m.wg).part == (getWg s l.wg).part && m.dev == l.dev && m.ch == l.ch

/-- Whether an earlier operation of its stream still has chunks to send. -/
def behind (s : State) (l : LinkOp) : Bool :=
  s.links.any (fun m => decide (m.num < l.num) && sameStream s l m && !m.answered && !m.cancelled && decide (m.chunk < m.chunks))

/-- Operations of the two kinds with results that a stream has sent and that are not answered, those that have ended without an answer among them
(22 R370). -/
def awaiting (s : State) (l : LinkOp) (st : Stream) : Nat :=
  (s.links.filter (fun m => sameStream s l m && decide (m.op ≥ 2) && decide (m.chunk > 0) && !m.answered)).length + st.lost.length

/-- Send the next chunk of a link operation (22 R369 step 2): an `xput` carries local bytes, in memory those that are performed (11 R187); an `xget`
as many zero bytes as it asks for. -/
def sendChunk (s : State) (l : LinkOp) : State :=
  let g := getWg s l.wg
  let st := streamOf s g.part l.dev l.ch true
  if (SMap.find (getPart s g.part).peers l.dev).isNone then answerLink s l.num 1
  else if !st.mayBegin || (decide (l.op ≥ 2) && decide (awaiting s l st ≥ 256)) then s
  else
    let n := l.chunkLen l.chunk
    let pk (bs : List Byte) : Packet :=
      { packetOf s st 0 with
        op := l.op, last := decide (l.chunk + 1 = l.chunks), opsn := l.opsn, chunk := l.chunk, exp := rmExp l.rem
        offset := (rmOfs l.rem + 4096 * l.chunk) % 2 ^ 32, sub := l.sub, ty := if l.op = 2 then l.ty else 0, ord := l.ord
        scope := l.scope, data := bs }
    let go (s : State) (bs : List Byte) : State :=
      chargeLink (sendNew (modLink s l.num (fun l => { l with chunk := l.chunk + 1 })) l.die st (pk bs)) l bs.length
    if l.op = 0 then
      match place s g (ctlSrck l.ctl.toNat) l.loc (4096 * l.chunk : Nat) n false with
      | .error (r, _) => answerLink s l.num (localReason r)
      | .ok p =>
        if p.waits s g.core n false then s
        else match p with
          | .pad _ => if p.bad s g n then answerLink s l.num 6 else go s (p.read s g n)
          | .mem pa _ =>
            if memBad s pa n then answerLink (readFrom s g.part pa n) l.num 6
            else go (readFrom s g.part pa n) ((rangeFrom pa n).map (memByte s))
    else if l.op = 1 then go s (List.replicate n 0)
    else go s l.payload

/-- The fault record of a link operation (22 R372); an `xatom` that its place does not take is reported as 10 R173 says (log 108). -/
def LinkOp.frec (l : LinkOp) : Option FRec :=
  l.failed.map (fun r =>
    { taddr := l.rem, cause := if r = 0x0A then 0x06 else 0x18
      tinfo := BitVec.ofNat 64 (if r = 0x0A then 256 + r else l.dev * 2 ^ 44 + rmExp l.rem * 2 ^ 32 + l.ch * 1024 + l.op * 256 + r) })

/-- The release of a link operation with REL at system scope (22 R354, R369 step 3). -/
def LinkOp.flush (l : LinkOp) (s : State) : State :=
  if ctlRel l.ctl.toNat then flushHost s (getWg s l.wg).part (ctlScope l.ctl.toNat) 0b1111 else s

/-- The completion transition of a link operation (22 R369 step 4); an entry with REL releases at the command's scope (13 R213). -/
def linkTransition (s : State) (l : LinkOp) : State :=
  let g := getWg s l.wg
  let fail (s : State) (r : Nat) : State := modLink s l.num (fun l => { l with failed := some r, performed := true })
  match getCtx s g.ctx with
  | none => s
  | some x => match resolve x l.cobj 0 16 true true with
    | .error r => fail (l.flush s) (localReason r)
    | .ok (r, pa) =>
      let o : Obj := { ctx := g.ctx, part := g.part, die := dieOf g.core, pa := pa
                       va := Config.regionGranule g.ctx (pa / 65536) * 65536 + pa % 65536, prop := r.prop, via := some g.core }
      let data := BitVec.ofNat 64 l.len
      let t := ctlTrans l.ctl.toNat
      let wide := match lookEntry s o t with
        | .ok e => eReleases e.2.2 && decide (ctlScope l.ctl.toNat ≥ 2) && !drained s g.core l.relAt
        | .error _ => false
      let q := engineWaits s o t
      if q.2 || wide then q.1
      else match transition (l.flush q.1) o t data .engine with
        | (s, .done _ _) => modLink s l.num (fun l => { l with performed := true })
        | (s, .full) => modLink (engineReq s o (.link l.num) l.wg g.core (.trans t data (BitVec.ofNat 64 o.va)) true) l.num
            (fun l => { l with held := some s.fresh })
        | (s, .chain st old code va pa f) =>
          modLink (engineReq s (o.next va pa f) (.link l.num) l.wg g.core (.chain code data (BitVec.ofNat 64 va) (st, old)) false)
            l.num (fun l => { l with held := some s.fresh })
        | (s, _) => fail s 7

/-- Steps 3 to 5 of an answered link operation (22 R369, R372): the release, the transition, the arrival. -/
def completeLink (s : State) (l : LinkOp) : State :=
  let g := getWg s l.wg
  let scope := if ctlRel l.ctl.toNat then ctlScope l.ctl.toNat else 1
  if l.held.isSome || arrivalHeld g (.link l.num) || (scope ≥ 2 && !drained s g.core l.relAt) then s
  else
    let s := if l.performed then s
      else if l.failed.isSome || !ctlTre l.ctl.toNat then modLink (l.flush s) l.num (fun l => { l with performed := true })
      else linkTransition s l
    match s.links.find? (fun m => m.num == l.num) with
    | some l => if l.performed then engineArrive s l.wg (ctlBar l.ctl.toNat) (.link l.num) l.frec else s
    | none => s

/-- LINK_CHUNK_SEND: the next step of link operation number k of a die (22 R369): its next chunk, or, once answered, its completion. Those of a
context that migrates come to their end though its workgroups are saved (R359, log 111). -/
def execLinkChunkSend (die k : Nat) (s : State) : Host.Outcome State Fault Refusal :=
  match s.links.find? (fun l => l.num == k && l.die == die) with
  | none => .next s
  | some l =>
    let g := getWg s l.wg
    let moves := g.status == .saved && quietCtx s g.ctx
    if l.cancelled || !(g.onCore || moves) || !contextLives s g then .next s
    else if l.answered then .next (completeLink s l)
    else if (g.status != .resident && !moves) || behind s l || l.chunk ≥ l.chunks then .next s
    else .next (sendChunk s l)

/-! ### Receiving (22 R364, R370, R371) -/

/-- What a receiver makes of a packet of a space, before its contents (22 R364): the state after its answer, or the stream in which it is
the next one. -/
def admitPacket (s : State) (die part : Nat) (p : Packet) (out : Bool) : Except State Stream :=
  let st := streamOf s part p.srcDev p.ch out
  let st := if st.dEpoch == p.sEpoch then st
    else if out then { st with dEpoch := p.sEpoch, rcv := { st.rcv with expect := 0, owed := 0 } }
    else { Stream.fresh part p.srcDev p.ch out (dtime s) with dEpoch := p.sEpoch }
  if p.dEpoch != (getPart s part).epoch && !(p.dEpoch == 0 && p.psn == 0) then .error (sendNak (putStream s st) die st (b2n out) 9)
  else if p.psn == st.rcv.expect then .ok st
  else if psnBefore p.psn st.rcv.expect then .error (sendAck s die st)
  else .error (sendNak (putStream s st) die st (b2n out) 0)

/-- Whether a packet of the REQ space is a duplicate: of the known epochs, and accepted before (22 R364). -/
def isDuplicate (s : State) (part : Nat) (p : Packet) : Bool :=
  let st := streamOf s part p.srcDev p.ch false
  (p.dEpoch == (getPart s part).epoch || (p.dEpoch == 0 && p.psn == 0)) && st.dEpoch == p.sEpoch && psnBefore p.psn st.rcv.expect

/-- A packet is accepted: one more is owed an acknowledgement, and sixteen are acknowledged at once (22 R364). -/
def takePacket (s : State) (die : Nat) (st : Stream) : State :=
  let st := { st with rcv := { st.rcv with
    expect := (st.rcv.expect + 1) % 2 ^ 32, owed := st.rcv.owed + 1
    since := if st.rcv.owed = 0 then dtime s else st.rcv.since } }
  if st.rcv.owed ≥ 16 then sendAck s die st else putStream s st

/-- Send a RESP in the stream of a request (22 R364). -/
def respond (s : State) (die : Nat) (st : Stream) (p : Packet) (reason : Nat) (bs : List Byte) : State :=
  sendNew s die st { packetOf s st 1 with op := p.op, opsn := p.opsn, chunk := p.chunk, reason := reason, data := bs }

/-- The context that exports an index to a source: the lowest of the partition whose table holds it and permits the source (22
R365). -/
def exporter (s : State) (part exp src : Nat) : Option (Nat × Ctx × ExportEntry) :=
  s.ctxs.findSome? (fun c =>
    if c.2.part == part then
      match SMap.find c.2.exports exp with
      | some e => if e.src == 0xFFFFF || e.src == src then some (c.1, c.2, e) else none
      | none => none
    else none)

/-- Where a request acts: the context, the region and the physical address, or the reason of its fault (22 R369, R372); 0x0A stands for check 9 of 10
R178, an atomic on a REPL page or one that host memory does not take (10 R173, 11 R199, log 108). -/
def remotePlace (s : State) (part : Nat) (p : Packet) (n : Nat) : Except Nat (Nat × Region × Nat) :=
  match exporter s part p.exp p.srcDev with
  | none => .error 2
  | some (c, x, e) =>
    match resolve x (BitVec.ofNat 64 e.handle) p.offset n (p.op == 0 || p.op == 2) (p.op == 3) with
    | .error 5 => if !(match p.op with | 0 => e.w | 1 => e.r | 2 => e.a | _ => e.s) then .error 4 else .error 5
    | .error r => .error (localReason r)
    | .ok (r, pa) =>
      if !(match p.op with | 0 => e.w | 1 => e.r | 2 => e.a | _ => e.s) then .error 4
      else if p.op ≥ 2 ∧ (!r.repl.isEmpty ∨ (p.op = 2 ∧ pa / 2 ^ 50 = 2 ∧ !hostTakes p.sub)) then .error 0x0A
      else if p.op ≥ 2 ∧ pa % (if p.op = 3 then 16 else ((Ty.ofCode (BitVec.ofNat 4 p.ty)).getD .b32).width / 8) ≠ 0 then .error 7
      else .ok (c, r, pa)

/-- Log the granules of n bytes of a region with a PROP page (22 R358). -/
def logSpan (s : State) (ctx pa n : Nat) : State :=
  (rangeFrom (pa / 65536) ((pa + n - 1) / 65536 + 1 - pa / 65536)).foldl (fun s g => logDirty s ctx (Config.regionGranule ctx g)) s

/-- Write bytes at the point of coherence of a region, on every copy, and log its granules (22 R369, 10 R173, R358). -/
def writeRegion (s : State) (ctx part : Nat) (r : Region) (pa : Nat) (bs : List Byte) : State :=
  let s := (pa :: (r.repl.filter (· != r.base)).map (fun b => b + (pa - r.base))).foldl (fun s q => sendBytes s part q bs) s
  if r.prop then logSpan s ctx pa bs.length else s

/-- The result of a remote operation that answers at once: the state, the reason and the data; none where the answer comes later. -/
inductive Remote where
  | now (s : State) (reason : Nat) (bs : List Byte)
  | later (s : State)

/-- The 16 bytes that `xstx` returns (22 R369). -/
def stxResult (status : Word) (old : Option DWord) : List Byte := leBytes 8 status.toNat ++ leBytes 8 (old.getD 0).toNat

/-- Perform a request at its destination (22 R369, R370). -/
def performRemote (s : State) (die part : Nat) (p : Packet) : Remote :=
  let ty := (Ty.ofCode (BitVec.ofNat 4 p.ty)).getD .b32
  let n := if p.op ≤ 1 then p.data.length else if p.op = 2 then ty.width / 8 else 16
  match remotePlace s part p n with
  | .error r => .now s r []
  | .ok (ctx, r, pa) =>
    if p.op = 0 then .now (writeRegion s ctx part r pa p.data) 0 []
    else if memBad s pa n then .now (if p.op = 1 then readFrom s part pa n else countReads s pa n) 6 []
    else if p.op = 1 then .now (readFrom s part pa n) 0 ((rangeFrom pa n).map (memByte s))
    else if p.op = 2 then
      let m := memRead s pa n
      let e := leVal (p.data.take n)
      let x := if p.sub = 7 then leVal (p.data.drop n) else e
      let s := memWriteBytes (countReads s pa n) pa (leBytes n (atomOp p.sub ty m x e))
      let s := askHost s pa [.atomic (part + 1) pa p.sub ty (BitVec.ofNat 64 x) (BitVec.ofNat 64 e)]
      .now (if r.prop then logSpan s ctx pa n else s) 0 (leBytes n m)
    else
      let o : Obj := { ctx := ctx, part := part, die := die, pa := pa
                       va := Config.regionGranule ctx (pa / 65536) * 65536 + pa % 65536, prop := r.prop, via := none }
      let data := BitVec.ofNat 64 (leVal p.data)
      let org := Origin.remote die p.srcDev p.ch p.opsn
      let q := engineWaits s o p.sub
      if q.2 then .later (engineReq q.1 o org 0 (die * Config.coresPerDie) (.trans p.sub data (BitVec.ofNat 64 o.va)) false)
      else match transition q.1 o p.sub data .engine with
      | (s, .done st old) => .now s 0 (stxResult st old)
      | (s, .full) => .later (engineReq s o org 0 (die * Config.coresPerDie) (.trans p.sub data (BitVec.ofNat 64 o.va)) true)
      | (s, .chain st old code va pa f) =>
        .later (engineReq s (o.next va pa f) org 0 (die * Config.coresPerDie) (.chain code data (BitVec.ofNat 64 va) (st, old)) false)
      | (s, .bad) => .now s 6 []
      | (s, _) => .now s 7 []

/-- Keep the result of an `xatom` or `xstx`, the last 256 (22 R370). -/
def keepResult (st : Stream) (p : Packet) (reason : Nat) (bs : List Byte) : Stream :=
  if p.op ≥ 2 then { st with results := ((p.opsn, bs, reason) :: st.results).take 256 } else st

/-- The answer of the operation of a request: kept where it is to be, and sent when the chunk is the last or an `xget`'s. -/
def finishRemote (s : State) (die part : Nat) (p : Packet) (reason : Nat) (bs : List Byte) : State :=
  let st := streamOf s part p.srcDev p.ch false
  let bad := st.failed.find? (fun f => f.1 == p.opsn)
  let reason : Nat := match bad with | some f => f.2 | none => reason
  let st := if reason != 0 && bad.isNone && !p.last then { st with failed := (p.opsn, reason) :: st.failed } else st
  let st := if p.last then { st with failed := st.failed.filter (fun f => f.1 != p.opsn) } else st
  let st := keepResult st p reason bs
  if p.last || (p.op == 1 && reason == 0) then respond (putStream s st) die st p reason bs else putStream s st

/-- The answer of a remote transition that was held or chained (13 R215, 22 R369). -/
def remoteAnswer (s : State) (die dev ch opsn : Nat) (r : TOut) : State :=
  match partOfDie s die with
  | none => s
  | some part =>
    let st := streamOf s part dev ch false
    let p : Packet := { packetOf s st 0 with op := 3, last := true, opsn := opsn, srcDev := dev, ch := ch }
    match r with
    | .done status old => finishRemote s die part p 0 (stxResult status old)
    | .bad => finishRemote s die part p 6 []
    | _ => finishRemote s die part p 7 []

/-- Whether a request must wait: an earlier operation of its stream has not been performed, or its granule is being cleared (22 R370). -/
def remoteWaits (s : State) (part : Nat) (p : Packet) : Bool :=
  s.reqs.any (fun r => match r.origin with | .remote _ v c _ => r.part == part && v == p.srcDev && c == p.ch | _ => false)
    || (match remotePlace s part p (max 1 p.data.length) with
      | .ok (_, _, pa) => clearingAt s pa || clearingAt s (pa + (p.data.length - 1))
      | .error _ => false)

/-- Answer a duplicate from the results that are kept, when its answer is not on its way (22 R370). -/
def answerKept (s : State) (die part : Nat) (p : Packet) : State :=
  let st := streamOf s part p.srcDev p.ch false
  match st.results.find? (fun r => r.1 == p.opsn) with
  | some r => if decide (p.op ≥ 2) && !st.snd.unacked.any (fun q => q.2.opsn == p.opsn)
        && !st.snd.queue.any (fun q => q.2.opsn == p.opsn)
      then respond s die st p r.2.2 r.2.1 else s
  | none => s

/-- A request with a new epoch of its source discards the stream's state (R364): the transitions of the old stream that home slices hold go on, and
answer no one. -/
def forgetRemote (s : State) (part : Nat) (p : Packet) : State :=
  if (streamOf s part p.srcDev p.ch false).dEpoch == p.sEpoch then s
  else { s with reqs := s.reqs.map (fun r => match r.origin with
    | .remote _ v c _ => if r.part == part && v == p.srcDev && c == p.ch then { r with origin := .none } else r
    | _ => r) }

/-- LINK_REQ_RECEIVED: a request arrives at a die's port (22 R364, R369, R370). A request to a quiesced context is answered with a retry
(R359), one to a quiescing partition with reason 0x09 (R372). -/
def execLinkReqReceived (die : Nat) (pkt : Packet) (s : State) : Host.Outcome State Fault Refusal :=
  match packetDropped pkt 0, partOfDie s die with
  | true, _ => .next s
  | _, none => .next s
  | false, some part =>
    let s := forgetRemote s part pkt
    match admitPacket s die part pkt false with
    | .error t => .next (if isDuplicate s part pkt then answerKept t die part pkt else t)
    | .ok st =>
      let quiet := (exporter s part pkt.exp pkt.srcDev).any (fun c => c.2.1.quiet)
      if quiet then .next (sendNak (putStream s st) die st 0 0)
      else if remoteWaits s part pkt then .next s
      else
        let s := takePacket s die st
        let gone := st.failed.any (fun f => f.1 == pkt.opsn)
        match if gone then Remote.now s 0 [] else if (getPart s part).quiet then .now s 9 [] else performRemote s die part pkt with
        | .now s r bs => .next (finishRemote s die part pkt r bs)
        | .later s => .next s

/-- Write a result at the local operand of an operation: at once, or kept while its workgroup is saved (22 R371). -/
def localResult (s : State) (l : LinkOp) (ofs : Nat) (bs : List Byte) : State × Nat :=
  let g := getWg s l.wg
  let handle := ctlDstk l.ctl.toNat
  if g.status == .saved && !handle then (modLink s l.num (fun l => { l with result := l.result ++ [(ofs, bs)] }), 0)
  else match place s g handle l.loc ofs bs.length true with
    | .error (r, _) => (s, localReason r)
    | .ok (.pad a) => (modWg s l.wg (fun g => g.spWrite a bs), 0)
    | .ok (.mem pa at') =>
      if g.onCore then (storeRange s g.core pa bs at', 0)
      else
        let s := (pa :: at'.repl).foldl (fun s q => sendBytes s g.part q bs) s
        (if at'.prop then logSpan s at'.ctx pa bs.length else s, 0)

/-- Stopped operations that are no longer awaited are gone (18 R315, 17 R290, 22 R373). -/
def dropCancelled (s : State) : State := { s with links := s.links.filter (fun l => !l.cancelled || l.awaited s) }

/-- A result comes to a stopped operation: the last one is its answer, and changes nothing else (18 R315). -/
def answerCancelled (s : State) (st : Stream) (p : Packet) : State :=
  { s with links := s.links.map (fun l =>
      if st.carries s l && l.opsn == p.opsn && l.cancelled then
        { l with got := l.got + 1, answered := p.reason != 0 || l.op != 1 || decide (l.got + 1 ≥ l.chunks) }
      else l) }

/-- LINK_RESP_RECEIVED: a result arrives at the issuing die (22 R364, R369, R371). -/
def execLinkRespReceived (die : Nat) (pkt : Packet) (s : State) : Host.Outcome State Fault Refusal :=
  match packetDropped pkt 1, partOfDie s die with
  | true, _ => .next s
  | _, none => .next s
  | false, some part => match admitPacket s die part pkt true with
    | .error s => .next s
    | .ok st =>
      let s1 := takePacket s die st
      match s1.links.find? (fun l => st.carries s1 l && l.opsn == pkt.opsn && !l.answered && !l.cancelled) with
      | none =>
        let st1 := streamOf s1 part pkt.srcDev pkt.ch true
        .next (dropCancelled (answerCancelled (putStream s1 { st1 with lost := st1.lost.filter (· != pkt.opsn) }) st pkt))
      | some l =>
        if pkt.reason ≠ 0 then .next (answerLink s1 l.num pkt.reason)
        else if l.op = 0 then .next (answerLink s1 l.num 0)
        else if (getCore s (getWg s l.wg).core).lines.any (fun x => !x.free s) then .next s
        else
          let r := localResult s1 l (4096 * pkt.chunk) pkt.data
          let s2 := modLink r.1 l.num (fun l => { l with got := l.got + 1, failed := if r.2 = 0 then l.failed else some r.2 })
          .next (if l.got + 1 ≥ l.chunks then answerLink s2 l.num 0 else s2)

/-- The operations of a stream, not yet answered, that a test picks end with a link fault (22 R364). -/
def failOps (s : State) (st : Stream) (f : LinkOp → Bool) (reason : Nat) : State :=
  (s.links.filter (fun l => st.carries s l && !l.answered && f l)).foldl (fun s l =>
    if l.cancelled then { s with links := s.links.filter (fun m => m.num != l.num) } else answerLink s l.num reason) s

/-- What an acknowledgement up to a number does to the sending space (22 R364). -/
def acked (s : State) (st : Stream) (psn credit : Nat) : Stream :=
  let left := st.snd.unacked.filter (fun p => psnBefore psn p.2.psn)
  let adv := decide (left.length < st.snd.unacked.length)
  { st with snd := { st.snd with
    unacked := left, credit := psnMax st.snd.credit credit
    timeout := if adv then 20000 else st.snd.timeout, since := if adv then dtime s else st.snd.since
    last := if adv then dtime s else st.snd.last } }

/-- New packets that have waited for credit are sent (22 R364). -/
def flushStream (s : State) (st : Stream) : State :=
  st.snd.queue.foldl (fun s x => sendNew s x.1 (streamOf s st.part st.dev st.ch st.out) x.2)
    (putStream s { st with snd := { st.snd with queue := [] } })

/-- The stream whose sending space an ACK or NAK names, after the epoch check (22 R364). -/
def ackedStream (s : State) (die part : Nat) (p : Packet) : Except State Stream :=
  let st := streamOf s part p.srcDev p.ch (p.dir == 0)
  if p.dEpoch != (getPart s part).epoch && !(p.dEpoch == 0 && p.psn == 0) then
    .error (sendNak s die { st with dEpoch := p.sEpoch } p.dir 9) else .ok st

/-- LINK_ACK_RECEIVED (22 R364). -/
def execLinkAckReceived (die : Nat) (pkt : Packet) (s : State) : Host.Outcome State Fault Refusal :=
  match packetDropped pkt 2, partOfDie s die with
  | true, _ => .next s
  | _, none => .next s
  | false, some part => match ackedStream s die part pkt with
    | .error s => .next s
    | .ok st => .next (dropCancelled (flushStream s { acked s st pkt.psn pkt.credit with dEpoch := pkt.sEpoch }))

/-- A stream starts again at PSN 0 after an epoch mismatch, its outstanding operations ended (22 R364). -/
def restartStream (s : State) (st : Stream) (epoch : Nat) : State :=
  putStream (failOps s st (fun _ => true) 9)
    { Stream.fresh st.part st.dev st.ch st.out (dtime s) with dEpoch := epoch, opsn := st.opsn }

/-- LINK_NAK_RECEIVED (22 R364). -/
def execLinkNakReceived (die : Nat) (pkt : Packet) (s : State) : Host.Outcome State Fault Refusal :=
  match packetDropped pkt 3, partOfDie s die with
  | true, _ => .next s
  | _, none => .next s
  | false, some part => match ackedStream s die part pkt with
    | .error s => .next s
    | .ok st =>
      if pkt.reason = 9 then .next (restartStream s st pkt.sEpoch)
      else
        let s := flushStream s { acked s st pkt.psn pkt.credit with dEpoch := pkt.sEpoch }
        .next (dropCancelled (resend s (streamOf s part pkt.srcDev pkt.ch (pkt.dir == 0))))

/-! ### Timers (22 R364) -/

/-- Stream k of a die, when its sending space (`snd`) or its receiving one is space sp: 0 REQ, 1 RESP. -/
def timedStream (s : State) (die k sp : Nat) (snd : Bool) : Option Stream :=
  match (getStreams s ((partOfDie s die).getD 4))[k]? with
  | some st => if b2n (st.out != snd) = sp then some st else none
  | none => none

/-- LINK_ACK_TIMER: at most 2 µs after a packet was accepted it is acknowledged (22 R364). -/
def execLinkAckTimer (die k sp : Nat) (s : State) : Host.Outcome State Fault Refusal :=
  match timedStream s die k sp false with
  | some st => if st.rcv.owed = 0 then .next s else .next (sendAck s die st)
  | none => .next s

/-- LINK_RETX_TIMEOUT: no acknowledgement has advanced the space for the timeout, which doubles up to 1 ms (22 R364). -/
def execLinkRetxTimeout (die k sp : Nat) (s : State) : Host.Outcome State Fault Refusal :=
  match timedStream s die k sp true with
  | some st =>
    if st.snd.unacked.isEmpty ∨ dtime s < st.snd.last + st.snd.timeout then .next s
    else .next (resend s { st with snd := { st.snd with timeout := min 1000000 (2 * st.snd.timeout) } })
  | none => .next s

/-- LINK_STREAM_TIMEOUT: 100 ms without an advance end every operation with an unacknowledged packet (22 R364, R372). -/
def execLinkStreamTimeout (die k sp : Nat) (s : State) : Host.Outcome State Fault Refusal :=
  match timedStream s die k sp true with
  | some st =>
    if st.snd.unacked.isEmpty ∨ dtime s < st.snd.since + 100000000 then .next s
    else
      let dead (l : LinkOp) : Bool := st.snd.unacked.any (fun p => p.2.opsn == l.opsn)
      let lost := (s.links.filter (fun l => st.carries s l && !l.answered && dead l && decide (l.op ≥ 2))).map LinkOp.opsn
      .next (putStream (failOps s st dead 8) { st with lost := st.lost ++ lost, snd := { st.snd with since := dtime s } })
  | none => .next s

end Sys2Proof.Machine
end

