-- ==== Sys2Proof/Machine/Bundler.lean ====
section
/-!
DEFINITION. Bundler.lean: results of long-latency instructions (02 R26, R27), the rebuild of bundles, meeting and gathering (04 R63,
R67, R68, R70, R71, R73).
-/
namespace Sys2Proof.Machine

/-! ### Results (02 R26, R27) -/

/-- A result is written in every lane that shares it, and is no longer outstanding. -/
def completeTok (s : State) (w t : Nat) (p : Pend) : State :=
  (rangeFrom (32 * grpOf t) 32).foldl (fun s u =>
    match (thOf s w u).pend.find? (fun q => q.tok == p.tok) with
    | some q => modTh (modWg s w (fun g => applyPend g u q)) w u (fun th => { th with
        pend := th.pend.filter (fun q => q.tok != p.tok)
        early := if q.left > 0 && th.due.isNone then th.early ++ [q] else th.early })
    | none => s) s

/-- Whether the result of a uniform register waits for the answer of an `stx` before it in a lane that awaits it: a fault there takes back the
instruction, and PARK and FULL the lane's part of it (13 R214, 18 R299). -/
def behindStx (s : State) (w t : Nat) (p : Pend) : Bool :=
  p.dests.any Prod.fst && (rangeFrom (32 * grpOf t) 32).any (fun u =>
    (thOf s w u).pend.any (fun q => q.tok == p.tok) && (thOf s w u).pend.any (fun q => decide (q.tok < p.tok) && q.unanswered))

/-- Whether a result may be written now: of the outstanding instructions of its lanes that write a common register, the one whose window
ends first, and of these the first to issue, comes first (02 R27, 06 R101). -/
def inOrder (s : State) (w t : Nat) (p : Pend) : Bool :=
  (rangeFrom (32 * grpOf t) 32).all (fun u => match (thOf s w u).pend.find? (fun q => q.tok == p.tok) with
    | some me => (thOf s w u).pend.all (fun q => q.tok == p.tok || !q.meetsDest p
        || !(decide (q.left < me.left) || (q.left == me.left && decide (q.tok < p.tok))))
    | none => true)

/-- LONG_LATENCY_RESULT: outstanding instruction k of a thread reads its bytes, after the thread's earlier loads there (11 R186), or, when
its result is known, writes it. -/
def execLongLatencyResult (w t k : Nat) (capture : Bool) (s : State) : Host.Outcome State Fault Refusal :=
  match (thOf s w t).pend[k]? with
  | none => .next s
  | some p =>
    if !(getWg s w).onCore then .next s
    else match p.src with
      | .known => if capture || !inOrder s w t p || behindStx s w t p then .next s else .next (completeTok s w t p)
      | .req _ _ _ _ => .next s
      | .load pa ty _ _ =>
        if !capture then .next s
        else
          let old (q : Pend) : Bool := decide (q.tok < p.tok) && q.hits pa (ty.width / 8)
          let s := captureWhere s w t old
          if (thOf s w t).pend.any old || !canCapture s w t p then .next s else .next (captureTok s w t p)

/-! ### Meeting (04 R70, R71) -/

/-- The hold limit H of a kernel (04 R70). -/
def Header.holdLimit (h : Header) : Nat := if h.hold = 0 then 64 else h.hold

/-- Whether a thread is ready and held at its meet target. -/
def heldNow (s : State) (g : Wg) (t : Nat) : Bool := (getTh g t).ready && (getTh g t).isHeld s g

/-- The meeting set of a thread: the live threads of its group with its %meet (04 R70). -/
def meetingSet (g : Wg) (t : Nat) : List Nat := (liveOf g (grpOf t)).filter (fun u => (getTh g u).meet == (getTh g t).meet)

/-- The held threads of the set of a thread. -/
def heldOfSet (s : State) (g : Wg) (t : Nat) : List Nat := (meetingSet g t).filter (heldNow s g)

/-- The periods since a thread of the set of a thread was first held, at the coming rebuild; none while none has been. Every member keeps
them, so that they count on when the first leaves its target by a trap. -/
def setAge (s : State) (g : Wg) (t : Nat) : Option Nat :=
  match (meetingSet g t).filterMap (fun u => (getTh g u).held) with
  | [] => if (heldOfSet s g t).isEmpty then none else some 1
  | n :: ns => some (ns.foldl max n + 1)

/-- Whether H periods have passed since a thread of the set was first held. -/
def setExpired (s : State) (g : Wg) (t : Nat) : Bool :=
  (setAge s g t).any (fun n => decide (n ≥ g.hdr.holdLimit))

/-- Release held threads: their %meet is 0, and they issue their target without being held again (04 R70). -/
def releaseHeld (s : State) (w : Nat) (ts : List Nat) : State :=
  ts.foldl (fun s t => modTh s w t (fun th => { th with freed := true, meet := 0, held := none })) s

/-- Release the held threads of the set of a thread; the others can form a new set (04 R70). -/
def releaseSet (s : State) (w t : Nat) : State :=
  let g := getWg s w
  (meetingSet g t).foldl (fun s u => modTh s w u (fun th => { th with held := none })) (releaseHeld s w (heldOfSet s g t))

/-- The thread numbers of a workgroup. -/
def Wg.lanes (g : Wg) : List Nat := rangeFrom 0 g.threads.length

/-- Every set of which all live members are held is released (04 R70). -/
def releaseComplete (s : State) (w : Nat) : State :=
  let g := getWg s w
  releaseHeld s w (g.lanes.filter (fun t => heldNow s g t && (meetingSet g t).all (heldNow s g)))

/-- HOLD_LIMIT_EXPIRY: H periods have passed, and the held threads of thread t's set are released (04 R70). -/
def execHoldLimitExpiry (w t : Nat) (s : State) : Host.Outcome State Fault Refusal :=
  let g := getWg s w
  if g.status == .resident && heldNow s g t && setExpired s g t then .next (releaseSet s w t) else .next s

/-! ### Gathering (04 R73) -/

/-- The periods for which a thread has been gathered at the coming rebuild. -/
def Thread.gatherFor (th : Thread) : Nat := th.gather.elim 0 (· + 1)

/-- Whether a thread may be gathered for the coming period: under policy 2, at a `dispatch`, not released before, for less than G
periods. -/
def mayGather (s : State) (g : Wg) (t : Nat) : Bool :=
  let th := getTh g t
  g.hdr.policy == 2 && th.ready && !th.isHeld s g && !th.freed && !th.seqS && nextIs s g th (· == 0x00B)
    && decide (th.gatherFor < g.hdr.gather)

/-- A thread gathers no longer, and is not held again before it issues (04 R66, R73). -/
def Thread.endGather (th : Thread) : Thread := { th with gather := Option.none, freed := true }

/-- GATHER_WINDOW_EXPIRY: thread t has been gathered for G periods (04 R73). -/
def execGatherWindowExpiry (w t : Nat) (s : State) : Host.Outcome State Fault Refusal :=
  let g := getWg s w
  let th := getTh g t
  if g.status == .resident && th.gather.isSome && decide (th.gatherFor ≥ g.hdr.gather) then .next (modTh s w t Thread.endGather)
  else .next s

/-! ### Collectives at a rebuild (04 R67, R68) -/

/-- Whether a lane stands at a collective instruction. -/
def standsCollective (s : State) (g : Wg) (t : Nat) : Bool :=
  let th := getTh g t
  th.stands && !th.isHeld s g && nextIs s g th collectiveOp

/-- The lanes of a group that stand at another collective than the lowest live lane. -/
def otherCollective (g : Wg) (ls : List Nat) : List Nat :=
  ls.filter (fun t => (getTh g t).pos != (getTh g (ls.headD 0)).pos)

/-- Every live lane of group k stands at a collective, but not all at one: each takes trap 0x03, or the earlier trap of its boundary
(04 R68, 18 R303). -/
def convergeGroup (s : State) (w k : Nat) : State :=
  let g := getWg s w
  let ls := liveOf g k
  if ls.all (standsCollective s g) && !samePos g ls then
    let info := 2 ^ 32 + laneMask ((otherCollective g ls).map (fun t => t % 32)) (fun _ => true)
    ls.foldl (fun s t => match boundaryTrap s w t with
      | some x => takeBoundary (endEarly s w t true) w t x
      | none => trapNow s w t 0x03 (BitVec.ofNat 64 info) 0) s
  else s

/-! ### The rebuild (04 R63) -/

/-- The secondary key of a thread, by its policy. -/
def secondKey (s : State) (g : Wg) (t : Nat) : Option DWord :=
  match g.hdr.policy with
  | 1 => some (getTh g t).gpc
  | 2 => (dispatchIndex s g t).map (BitVec.setWidth 64)
  | _ => none

/-- Whether a thread is bundled: ready, not held, and not at a collective at which its group does not stand as a whole. -/
def bundled (s : State) (g : Wg) (gather : List Nat) (t : Nat) : Bool :=
  let free (u : Nat) : Bool := (getTh g u).ready && !(getTh g u).isHeld s g
  let ls := liveOf g (grpOf t)
  free t && !gather.contains t && (!nextIs s g (getTh g t) collectiveOp || (ls.all free && samePos g ls))

/-- Whether some threads may form a bundle: at most 32, in ascending order, at one position with one key; at a collective, one whole
group. -/
def bundleOk (s : State) (g : Wg) (ls : List Nat) : Bool :=
  !ls.isEmpty && decide (ls.length ≤ 32) && (ls.zip (ls.drop 1)).all (fun x => decide (x.1 < x.2)) && samePos g ls
    && ls.all (fun t => secondKey s g t == secondKey s g (ls.headD 0))
    && (!nextIs s g (getTh g (ls.headD 0)) collectiveOp || wholeGroup g ls)

/-- Whether a bundle holds every thread to be bundled of its groups that stands where it stands, with its key: a group that has not
diverged is not split, so that what it does to its uniform registers is done once (04 R65). -/
def groupsWhole (s : State) (g : Wg) (ts ls : List Nat) : Bool :=
  let t0 := ls.headD 0
  ts.all (fun t => ls.contains t || !(groupsOf ls).contains (grpOf t) || (getTh g t).pos != (getTh g t0).pos
    || secondKey s g t != secondKey s g t0)

/-- Whether lists of threads partition those to be bundled into bundles. -/
def partsOk (s : State) (g : Wg) (gather : List Nat) (parts : List (List Nat)) : Bool :=
  let ts := g.lanes.filter (bundled s g gather)
  parts.all (bundleOk s g) && decide (parts.flatten.length = ts.length) && ts.all parts.flatten.contains
    && parts.all (groupsWhole s g ts)

/-- A thread in the coming period: how long its set has been held, or it gathered. -/
def Thread.newPeriod (th : Thread) (age : Option Nat) (gathered : Bool) : Thread :=
  let th := { th with held := age }
  if gathered then { th with gather := some th.gatherFor } else if th.gather.isSome then th.endGather else th

/-- REBUNDLE: a rebundle period begins for workgroup w, with the bundles and the gathered threads that the bundler chooses (04
R63); the sleeps of no cycles end (18 R324). No period begins before the holds and gatherings that are over have ended. -/
def execRebundle (w : Nat) (parts : List (List Nat)) (gather : List Nat) (s : State) : Host.Outcome State Fault Refusal :=
  let s0 := ((getWg s w).lanes.filter (fun t => (thOf s w t).wait == .rebundle && (thOf s w t).live)).foldl (fun s t => endWait s w t false) s
  let s1 := releaseComplete ((rangeFrom 0 (getWg s w).groups.length).foldl (fun s k => convergeGroup s w k) s0) w
  let g := getWg s1 w
  let spent := g.lanes.any (fun t => (heldNow s1 g t && setExpired s1 g t)
    || ((getTh g t).gather.isSome && decide ((getTh g t).gatherFor ≥ g.hdr.gather)))
  if g.status != .resident || spent || !gather.all (mayGather s1 g) || !partsOk s1 g gather parts then .next s
  else .next (modWg s1 w (fun g => { g with
    bundles := parts
    threads := g.threads.mapIdx (fun t th => th.newPeriod (if th.live && th.meet != 0 then setAge s1 g t else none) (gather.contains t)) }))

end Sys2Proof.Machine
end

