-- ==== Sys2Proof/Machine/Storage.lean ====
section
/-!
DEFINITION. Storage.lean: what happens in the write-combining and combining buffers, in HBM, and to translations (10 R172 to R179, 11 R187,
R200, 01 R20).
-/
namespace Sys2Proof.Machine

/-! ### Buffers (10 R177, 11 R187, R200) -/

/-- Change line k of a core's buffer. -/
def modLine (s : State) (core k : Nat) (f : Line → Line) : State := modCore s core (fun c => { c with lines := modAt c.lines k f })

/-- WCB_LINE_DRAIN: line k of a core begins to drain, and takes no more stores (10 R177). -/
def execWcbLineDrain (core k : Nat) (s : State) : Host.Outcome State Fault Refusal :=
  .next (modLine s core k (fun l => { l with draining := true }))

/-- Whether an older line of a core's buffer covers the 128 bytes at an address, so that it comes first there (11 R186). -/
def olderAt (s : State) (core k pa : Nat) : Bool := ((getCore s core).lines.drop (k + 1)).any (fun l => l.overlaps pa 128)

/-- STORE_PERFORM: drained line k of a core is performed at its point of coherence, or at one copy of a REPL page (11 R187, 10 R173), after what an
earlier release orders before it (11 R188). -/
def execStorePerform (core k copy : Nat) (s : State) : Host.Outcome State Fault Refusal :=
  match (getCore s core).lines[k]? with
  | none => .next s
  | some l => match l.copies[copy]? with
    | none => .next s
    | some pa =>
      if !l.draining || l.done.contains copy || clearingAt s pa || olderAt s core k pa || !l.ripe s core then .next s
      else .next (performLine s core l copy)

/-- COMBINING_ENTRY_SEND: entry k of a core-cluster's combining buffer goes to its home (11 R200). -/
def execCombiningEntrySend (cl k : Nat) (s : State) : Host.Outcome State Fault Refusal :=
  match (getCombs s cl)[k]? with
  | none => .next s
  | some c => if clearingAt s c.pa then .next s else .next (sendComb s cl c)

/-! ### HBM (10 R174, 01 R20) -/

/-- GRANULE_CLEAR_DONE: the clear of a granule completes; its bytes are zero and its bit is clear (10 R174). -/
def execGranuleClearDone (g : Nat) (s : State) : Host.Outcome State Fault Refusal :=
  if !s.clearing.contains g then .next s
  else .next (setUnscrubbed { s with
    mem := SMap.clearRange s.mem (65536 * g) 65536
    badMem := s.badMem.filter (fun w => w / 2048 != g)
    fixMem := s.fixMem.filter (fun w => w / 2048 != g)
    clearing := s.clearing.filter (· != g) } g false)

/-- PATROL_SCRUB: the scrubber reads and corrects the 32-byte word of HBM at an address; corrected errors are counted per die (01 R20). -/
def execPatrolScrub (pa : Nat) (s : State) : Host.Outcome State Fault Refusal :=
  if pa / 2 ^ 50 ≠ 0 ∨ !s.fixMem.contains (pa / 32) then .next s
  else
    let die := pa / Config.dieBytes
    .next (modDev { s with fixMem := s.fixMem.filter (· != pa / 32) } (fun d => { d with
      corrected := SMap.set 0 d.corrected die (SMap.get 0 d.corrected die + 1) }))

/-! ### Translations and their faults (10 R172, R179) -/

/-- FAULT_RECORD_RETRY: a thread that found no fault record tries its instruction again (10 R179). -/
def execFaultRecordRetry (w t : Nat) (s : State) : Host.Outcome State Fault Refusal :=
  if (thOf s w t).wait == .faultRetry && (getWg s w).status == .resident then
    .next (modTh s w t (fun th => { th with wait := .none }))
  else .next s

/-- The fault record of a number at a core. -/
def faultRec (s : State) (core r : Nat) : Option FaultRec := (getCore s core).faults.find? (fun x => x.num == r)

/-- The fault record of a number at a core, or saved with a workgroup that was on it: the Hearth keeps it (10 R179, 18 R314). -/
def keptFault (s : State) (core r : Nat) : Option FaultRec :=
  match faultRec s core r with
  | some x => some x
  | none => s.wgs.findSome? (fun g => if g.core == core then g.savedFaults.find? (fun x => x.num == r) else none)

/-- The partition of a context. -/
def partOfCtx (s : State) (c : Nat) : Nat := ((getCtx s c).map Ctx.part).getD 0

/-- Whether the page of a record is mapped, and the invalidation of its entry has completed (10 R172, R179). -/
def pageMapped (s : State) (x : FaultRec) : Bool :=
  bit (memRead s x.leaf 8) 63 && (staleEntry s (partOfCtx s x.ctx) x.leaf).isNone

/-- Whether a thread is parked in the record of a number. -/
def Wait.inFault (r : Nat) : Wait → Bool
  | .fault n _ _ => n == r
  | _ => false

/-- The record of a number is over: every thread parked in it leaves as `f` says. -/
def endFault (s : State) (core r : Nat) (f : State → Nat → Nat → State) : State :=
  let s := modCore s core (fun c => { c with faults := c.faults.filter (fun x => x.num != r) })
  (rangeFrom 0 s.wgs.length).foldl (fun s w =>
    ((getWg s w).lanes.filter (fun t => (thOf s w t).live && (thOf s w t).wait.inFault r)).foldl (fun s t => f s w t) s) s

/-- PAGE_MAPPED_WAKE: the page of record r is mapped, and every thread parked on it executes its instruction again (10 R179). -/
def execPageMappedWake (core r : Nat) (s : State) : Host.Outcome State Fault Refusal :=
  match faultRec s core r with
  | none => .next s
  | some x => if pageMapped s x then .next (endFault s core r (fun s w t => modTh s w t (fun th => { th with wait := .none })))
    else .next s

/-- FAULT_TIMEOUT: the page of record r is not mapped 10 ms after the record was posted; each parked thread takes trap 0x05 with reason
0x08 (10 R179). -/
def execFaultTimeout (core r : Nat) (s : State) : Host.Outcome State Fault Refusal :=
  match faultRec s core r with
  | none => .next s
  | some x =>
    if dtime s < x.at0 + 10000000 ∨ pageMapped s x then .next s
    else .next (endFault s core r (fun s w t => match (thOf s w t).wait with
      | .fault _ va wr => trapNow (modTh s w t (fun th => { th with wait := .none })) w t 0x05
          (BitVec.ofNat 64 (x.level * 4096 + b2n wr * 256 + 8)) (BitVec.ofNat 64 va)
      | _ => s))

/-- TRANSLATION_INVALIDATE: the monitor's invalidation of a changed entry completes on every die (10 R172). -/
def execTranslationInvalidate (k : Nat) (s : State) : Host.Outcome State Fault Refusal :=
  .next { s with stale := s.stale.eraseIdx k }

/-- A page-table entry of a partition is changed; until its invalidation both translations may be used (10 R172). -/
def changeEntry (s : State) (p pa : Nat) (v : DWord) : State :=
  memWrite { s with stale := s.stale ++ [(p, pa, BitVec.ofNat 64 (memRead s pa 8))] } pa 8 v.toNat

/-- PAGE_TABLE_ENTRY_CHANGE: the monitor changes the entry at a physical address, once an earlier change of it has been invalidated, and
sets the unscrubbed bits of freed granules (10 R172, R174). -/
def execPageTableEntryChange (p pa : Nat) (v : DWord) (freed : List Nat) (s : State) : Host.Outcome State Fault Refusal :=
  if pa % 8 ≠ 0 ∨ !decide (pa < Config.hbmBytes) ∨ (staleEntry s p pa).isSome then .next s
  else .next (freed.foldl (fun s g => setUnscrubbed s g true) (changeEntry s p pa v))

end Sys2Proof.Machine
end

