-- ==== Sys2Proof/Machine/StagedHome.lean ====
section
/-!
DEFINITION. StagedHome.lean: transitions that reach a home slice as requests, their answers, and the wakes of parked lanes (13 R213 to
R217).
-/
namespace Sys2Proof.Machine

/-- The object a request names. -/
def Req.obj (r : Req) (va : Nat) : Obj :=
  { ctx := r.ctx, part := r.part, die := r.die, pa := r.pa, va := va, prop := r.prop
    via := match r.origin with
      | .thread _ _ _ | .copy _ _ | .link _ => some r.core
      | _ => none }

/-- The scope of a request's transition, its mask, and the stamp below which its core's stores come before it (13 R213, R216). -/
def Req.release (s : State) (r : Req) : Nat × BitVec 4 × Nat :=
  match r.origin with
  | .thread _ _ _ => (r.scope, r.ss, r.stamp)
  | .copy w num =>
    (((getWg s w).copies.find? (fun c => c.num == num)).map (fun c => (ctlScope c.ctl.toNat, 0b1111#4, c.relAt))).getD (0, 0, 0)
  | .link num => ((s.links.find? (fun l => l.num == num)).map (fun l => (ctlScope l.ctl.toNat, 0b1111#4, l.relAt))).getD (0, 0, 0)
  | _ => (0, 0, 0)

/-- Whether the entry of a request's transition is a release, and is performed (13 R210). -/
def Req.releases (s : State) (o : Obj) (t : Nat) : Bool :=
  match lookEntry s o t with
  | .error _ => false
  | .ok e => eReleases e.2.2

/-- Before a transition whose entry is a release: the earlier loads of its lanes in its mask read, and what else it must come after is awaited
(13 R213, 11 R185, R188). -/
def releaseFirst (s : State) (r : Req) (o : Obj) (t : Nat) : State × Bool :=
  if !Req.releases s o t then (s, true)
  else
    let ts := match r.origin with | .thread w _ tok => tokThreads s w tok | _ => []
    let a := r.release s
    let old (p : Pend) : Bool := decide (p.tok < r.stamp) && p.readsIn a.2.1
    let s := ts.foldl (fun s t => captureWhere s r.wg t old) s
    (s, ts.all (fun t => !(thOf s r.wg t).pend.any old && !ownReqsIn s r.wg t r.id a.2.1)
      && drainedIn s r.core a.2.2 (drainMask a.1 a.2.1))

/-- What a request's transition waits for before it is performed: its release, and its posting's entry; whether it may go. When it first may, a
zero-length read follows the posted writes of a release at system scope over host memory (22 R354). -/
def beforeTransition (s : State) (r : Req) (o : Obj) (t : Nat) : State × Bool :=
  let q := releaseFirst s r o t
  if !q.2 then q
  else
    let x := targetWaits q.1 o r.id t
    let a := r.release s
    (if !x.2 && Req.releases s o t && !r.held then flushHost x.1 r.part a.1 a.2.1 else x.1, !x.2)

/-- The answer of a link operation's transition (22 R369, R372). -/
def linkAnswer (s : State) (num : Nat) (ok : Bool) : State :=
  modLink s num (fun l => { l with performed := true, held := none, failed := if ok then l.failed else some (l.failed.getD 7) })

/-- The object whose park-table place a thread holds while its transition is on its way. -/
def placeOf (s : State) (r : Req) (w t : Nat) : Nat :=
  (((getCore s r.core).parks.find? (fun e => e.wg == w && e.wait.contains t)).bind ParkEnt.pa).getD r.pa

/-- Whether a transition was performed. -/
def TOut.ok : TOut → Bool
  | .done _ _ => true
  | _ => false

/-- A request is answered to whoever issued it (13 R213, R217). -/
def answerReq (s : State) (r : Req) (o : Obj) (t : Nat) (out : TOut) : State :=
  let s := dropReq s r.id
  match r.origin with
  | .thread w u tok => answerThread s w (grpOf u) tok (placeOf s r w u) out
  | .copy w num => copyAnswer s w num out.ok
  | .entry p raw status => entryAnswer s p raw status o t out
  | .link num => linkAnswer s num out.ok
  | .remote die dev ch opsn => remoteAnswer s die dev ch opsn out
  | .none => s

/-- Whether a thread issued a request. -/
def Req.byThread (r : Req) : Bool := match r.origin with | .thread _ _ _ => true | _ => false

/-- Whether a request's turn has come at its home slice. -/
def turnOf (s : State) (r : Req) : Bool := !objectWaits s r.id r.pa && mayPerform s r

/-- STAGED_TRANSITION: request number k performs its transition at the home slice (13 R213 to R217). -/
def execStagedTransition (k : Nat) (s : State) : Host.Outcome State Fault Refusal :=
  match s.reqs.find? (fun r => r.id == k) with
  | none => .next s
  | some r => match r.kind with
    | .trans t x va =>
      if !turnOf s r then .next s
      else
        let o := r.obj va.toNat
        let q := beforeTransition s r o t
        if !q.2 then .next q.1
        else match transition q.1 o t x (if r.byThread then .thread else .engine) with
          | (s, .full) => .next (if r.byThread then answerReq s r o t .full else setReq s { r with held := true })
          | (s, .chain st old code g pa l) => .next (setReq s { r with
              pa := pa, prop := l.prop, vgran := g / 65536, held := false, kind := .chain code x (BitVec.ofNat 64 g) (st, old) })
          | (s, out) => .next (answerReq s r o t out)
    | _ => .next s

/-- CHAINED_TRANSITION: request number k performs its chained transition at the home slice; the answer is the first transition's (13
R216). -/
def execChainedTransition (k : Nat) (s : State) : Host.Outcome State Fault Refusal :=
  match s.reqs.find? (fun r => r.id == k) with
  | none => .next s
  | some r => match r.kind with
    | .chain t x va first =>
      if !turnOf s r then .next s
      else
        let o := r.obj va.toNat
        let q := beforeTransition s r o t
        if !q.2 then .next q.1
        else match transition q.1 o t x .chained with
          | (s, .full) => .next (setReq s { r with held := true })
          | (s, .done st _) => .next (answerReq s r o t (.done (chainStatus first.1 st) first.2))
          | (s, out) => .next (answerReq s r o t out)
    | _ => .next s

/-! ### Wakes (13 R214, R215) -/

/-- A lane that slept executes its `stx` again. -/
def Thread.wake (th : Thread) : Thread :=
  match th.wait with
  | .park _ | .ring => { th with wait := .none }
  | _ => th

/-- PARK_WAKE: wake message k reaches its core, which returns every lane recorded for the object, or against the context's ring, to the ready
set (13 R214, R215). Messages from one home slice to one core arrive in the order they were sent. -/
def execParkWake (core k : Nat) (s : State) : Host.Outcome State Fault Refusal :=
  match s.wakes[k]? with
  | none => .next s
  | some (c, what, ctx) =>
    if c ≠ core || (s.wakes.take k).any (fun x => x.1 == core && x.2.1.isSome && x.2.1.map homeOf == what.map homeOf) then .next s
    else
      let hit (e : ParkEnt) : Bool := e.pa == what && (what.isSome || e.ctx == ctx)
      let es := (getCore s core).parks.filter hit
      let left := ((getCore s core).parks.map (fun e => if hit e then { e with mask := [] } else e)).filter (fun e =>
        !(hit e && e.wait.isEmpty))
      let s := modCore { s with wakes := s.wakes.eraseIdx k } core (fun c => { c with parks := left })
      .next (es.foldl (fun s e => e.mask.foldl (fun s t => modTh s e.wg t Thread.wake) s) s)

/-- PARK_TABLE_RETRY: a thread that found no place in the park table tries its `stx` again (13 R214). -/
def execParkTableRetry (w t : Nat) (s : State) : Host.Outcome State Fault Refusal :=
  if (thOf s w t).wait == .parkRetry && (getWg s w).status == .resident then .next (modTh s w t (fun th => { th with wait := .none }))
  else .next s

end Sys2Proof.Machine
end

