-- ==== Sys2Proof/Machine/Queues.lean ====
section
/-!
DEFINITION. Queues.lean: user queues, hardware slots, and the scheduler firmware (21 R337 to R349), with the monitor's calls for debug
registers and fault records (18 R316, 10 R179).
-/
namespace Sys2Proof.Machine

/-! ### Queue control blocks (21 R337) -/

/-- The bytes of a QCB, and of what is kept with it: the save area stands behind it (21 R343, log 109). -/
def qcbBytes : Nat := 256
def queueBytes : Nat := 256 + 4096

/-- The first 384 bits of a queue's QCB. -/
def UQueue.head (s : State) (u : UQueue) : Nat := memRead s u.qcb 48
/-- Its fields. -/
def qBase (x : Nat) : Nat := bits x 63 0
def qLogn (x : Nat) : Nat := bits x 75 72
def qPrio (x : Nat) : Nat := bits x 79 76
def qCtx (x : Nat) : Nat := bits x 107 88
def qErr (x : Nat) : Nat := bits x 127 124
def qWptr (x : Nat) : Nat := bits x 191 128
def qRidx (x : Nat) : Nat := bits x 255 192
def qHpri (x : Nat) : Nat := bits x 303 300
def qAge (x : Nat) : Nat := bits x 307 304

/-- The bits of a QCB with a field replaced. -/
def putField (x hi lo v : Nat) : Nat := x - bits x hi lo * 2 ^ lo + v % 2 ^ (hi + 1 - lo) * 2 ^ lo

/-- Write a field of a QCB, where it stands: in far memory while it is paged out (21 R344). -/
def setQcb (s : State) (u : UQueue) (hi lo v : Nat) : State :=
  let a := u.paged.getD u.qcb
  memWrite s a 48 (putField (memRead s a 48) hi lo v)

/-- Whether a context is a partition's: the monitor refuses a call that names the QCB of another's (21 R346). -/
def ctxIn (s : State) (p c : Nat) : Bool := (getCtx s c).any (fun x => x.part == p)

/-- Whether a QCB is valid: its reserved fields are zero and its read-only ones in their ranges. -/
def qcbOk (s : State) (u : UQueue) : Bool :=
  let x := memRead s u.qcb 256
  x / 2 ^ 384 == 0 && bits x 319 308 == 0 && bits x 299 293 == 0 && bits x 287 256 == 0 && bits x 123 108 == 0
    && bits x 87 80 == 0 && bits x 71 64 == 0 && decide (1 ≤ qLogn x) && decide (qLogn x ≤ 12)
    && qBase x % 128 == 0 && qWptr x % 8 == 0

/-- A queue of a partition. -/
def getQ (s : State) (p q : Nat) : Option UQueue := SMap.find (getPart s p).queues q
/-- Change a queue of a partition. -/
def modQ (s : State) (p q : Nat) (f : UQueue → UQueue) : State :=
  match getQ s p q with
  | some u => modPart s p (fun x => { x with queues := SMap.put x.queues q (f u) })
  | none => s
/-- A slot of a partition. -/
def getSlot (s : State) (p k : Nat) : Slot := (getPart s p).slots.getD k Slot.free
/-- Change a slot of a partition. -/
def modSlot (s : State) (p k : Nat) (f : Slot → Slot) : State := modPart s p (fun x => { x with slots := modAt x.slots k f })
/-- The slot that holds a queue. -/
def slotOf (s : State) (p q : Nat) : Option Nat := (getPart s p).slots.findIdx? (fun k => k.queue == some q)
/-- Set a bit of the pending vector (21 R340). -/
def setPending (s : State) (p q : Nat) : State := modPart s p (fun x => { x with pending := insNat x.pending q })
/-- Clear a bit of the pending vector. -/
def clearPending (s : State) (p q : Nat) : State := modPart s p (fun x => { x with pending := x.pending.filter (· != q) })

/-! ### Kicks and slots (21 R339 to R341) -/

/-- LACT of a queue becomes the present time: in its slot, or in its QCB (21 R337, log 74). -/
def touchQueue (s : State) (p q : Nat) : State :=
  match slotOf s p q, getQ s p q with
  | some k, _ => modSlot s p k (fun y => { y with lact := BitVec.ofNat 64 (dtime s) })
  | none, some u => setQcb s u 383 320 (dtime s)
  | none, none => s

/-- Whether a slot is paused: by a quiesced partition or context, or by a live update from its step 3 on (21 R348, 22 R352, R359). -/
def slotPaused (s : State) (y : Slot) : Bool := y.paused || s.dev.update.any (fun u => decide (u.1 ≥ 3))

/-- KICK: a write to the KICK register of a partition's function (21 R340). A kick to an unmapped queue interrupts the firmware (R341). -/
def execKick (p : Nat) (v : Word) (s : State) : Host.Outcome State Fault Refusal :=
  if v.toNat / 2 ^ 12 ≠ 0 ∨ (getPart s p).setup.isNone then .next s
  else
    let q := v.toNat % 2 ^ 12
    let s := touchQueue (setPending s p q) p q
    .next (if (slotOf s p q).isSome then s else modPart s p (fun x => { x with kicked := true }))

/-- Read n bytes in the tables of a queue's context; none where they are unreadable. A granule that is unscrubbed or being cleared reads
as zeros (10 R174). A bad page-table entry is logged (R171). -/
def slotRead (s : State) (p ctx va n : Nat) (ss : BitVec 4) : State × Option Nat :=
  let out := checkAddr s ctx (firstDie s p) va { Need.plainRead n with ss := ss } s.fresh
  let s := countWalk s ctx (firstDie s p) va { Need.plainRead n with ss := ss }
  match out with
  | .ok pa l =>
    let s1 := startClear s l.uns pa
    if clearingAt s1 pa then (s1, some 0)
    else (readFrom s1 p pa n, if memBad s pa n then none else some (memRead s pa n))
  | r => (logPte s r, none)

/-- A slot's queue has an error, and the slot fetches no more (21 R339). -/
def slotError (s : State) (p k : Nat) (u : UQueue) (e : Nat) : State :=
  setQcb (modSlot s p k (fun x => { x with inLoop := false, qcb := putField x.qcb 127 124 e })) u 127 124 e

/-- What a step of the loop leaves in a slot's save area is open (21 R343, log 109). -/
def newArea (s : State) (y : Slot) : Slot := { y with area := Config.slotArea s.tick }

/-- The slot reads WIDX of its queue (21 R341). -/
def slotPoll (s : State) (p k q : Nat) (u : UQueue) : State :=
  let x := (getSlot s p k).qcb
  let r := (getSlot s p k).ridx.toNat
  match slotRead (clearPending s p q) p (qCtx x) (qWptr x) 8 0b1110 with
  | (s, none) => slotError s p k u 2
  | (s, some w) =>
    if w < r ∨ w - r > 2 ^ qLogn x then slotError s p k u 1
    else modSlot (modQ s p q (fun u => { u with lastW := BitVec.ofNat 64 w })) p k (fun y => newArea s { y with inLoop := true })

/-- The slot copies its queue's next entry (21 R341). -/
def slotCopy (s : State) (p k : Nat) (u : UQueue) : State :=
  let x := (getSlot s p k).qcb
  let r := (getSlot s p k).ridx.toNat
  match slotRead s p (qCtx x) (qBase x + 128 * (r % 2 ^ qLogn x)) 128 0b1010 with
  | (s, none) => slotError s p k u 2
  | (s, some e) => modSlot s p k (fun y => newArea s { y with
      ridx := y.ridx + 1, lact := BitVec.ofNat 64 (dtime s), present := [BitVec.ofNat 1024 e] })

/-- SLOT_FETCH: the next step of a mapped slot's loop (21 R341): it reads WIDX, or copies an entry, or its round is over. -/
def execSlotFetch (p slot : Nat) (s : State) : Host.Outcome State Fault Refusal :=
  let y := getSlot s p slot
  match y.queue with
  | none => .next s
  | some q => match getQ s p q with
    | none => .next s
    | some u =>
      if qErr y.qcb ≠ 0 then .next s
      else if y.inLoop then
        if y.ridx == u.lastW || slotPaused s y then .next (modSlot s p slot (fun y => { y with inLoop := false }))
        else if y.present.isEmpty then .next (slotCopy s p slot u) else .next s
      else if slotPaused s y || !((getPart s p).pending.contains q || y.ridx != u.lastW) then .next s
      else .next (slotPoll s p slot q u)

/-! ### Mapping (21 R342, R343) -/

/-- Whether a queue has work: its pending bit, or entries it is known to have (21 R342). -/
def hasWork (s : State) (p q : Nat) (u : UQueue) : Bool :=
  let r := match slotOf s p q with
    | some k => (getSlot s p k).ridx
    | none => BitVec.ofNat 64 (qRidx (u.head s))
  (getPart s p).pending.contains q || r != u.lastW

/-- The effective priority of an unmapped queue (21 R342). -/
def effPrio (s : State) (u : UQueue) : Nat := min 15 (qPrio (u.head s) + qAge (u.head s))

/-- Unmap the queue of slot k (21 R343). A WPTR that cannot be read again is an error of the queue, and reported (R339, R341). -/
def unmapSlot (s : State) (p k : Nat) : State :=
  let y := getSlot s p k
  match y.queue with
  | none => s
  | some q => match getQ s p q with
    | none => modSlot s p k (fun _ => Slot.free)
    | some u =>
      let s := setQcb (setQcb s u 255 192 y.ridx.toNat) u 383 320 y.lact.toNat
      let s := match slotRead s p (qCtx y.qcb) (qWptr y.qcb) 8 0b1110 with
        | (s, none) => if qErr y.qcb = 0 then postEvent (setQcb s u 127 124 2) p (.overrun q 2) else s
        | (s, some w) =>
          let s := modQ s p q (fun u => { u with lastW := BitVec.ofNat 64 w })
          if w = y.ridx.toNat then s else setPending s p q
      let s := memWrite s (u.qcb + qcbBytes) 4096 y.area.toNat
      let s := modSlot (setQcb s u 288 288 0) p k (fun _ => Slot.free)
      modQ s p q (fun u => { u with
        mapped := none, unmapped := dtime s, seen := if hasWork s p q u then some (dtime s) else none })

/-- Map a queue onto free slot k (21 R343). -/
def mapSlot (s : State) (p k q : Nat) : State :=
  match getQ s p q with
  | none => s
  | some u =>
    let s := setQcb (setQcb (setQcb s u 303 300 (effPrio s u)) u 307 304 0) u 292 288 (2 * k + 1)
    let x := u.head s
    let y : Slot := { queue := some q, paused := (getCtx s (qCtx x)).any Ctx.quiet || (getPart s p).quiet, inLoop := false, qcb := x
                      area := BitVec.ofNat 32768 (memRead s (u.qcb + qcbBytes) 4096), ridx := BitVec.ofNat 64 (qRidx x)
                      lact := BitVec.ofNat 64 (bits x 383 320), present := [] }
    modQ (modSlot (setPending s p q) p k (fun _ => y)) p q (fun u => { u with mapped := some (dtime s), seen := none })

/-- Of mapped queues, each with its slot, HPRI and number, the first to give up its slot: the lowest HPRI, among equals the higher number
(21 R342). -/
def firstVictim (l : List (Nat × Nat × Nat)) : Option (Nat × Nat × Nat) :=
  l.foldl (fun b x => match b with
    | none => some x
    | some y => if x.2.1 < y.2.1 ∨ (x.2.1 = y.2.1 ∧ x.2.2 > y.2.2) then some x else b) none

/-- The mapped queues of a partition that pass a test. -/
def mappedWhere (s : State) (p : Nat) (f : Nat → UQueue → Bool) : List (Nat × Nat × Nat) :=
  (rangeFrom 0 16).filterMap (fun k => (getSlot s p k).queue.bind (fun q => (getQ s p q).bind (fun u =>
    if f q u then some (k, qHpri (getSlot s p k).qcb, q) else none)))

/-- Give a queue a slot, if one of the three rules of 21 R342 finds one. -/
def placeQueue (s : State) (p q : Nat) : Option State :=
  match (rangeFrom 0 16).find? (fun k => (getSlot s p k).queue.isNone) with
  | some k => some (mapSlot s p k q)
  | none => match firstVictim (mappedWhere s p (fun q u => !hasWork s p q u)) with
    | some v => some (mapSlot (unmapSlot s p v.1) p v.1 q)
    | none =>
      let old (_ : Nat) (u : UQueue) : Bool := u.mapped.any (fun t => decide (dtime s ≥ t + (getPart s p).params.eligible))
      match firstVictim (mappedWhere s p old), getQ s p q with
      | some v, some u => if v.2.1 < effPrio s u then some (mapSlot (unmapSlot s p v.1) p v.1 q) else none
      | _, _ => none

/-- The unmapped queues that a pass considers: with work, without an error, not paged out, and with a valid QCB of a context of the partition
(21 R339, R344, R346). -/
def passQueues (s : State) (p : Nat) : List Nat :=
  ((getPart s p).queues.filter (fun e => (slotOf s p e.1).isNone && hasWork s p e.1 e.2 && e.2.paged.isNone
    && qErr (e.2.head s) == 0 && qcbOk s e.2 && ctxIn s p (qCtx (e.2.head s)))).map Prod.fst

/-- The first of some queues in a pass: the highest effective priority, then the lowest number. -/
def firstQueue (s : State) (p : Nat) (qs : List Nat) : Option Nat :=
  let eff (q : Nat) : Nat := ((getQ s p q).map (effPrio s)).getD 0
  qs.foldl (fun b q => match b with
    | none => some q
    | some c => if eff q > eff c ∨ (eff q = eff c ∧ q < c) then some q else b) none

/-- Place the queues of a pass in turn, up to the first that has no place. -/
def placeQueues (p : Nat) : Nat → List Nat → State → State
  | 0, _, s => s
  | n + 1, qs, s => match firstQueue s p qs with
    | none => s
    | some q => match placeQueue s p q with
      | some s => placeQueues p n (qs.filter (· != q)) s
      | none => s

/-- Kicks to numbers that no queue has are cleared and reported (21 R340). -/
def reportSpurious (s : State) (p : Nat) : State :=
  ((getPart s p).pending.filter (fun q => (getQ s p q).isNone)).foldl (fun s q => postEvent (clearPending s p q) p (.spurious q)) s

/-- Queues with an error are unmapped and reported (21 R339). -/
def dropErrors (s : State) (p : Nat) : State :=
  (rangeFrom 0 16).foldl (fun s k => match (getSlot s p k).queue with
    | none => s
    | some q => match getQ s p q with
      | none => s
      | some _ =>
        let e := qErr (getSlot s p k).qcb
        if e = 0 then s else postEvent (unmapSlot s p k) p (.overrun q e)) s

/-- The firmware sees which unmapped queues have work (21 R342). -/
def noteWork (s : State) (p : Nat) : State :=
  (getPart s p).queues.foldl (fun s e =>
    if (slotOf s p e.1).isNone && hasWork s p e.1 e.2 && e.2.seen.isNone then modQ s p e.1 (fun u => { u with seen := some (dtime s) })
    else s) s

/-- The fault records outstanding on a partition's cores, or saved with its workgroups. -/
def faultsOf (s : State) (p : Nat) : List FaultRec :=
  (getPart s p).cores.flatMap (fun c => (getCore s c).faults)
    ++ (s.wgs.filter (fun g => g.part == p && g.status == .saved)).flatMap Wg.savedFaults

/-- The state table of a partition as the firmware would write it now (21 R348). -/
def tableNow (s : State) (p : Nat) : FwTable :=
  let x := getPart s p
  { version := s.dev.stver, qcbs := x.queues.map (fun e => (e.1, e.2.qcb, e.2.paged)), slots := x.slots.map Slot.queue
    faults := faultsOf s p, doubles := x.doubles, params := x.params }

/-- The contents of a state table, as its layout takes them: every list after its length. -/
def FwTable.words (t : FwTable) : List Nat :=
  let many (l : List (List Nat)) : List Nat := l.length :: l.flatten
  let opt (o : Option Nat) : List Nat := match o with | some x => [1, x] | none => [0, 0]
  t.version :: many (t.qcbs.map (fun e => [e.1, e.2.1] ++ opt e.2.2)) ++ many (t.slots.map opt)
    ++ many (t.faults.map (fun r => [r.num, r.ctx, r.page, r.size, r.leaf, r.level, b2n r.wr, r.at0]))
    ++ many (t.doubles.map (fun r => r.words.length :: r.words))
    ++ [t.params.lbound, t.params.polite, t.params.killTimeout, t.params.eligible, t.params.ageStep, t.params.pageOut]

/-- The firmware writes its state table, as it does whenever it changes what a restart takes from it, to the global memory that it has for it
(21 R348, log 78). -/
def noteTable (s : State) (p : Nat) : State :=
  let t := tableNow s p
  let s := match (getPart s p).setup with
    | some c => memWrite s c.table c.tableLen (Config.stateTable t.words)
    | none => s
  modPart s p (fun x => { x with table := some t })

/-- HSTATE: restarting in some partition, updating, or running (21 R349). -/
def noteHearth (s : State) : State :=
  modDev s (fun d => { d with hstate := if s.parts.any Part.restarting then 2 else if d.update.isSome then 1 else 0 })

/-- The firmware reports the double traps that are outstanding (18 R304). -/
def reportDoubles (s : State) (p : Nat) : State :=
  (getPart s p).doubles.foldl (fun s r => postEvent s p r) (modPart s p (fun x => { x with doubles := [] }))

/-- The mapping pass of a partition (21 R342); a restart of the firmware is over with it (R347). -/
def mapPass (s : State) (p : Nat) : State :=
  let s := noteWork (dropErrors (reportSpurious (reportDoubles s p) p) p) p
  let qs := passQueues s p
  let s := modPart (placeQueues p qs.length qs s) p (fun x => { x with lastPass := dtime s, kicked := false, restarting := false })
  noteHearth (noteTable s p)

/-- Whether the scheduler firmware makes mapping passes (21 R348 step 3). -/
def firmwareRuns (s : State) : Bool := s.dev.phase == 6 && (match s.dev.update with | some u => decide (u.1 < 3) | none => true)

/-- Whether a partition's firmware runs and is not restarting (21 R347). -/
def instanceRuns (s : State) (p : Nat) : Bool := firmwareRuns s && !(getPart s p).restarting

/-- MAPPING_PASS: every 100 µs and on a kick interrupt (21 R342). The slots are between two entries, with none left to present (R343). -/
def execMappingPass (p : Nat) (s : State) : Host.Outcome State Fault Refusal :=
  let x := getPart s p
  if !firmwareRuns s || x.setup.isNone || x.slots.any (fun y => !y.present.isEmpty)
      || !(x.kicked || decide (dtime s ≥ x.lastPass + 100000)) then .next s
  else .next (mapPass s p)

/-- QUEUE_AGE_STEP: an unmapped queue has had work for one more ageing step (21 R342). -/
def execQueueAgeStep (p q : Nat) (s : State) : Host.Outcome State Fault Refusal :=
  match getQ s p q with
  | none => .next s
  | some u => match u.seen with
    | none => .next s
    | some t =>
      let e := t + (getPart s p).params.ageStep
      if !instanceRuns s p || (slotOf s p q).isSome || !hasWork s p q u || u.paged.isSome || decide (dtime s < e) then .next s
      else .next (modQ (setQcb s u 307 304 (min 15 (qAge (u.head s) + 1))) p q (fun u => { u with seen := some e }))

/-! ### Paging (21 R344) -/

/-- Copy n bytes of physical memory, a multiple of 32, to another address, with their uncorrectable words; the errors that it corrects are
counted (01 R20). -/
def copyMem (s : State) (src dst n : Nat) : State :=
  let s := countReads s src n
  let inn (a b : Nat) : Bool := decide (a ≤ b) && decide (b < a + n)
  let moved := (s.mem.filter (fun c => inn src c.1)).map (fun c => (c.1 - src + dst, c.2))
  let bad := (s.badMem.filter (fun w => inn src (32 * w))).map (fun w => w - src / 32 + dst / 32)
  { s with
    mem := s.mem.filter (fun c => decide (c.1 < dst)) ++ moved ++ s.mem.filter (fun c => decide (dst + n ≤ c.1))
    badMem := s.badMem.filter (fun w => !inn dst (32 * w)) ++ bad }

/-- Whether n bytes at a physical address lie in a partition's far memory, in every 1 GiB unit that they span: each at its number from the bottom of physical space 1
(22 R357; the places are the model's choice, log 104). -/
def inFar (s : State) (p pa n : Nat) : Bool :=
  pa / 2 ^ 50 == 1 && (pa + n - 1) / 2 ^ 50 == 1 && ((getPart s p).setup.map (fun c =>
    (rangeFrom (pa % 2 ^ 50 / 2 ^ 30) ((pa + n - 1) % 2 ^ 50 / 2 ^ 30 + 1 - pa % 2 ^ 50 / 2 ^ 30)).all (fun u => c.far.contains u))).getD false

/-- QCB_PAGE_OUT: a queue has stayed unmapped for the delay, and its QCB and save area go to far memory (21 R344). -/
def execQcbPageOut (p q far : Nat) (s : State) : Host.Outcome State Fault Refusal :=
  match getQ s p q with
  | none => .next s
  | some u =>
    if !instanceRuns s p || (slotOf s p q).isSome || u.paged.isSome || !inFar s p far queueBytes || far % 256 != 0
        || !ctxIn s p (qCtx (u.head s)) || decide (dtime s < u.unmapped + (getPart s p).params.pageOut) then .next s
    else .next (noteTable (modQ (copyMem s u.qcb far queueBytes) p q (fun u => { u with paged := some far })) p)

/-- QCB_PAGE_IN: after a kick, the firmware pages a QCB and its save area back (21 R344). -/
def execQcbPageIn (p q : Nat) (s : State) : Host.Outcome State Fault Refusal :=
  match getQ s p q with
  | none => .next s
  | some u => match u.paged with
    | none => .next s
    | some far =>
      if !instanceRuns s p || !(getPart s p).pending.contains q || !ctxIn s p (qCtx (memRead s far 48)) then .next s
      else .next (noteTable (modQ (copyMem s far u.qcb queueBytes) p q (fun u => { u with paged := none, unmapped := dtime s })) p)

/-! ### The driver's queues (21 R337) -/

/-- The QCB of a new queue. -/
def newQcb (c : QueueSpec) : Nat :=
  c.base.toNat + (c.logn % 16) * 2 ^ 72 + (c.prio % 16) * 2 ^ 76 + (c.ctx % 2 ^ 20) * 2 ^ 88 + c.wptr.toNat * 2 ^ 128

/-- Whether n bytes at a physical address lie in the HBM of a partition's dies. -/
def inHbm (s : State) (p pa n : Nat) : Bool :=
  decide (pa < Config.hbmBytes) && (pa + n - 1) / Config.dieBytes == pa / Config.dieBytes
    && (getPart s p).dies.contains (pa / Config.dieBytes)

/-- QUEUE_CREATE: the driver creates a queue, or creates it again, through the monitor (21 R337, R339, R346). -/
def execQueueCreate (p q : Nat) (spec : QueueSpec) (s : State) : Host.Outcome State Fault Refusal :=
  if q ≥ 4096 ∨ spec.qcb % 256 ≠ 0 ∨ !inHbm s p spec.qcb queueBytes ∨ !ctxIn s p spec.ctx
      ∨ spec.logn < 1 ∨ spec.logn > 12 ∨ spec.prio > 15 ∨ spec.base.toNat % 128 ≠ 0 ∨ spec.wptr.toNat % 8 ≠ 0
      ∨ (slotOf s p q).isSome then .next s
  else
    let u : UQueue := { qcb := spec.qcb, paged := none, seen := none, mapped := none, unmapped := dtime s, lastW := 0 }
    .next (noteTable (modPart (memWrite s spec.qcb 256 (newQcb spec)) p (fun x => { x with queues := SMap.put x.queues q u })) p)

/-- QUEUE_DESTROY: the driver destroys a queue through the monitor, unmapped first if it is mapped (21 R337, R343). -/
def execQueueDestroy (p q : Nat) (s : State) : Host.Outcome State Fault Refusal :=
  let gone (s : State) : State := noteTable (modPart s p (fun x => { x with queues := SMap.del x.queues q })) p
  match slotOf s p q with
  | none => .next (gone s)
  | some k => if (getSlot s p k).present.isEmpty then .next (gone (unmapSlot s p k)) else .next s

/-! ### The firmware (21 R346 to R348) -/

/-- The numbers of the partitions that are set up. -/
def setUp (s : State) : List Nat := (rangeFrom 0 4).filter (fun p => (getPart s p).setup.isSome)

/-- STATE_TABLE_WRITE (21 R348). -/
def execStateTableWrite (p : Nat) (s : State) : Host.Outcome State Fault Refusal :=
  if (getPart s p).setup.isNone || s.dev.phase != 6 || (getPart s p).restarting then .next s else .next (noteTable s p)

/-- What restarted firmware takes from the last state table: queues with their paging state, and the parameters (21 R347, R348). When it first saw a
queue's work is not in the table. -/
def restoreTable (s : State) (p : Nat) : State :=
  match (getPart s p).table with
  | none => s
  | some t => modPart s p (fun x => { x with
      params := t.params
      queues := x.queues.filterMap (fun e => (t.qcbs.find? (fun y => y.1 == e.1)).map (fun y =>
        (e.1, { e.2 with qcb := y.2.1, paged := y.2.2, seen := none }))) })

/-- WATCHDOG_EXPIRY: the monitor restarts the firmware of a partition from its last state table; the slots keep fetching, and the pending vector is
scanned before the first pass (21 R347). -/
def execWatchdogExpiry (p : Nat) (s : State) : Host.Outcome State Fault Refusal :=
  if (getPart s p).setup.isNone || !firmwareRuns s then .next s
  else .next (noteHearth (modPart (postEvent (restoreTable s p) p .watchdog) p (fun x => { x with kicked := true, restarting := true })))

/-- A live update is aborted at a step, and reported (21 R348, R349). -/
def abortUpdate (s : State) (stage : Nat) : State :=
  let s := (setUp s).foldl (fun s p => postEvent s p (.aborted stage)) s
  noteHearth (modDev s (fun d => { d with update := none }))

/-- LIVE_UPDATE: the next step of a live update, which pauses the slots from step 3 to step 6; `ok` tells whether the image verifies (step 1), the state table has a version that is known
(step 2), and steps 3 and 4 succeed (21 R348). None is performed with a failed Hearth (R349). -/
def execLiveUpdate (stage fwver stver : Nat) (ok : Bool) (s : State) : Host.Outcome State Fault Refusal :=
  let step : Nat := match s.dev.update with | some u => u.1 + 1 | none => 1
  if s.dev.phase ≠ 6 ∨ s.dev.hfailA ∨ s.dev.hfailB ∨ stage ≠ step ∨ fwver ≥ 2 ^ 16 ∨ stver ≥ 2 ^ 8 then .next s
  else if !ok && decide (stage < 5) then .next (abortUpdate s stage)
  else
    let u : Nat × Nat × Nat := match s.dev.update with | some u => (stage, u.2) | none => (stage, fwver, stver)
    let s := noteHearth (modDev s (fun d => { d with update := some u }))
    if stage = 4 then .next ((setUp s).foldl noteTable s)
    else if stage = 5 then .next (modDev s (fun d => { d with acth := 3 - d.acth, fwver := u.2.1, stver := u.2.2 }))
    else if stage = 6 then
      let s := noteHearth (modDev s (fun d => { d with update := none }))
      .next ((setUp s).foldl (fun s p => modPart s p (fun x => { x with kicked := true })) s)
    else .next s

/-- Whether parameters lie in the ranges that the monitor accepts (17 R272, 18 R307, R308, 21 R342, R344). -/
def paramsOk (x : PartParams) : Bool :=
  decide (53000 ≤ x.lbound) && decide (x.lbound ≤ 1000000) && decide (x.polite + 53000 ≤ x.lbound) && decide (x.polite ≤ 100000)
    && decide (4000 ≤ x.killTimeout) && decide (x.killTimeout ≤ 100000)
    && decide (50000 ≤ x.eligible) && decide (x.eligible ≤ 10000000) && decide (50000 ≤ x.ageStep) && decide (x.ageStep ≤ 10000000)
    && decide (1000000 ≤ x.pageOut) && decide (x.pageOut ≤ 10000000000)

/-- MONITOR_SET_PARAMS (21 R346). -/
def execMonitorSetParams (p : Nat) (prm : PartParams) (s : State) : Host.Outcome State Fault Refusal :=
  if (getPart s p).setup.isNone || !paramsOk prm then .next s
  else .next (noteTable (modPart s p (fun x => { x with params := prm })) p)

/-- MONITOR_SERVICE_FAULT: the page of fault record r, in the partition's far memory or host memory at the address its entry gives, is copied to a page of the
partition's HBM and mapped there (21 R346, 10 R171, R179). -/
def execMonitorServiceFault (core r : Nat) (pa : Nat) (s : State) : Host.Outcome State Fault Refusal :=
  match keptFault s core r with
  | none => .next s
  | some x =>
    let p := partOfCtx s x.ctx
    let e := memRead s x.leaf 8
    let src := bits e 51 16 * 65536
    if bit e 63 || !((bits e 55 52 == 1 && inFar s p src x.size) || bits e 55 52 == 2) || pa % x.size != 0 || !inHbm s p pa x.size
        || (staleEntry s p x.leaf).isSome then .next s
    else .next (changeEntry (copyMem (readFrom s p src x.size) src pa x.size) p x.leaf (BitVec.ofNat 64 (2 ^ 63 + bits e 62 56 * 2 ^ 56 + pa)))

/-- The writable bits of a debug register: 0 DCTL, 1 SWG, 2 to 9 NBPA, 10 to 17 NBPK, 18 to 25 GBP (18 R316). -/
def debugMask (reg : Nat) : DWord :=
  if reg = 0 then 0xF0F else if reg = 1 then 0xFFFFFFFF else if reg < 10 then 0x80000000FFFFFFFF
  else if reg < 18 then 0x00FFFFFFFFFFFFC0 else 0xBFFFFFFFFFFFFFFF

/-- DEBUG_WRITE: the monitor applies a write to a debug register of a context (18 R316). -/
def execDebugWrite (c reg : Nat) (v : DWord) (s : State) : Host.Outcome State Fault Refusal :=
  let x := v &&& debugMask reg
  .next (modCtx s c (fun c =>
    if reg = 0 then { c with dctl := x }
    else if reg = 1 then { c with swg := x }
    else if reg < 10 then { c with nbpa := SMap.set 0 c.nbpa (reg - 2) x }
    else if reg < 18 then { c with nbpk := SMap.set 0 c.nbpk (reg - 10) x }
    else if reg < 26 then { c with gbp := SMap.set 0 c.gbp (reg - 18) x }
    else c))

end Sys2Proof.Machine
end

