-- ==== Sys2Proof/Machine/Device.lean ====
section
/-!
DEFINITION. Device.lean: resets, bring-up, monitors and trips (01 R14 to R20), the recovery interface (22 R355, R356), requests to host and
far memory that fail (22 R354, R357), and the registers of the device control page.
-/
namespace Sys2Proof.Machine

/-! ### Resets (01 R14) -/

/-- The machine with every partition, context, workgroup and core cleared; new epochs are drawn (22 R364). Host and far memory stand outside
the device (log 24). -/
def clearAll (s : State) (d : Dev) (cyc : Nat) : State :=
  let ep (k : Nat) : Part := Part.empty (Config.epochDraw (s.fresh + k) % 65535 + 1)
  { State.reset with
    dev := d, cyc := cyc, mem := s.mem.filter (fun c => decide (2 ^ 50 ≤ c.1)), badMem := s.badMem.filter (fun w => decide (2 ^ 45 ≤ w))
    fixMem := s.fixMem.filter (fun w => decide (2 ^ 45 ≤ w)), parts := [ep 0, ep 1, ep 2, ep 3], sched := s.sched, tick := s.tick
    fresh := s.fresh + 4 }

/-- COLD_RESET: power-on or PERST# (01 R14). The monitor will make new attestation keys (22 R361). -/
def execColdReset (s : State) : Host.Outcome State Fault Refusal :=
  .next (clearAll s { Dev.reset with keyGen := s.dev.keyGen + 1, certs := certsOf (s.dev.keyGen + 1) } 0)

/-- Whether the device takes a warm reset: the host reaches it from phase 2 on, or held after a trip, and no die reads 95 °C or above then (01 R15,
R18). Held in phase 2 it accepts only a new image, or nothing (R16). -/
def takesReset (d : Dev) : Bool :=
  if d.tripped then !d.hot else decide (d.phase ≥ 2) && !(d.phase == 2 && (d.sigFail || (d.hfailA && d.hfailB)))

/-- WARM_RESET: by the host, or as the release of a trip (01 R14, R15, R18). -/
def execWarmReset (s : State) : Host.Outcome State Fault Refusal :=
  if !takesReset s.dev then .next s
  else .next (clearAll s { Dev.reset with
    phase := 2, tripc := s.dev.tripc, volts := s.dev.volts, hfailA := s.dev.hfailA, hfailB := s.dev.hfailB
    keyGen := s.dev.keyGen + 1, certs := certsOf (s.dev.keyGen + 1) } s.cyc)

/-! ### Bring-up (01 R15, R16) -/

/-- The boot Hearth: A, or B when HFAILA is set (01 R15). -/
def bootHearth (d : Dev) : Nat := if d.hfailA then 2 else 1

/-- Phase 2 ends: the image that is loaded verifies, or one that was uploaded has been accepted; else the device is held (01 R15, R16). -/
def leaveBoot (d : Dev) (ok : Bool) : Dev :=
  if d.hfailA && d.hfailB then d
  else if d.mailbox.state = 4 then { d with phase := 3, sigFail := false }
  else if d.sigFail then d
  else if ok then { d with phase := 3 }
  else { d with sigFail := true, mailbox := { Recovery.reset with state := 1 } }

/-- The device's registers after the present phase of bring-up (01 R15). -/
def nextPhase (d : Dev) (ok : Bool) (volts : List Nat) : Dev :=
  match d.phase with
  | 0 => { d with phase := 1 }
  | 1 => { d with phase := 2 }
  | 2 => leaveBoot d ok
  | 3 =>
    if d.volts.any (· != 0) then { d with phase := 4 }
    else if volts.length = 4 ∧ volts.all (· != 0) then { d with phase := 4, volts := volts }
    else d
  | 4 => if d.fail then d else if ok then { d with phase := 5 } else { d with fail := true }
  | 5 =>
    let v := Config.bootVersions d.keyGen
    { d with phase := 6, acth := bootHearth d, fwver := v.1 % 2 ^ 16, stver := v.2 % 2 ^ 8 }
  | _ => d

/-- BRING_UP_PHASE: the present phase completes; `ok` tells whether the signatures verify (phase 2) and training succeeds (phase 4), `volts`
what the monitor sets (phase 3) (01 R15, R16). In phase 5 every HBM page becomes unscrubbed. -/
def execBringUpPhase (ok : Bool) (volts : List Nat) (s : State) : Host.Outcome State Fault Refusal :=
  if s.dev.tripped then .next s
  else
    let s1 := if s.dev.phase = 5 then { s with unsAll := true, unsEx := [] } else s
    .next (modDev s1 (fun d => nextPhase d ok volts))

/-! ### Trips (01 R17, R18) -/

/-- An interrupt of the host function (22 R353). -/
def hostInterrupt (s : State) : State := modDev s (fun d => { d with interrupts := d.interrupts ++ [(0, 0)] })

/-- An outcome's state; a fault leaves the state as it was. -/
def nextOr (s : State) : Host.Outcome State Fault Refusal → State
  | .next s => s
  | _ => s

/-- The clears in progress complete, and each request is performed that can be. -/
def performReqs (s : State) : State :=
  let s := s.clearing.foldl (fun s g => nextOr s (execGranuleClearDone g s)) s
  s.reqs.foldl (fun s r => nextOr s (match r.kind with
    | .atom _ _ _ _ => execAtomicAtHome r.id s
    | .trans _ _ _ => execStagedTransition r.id s
    | .chain _ _ _ _ => execChainedTransition r.id s)) s

/-- Everything that has been issued is performed, where it can be: requests, buffers and reductions. -/
def performAll (s : State) : State :=
  (performReqs s).cores.foldl (fun s c => performLines (sendCombs s (clusterOf c.1)) c.1 (fun _ => true)) (performReqs s)

/-- The pending entries of a partition, wherever they stand, complete one by one with status 0x20: also those that completions post, and after
completions that had to wait or that chain; in at most n rounds (log 110). -/
def endPendings : Nat → State → Nat → State
  | 0, s, _ => s
  | n + 1, s, p => match (sources s p).head?.bind (takeSource s p) with
    | some (s, o) => endPendings n (performReqs (completeFuture s p o.ctx o.raw 0x20)) p
    | none => if s.reqs.isEmpty then s else endPendings n (performReqs s) p

/-- Every admitted and every pending entry of a partition completes, those that have not ended with status 0x20 (01 R18). -/
def endAll (s : State) (p : Nat) : State :=
  endPendings 65536 ((getPart s p).entries.foldl (fun s e => completeFuture s p e.ctx e.raw (e.status.getD 0x20)) s) p

/-- The device trips: every context is killed, the entries end, and all dies are held in reset (01 R18). Memory keeps what is written until
the warm reset. -/
def trip (s : State) (cause : Nat) : State :=
  let s := (rangeFrom 0 4).foldl endAll (performAll s)
  let d := { s.dev with
    phase := 0, tripc := cause, tripped := true, acth := 0, update := none, sigFail := false, mailbox := Recovery.reset }
  let c := clearAll s d s.cyc
  hostInterrupt { c with mem := s.mem, badMem := s.badMem, fixMem := s.fixMem, unsAll := s.unsAll, unsEx := s.unsEx }

/-- What a sample gives (01 R17 to R19). -/
def Sample.temps (x : Sample) : List Nat := x.dieTemp ++ [x.ioTemp]
def Sample.volts (x : Sample) : List Nat := x.dieVolt ++ [x.ioVolt]

/-- The trip cause of a sample: 1 temperature, 2 voltage, 3 power, 0 none (01 R18). -/
def sampleTrip (x : Sample) : Nat :=
  if (Sample.temps x).any (· ≥ 105) then 1 else if (Sample.volts x).any (· > 60) then 2 else if x.power > 2200 then 3 else 0

/-- The warning bits and the temperature of a sample (01 R17, R19). -/
def sampleBits (d : Dev) (x : Sample) : Dev :=
  { d with
    maxt := min 255 ((Sample.temps x).foldl max 0)
    hot := (Sample.temps x).any (· ≥ 95)
    twarn := (rangeFrom 0 4).foldl (fun w k => if x.dieTemp.getD k 0 ≥ 95 then w ||| (1#4 <<< k) else w) d.twarn
    twio := d.twio || decide (x.ioTemp ≥ 95)
    vwarn := d.vwarn || (Sample.volts x).any (· > 30)
    pwarn := d.pwarn || decide (x.power > 2000) }

/-- Whether a sample warns. -/
def sampleWarns (x : Sample) : Bool :=
  (Sample.temps x).any (· ≥ 95) || (Sample.volts x).any (· > 30) || decide (x.power > 2000)

/-- MONITOR_SAMPLE: the monitor samples every sensor (01 R17, R18); while the device is held after a trip only the temperatures count. -/
def execMonitorSample (sample : Sample) (s : State) : Host.Outcome State Fault Refusal :=
  if s.dev.tripped then .next (modDev s (fun d => { d with
    maxt := min 255 ((Sample.temps sample).foldl max 0), hot := (Sample.temps sample).any (· ≥ 95) }))
  else if s.dev.phase < 3 then .next s
  else
    let s := modDev s (fun d => sampleBits d sample)
    let s := if sampleWarns sample then hostInterrupt s else s
    .next (if sampleTrip sample = 0 then s else trip s (sampleTrip sample))

/-- REF_CLOCK_LOSS (01 R18). -/
def execRefClockLoss (s : State) : Host.Outcome State Fault Refusal :=
  if s.dev.tripped || decide (s.dev.phase < 1) then .next s else .next (trip s 4)

/-- HEARTH_MEMORY_ERROR: an uncorrectable error in the memory of Hearth A or B (01 R18, R20, 21 R349). No Hearth has a clock before phase 1
has locked it (R15). -/
def execHearthMemoryError (hearthB : Bool) (s : State) : Host.Outcome State Fault Refusal :=
  if s.dev.tripped || decide (s.dev.phase < 2) then .next s
  else .next (modDev (trip s 5) (fun d => { d with hstate := 3, hfailA := d.hfailA || !hearthB, hfailB := d.hfailB || hearthB }))

/-! ### Requests that fail (22 R354, R357) -/

/-- An outstanding access of a thread to a space is not answered in time: its data count as uncorrectable (02 R27). Whether an atomic was
performed is open. -/
def requestFails (s : State) (w t k space : Nat) : State :=
  match (thOf s w t).pend[k]? with
  | none => s
  | some p => match p.src with
    | .known => s
    | .load pa _ _ _ =>
      if pa / 2 ^ 50 ≠ space then s
      else modWg (captureTok s w t p) w (fun g => { g with threads := g.threads.map (fun th => { th with pend := th.pend.map (fun q =>
        if q.tok == p.tok then { q with bad := p.bad } else q) }) })
    | .req id _ _ _ => match s.reqs.find? (fun r => r.id == id && decide (r.pa / 2 ^ 50 = space)) with
      | none => s
      | some r => match r.kind with
        | .atom op ty _ lanes =>
          let m := memRead s r.pa (ty.width / 8)
          let s := if Config.nextPick s.tick then memWrite s r.pa (ty.width / 8) (atomRun op ty m lanes).1 else s
          let s := askHost s r.pa (hostAtomic (r.part + 1) r.pa op ty lanes)
          lanes.foldl (fun s l => answerTok s r.wg l.2.1 true (fun src => match src with
            | .req _ ty d _ => tyWrites d ty m
            | _ => [])) (dropReq s r.id)
        | _ => s

/-- HOST_COMPLETION_TIMEOUT: a host access completes with error, or not within 10 ms (22 R354). -/
def execHostCompletionTimeout (w t k : Nat) (s : State) : Host.Outcome State Fault Refusal := .next (requestFails s w t k 2)

/-- FAR_REQUEST_TIMEOUT: a far-memory request is unanswered for 10 ms, or its data are poisoned (22 R357). -/
def execFarRequestTimeout (w t k : Nat) (s : State) : Host.Outcome State Fault Refusal := .next (requestFails s w t k 1)

/-! ### The recovery interface (22 R355, R356) -/

/-- Whether the mailbox is active: the device is held in phase 2 (22 R355). -/
def mailboxActive (d : Dev) : Bool := d.phase == 2 && d.sigFail

/-- Change the mailbox while it is active. -/
def modMailbox (s : State) (f : Recovery → Recovery) : State :=
  if mailboxActive s.dev then modDev s (fun d => { d with mailbox := f d.mailbox }) else s

/-- Bytes of the image buffer (22 R355). -/
def imageBytes : Nat := 4 * 2 ^ 20

/-- A command fails with an error code. -/
def Recovery.failWith (r : Recovery) (e : Nat) : Recovery := { r with state := 5, err := e }

/-- PIECE: the piece in the window is to be copied (22 R355, R356). -/
def execPiece (s : State) : Host.Outcome State Fault Refusal :=
  .next (modMailbox s (fun r =>
    let n := r.rlen.toNat
    if r.state ≠ 1 then r
    else if r.rofs.toNat % 4 ≠ 0 ∨ n % 4 ≠ 0 ∨ n < 4 ∨ n > 2048 ∨ r.rofs.toNat + n > imageBytes then r.failWith 1
    else { r with state := 2, err := 0 }))

/-- RECOVERY_PIECE_COPIED: the boot ROM has copied the piece into the buffer (22 R355). -/
def execRecoveryPieceCopied (s : State) : Host.Outcome State Fault Refusal :=
  .next (modMailbox s (fun r =>
    if r.state ≠ 2 then r
    else { r with
      state := 1
      image := SMap.setMany 0 r.image r.rofs.toNat ((rangeFrom 0 (min r.rlen.toNat (imageBytes - r.rofs.toNat))).map
        (fun k => SMap.get 0 r.window k)) }))

/-- START: the image is to be verified (22 R355, R356). -/
def execStart (s : State) : Host.Outcome State Fault Refusal :=
  .next (modMailbox s (fun r =>
    if r.state ≠ 1 then r
    else if r.rtot = 0 ∨ r.rtot.toNat % 4 ≠ 0 ∨ r.rtot.toNat > imageBytes then r.failWith 2
    else { r with state := 3, err := 0 }))

/-- The first RTOT bytes of the buffer. -/
def Recovery.bytes (r : Recovery) : List Byte := (rangeFrom 0 r.rtot.toNat).map (fun k => SMap.get 0 r.image k)

/-- RECOVERY_VERIFY_DONE: the signatures have been verified (22 R355, R356). -/
def execRecoveryVerifyDone (s : State) : Host.Outcome State Fault Refusal :=
  .next (modMailbox s (fun r =>
    if r.state ≠ 3 then r
    else if !Config.imageHeaderOk r.bytes then { r.failWith 5 with image := [] }
    else if !Config.ecdsaOk r.bytes then { r.failWith 3 with image := [] }
    else if !Config.lmsOk r.bytes then { r.failWith 4 with image := [] }
    else { r with state := 4, err := 0 }))

/-- ABORT: the buffer is discarded, and STATE returns to 1 (22 R355). -/
def execAbort (s : State) : Host.Outcome State Fault Refusal :=
  .next (modMailbox s (fun r => { r with state := 1, err := 0, image := [] }))

/-- A write to PKG_STS clears the warning bits that it holds as ones (01 R19). -/
def ackWarnings (d : Dev) (v : Word) : Dev :=
  { d with
    twarn := d.twarn &&& ~~~(v.extractLsb' 20 4)
    twio := d.twio && !bit v.toNat 19
    vwarn := d.vwarn && !bit v.toNat 18
    pwarn := d.pwarn && !bit v.toNat 17 }

/-- Whether the PCIe functions answer: from phase 1 on, and while the device is held after a trip, from which the host releases it (01 R15,
R18). -/
def pcieAnswers (d : Dev) : Bool := decide (d.phase ≥ 1) || d.tripped

/-- Whether the PCIe function reports itself ready: only in phase 6 (01 R15). -/
def pcieReady (d : Dev) : Bool := d.phase == 6

/-- REGISTER_WRITE: the host writes a 32-bit word of the device control page (01 R19, 21 R349, 22 R355, R356): PKG_STS, the recovery registers,
or the data window; other offsets hold no writable register. -/
def execRegisterWrite (ofs : Nat) (v : Word) (s : State) : Host.Outcome State Fault Refusal :=
  if !pcieAnswers s.dev then .next s
  else if ofs = 0x40 then .next (modDev s (fun d => ackWarnings d v))
  else if ofs = 0x700 then
    (match v.toNat % 4 with
     | 1 => execPiece s
     | 2 => execStart s
     | 3 => execAbort s
     | _ => .next s)
  else if ofs = 0x708 then .next (modMailbox s (fun r => { r with rofs := v }))
  else if ofs = 0x70C then .next (modMailbox s (fun r => { r with rlen := BitVec.ofNat 32 (v.toNat % 2 ^ 12) }))
  else if ofs = 0x710 then .next (modMailbox s (fun r => { r with rtot := v }))
  else if 0x800 ≤ ofs ∧ ofs < 0x1000 ∧ ofs % 4 = 0 then
    .next (modMailbox s (fun r => { r with window := SMap.setMany 0 r.window (ofs - 0x800) (leBytes 4 v.toNat) }))
  else .next s

/-! ### What the registers read as (01 R19, 21 R349, 22 R355) -/

/-- PKG_STS (01 R19). -/
def pkgSts (d : Dev) : Nat :=
  d.phase * 2 ^ 28 + d.tripc * 2 ^ 25 + b2n d.fail * 2 ^ 24 + d.twarn.toNat * 2 ^ 20 + b2n d.twio * 2 ^ 19 + b2n d.vwarn * 2 ^ 18
    + b2n d.pwarn * 2 ^ 17 + d.acth * 2 ^ 15 + d.maxt * 2 ^ 7

/-- FW_STS (21 R349). -/
def fwSts (d : Dev) : Nat :=
  d.fwver * 2 ^ 16 + d.stver * 2 ^ 8 + d.hstate * 2 ^ 6 + b2n d.hfailA * 2 ^ 5 + b2n d.hfailB * 2 ^ 4

/-- A 32-bit word of the device control page as the host reads it: outside phase 2 the mailbox reads 0 (22 R355). -/
def readRegister (s : State) (ofs : Nat) : Nat :=
  let r := s.dev.mailbox
  if ofs = 0x40 then pkgSts s.dev
  else if ofs = 0x44 then fwSts s.dev
  else if s.dev.phase ≠ 2 then 0
  else if ofs = 0x704 then r.err * 2 ^ 8 + r.state
  else if ofs = 0x708 then r.rofs.toNat
  else if ofs = 0x70C then r.rlen.toNat
  else if ofs = 0x710 then r.rtot.toNat
  else if 0x800 ≤ ofs ∧ ofs < 0x1000 then leOf (fun k => SMap.get 0 r.window (ofs - 0x800 + k)) 4
  else 0

/-- A 32-bit word of BAR 0 of a PCIe function as the host reads it; none where the function does not answer: function 0 has the device control page,
function 1 + p the control page of partition p, where KICK reads as 0 (22 R353, 21 R340, 01 R15). -/
def readPage (s : State) (fn ofs : Nat) : Option Nat :=
  if !pcieAnswers s.dev then none else if fn = 0 then some (readRegister s ofs) else some 0

end Sys2Proof.Machine
end

