-- ==== Sys2Proof/Machine/Monitor.lean ====
section
/-!
DEFINITION. Monitor.lean: what the trusted monitor does for partitions and contexts: set-up and reset (22 R350 to R352), contexts, regions,
export and peer tables (13 R209, 14 R238, 22 R362, R365), migration (22 R358, R359), and attestation (22 R360, R361).
-/
namespace Sys2Proof.Machine

/-! ### Partitions (22 R350 to R352) -/

/-- The sets of dies that a partition may have (22 R350). -/
def dieSets : List (List Nat) := [[0], [1], [2], [3], [0, 1], [2, 3], [0, 1, 2, 3]]

/-- Whether a set-up is allowed beside the other partitions: its dies and its far memory are its own, its weights are 1 to 15, and its state table
stands in the HBM of one of its dies (21 R348, 22 R350, R351, R357). -/
def setupOk (s : State) (p : Nat) (c : PartSetup) : Bool :=
  let others := ((rangeFrom 0 4).filter (· != p)).filterMap (fun q => (getPart s q).setup)
  dieSets.contains c.dies && c.weights.length == 4 && c.weights.all (fun w => decide (1 ≤ w) && decide (w ≤ 15))
    && c.far.all (fun u => decide (u < 4096)) && decide (c.port < 2 ^ 16)
    && decide (0 < c.tableLen) && c.dies.contains (c.table / Config.dieBytes)
    && (c.table + c.tableLen - 1) / Config.dieBytes == c.table / Config.dieBytes
    && (c.ringLen == 0 || (c.ring % 32 == 0 && c.ring / 2 ^ 50 == 2 && (c.ring + 32 * c.ringLen - 1) / 2 ^ 50 == 2))
    && others.all (fun o => c.dies.all (fun d => !o.dies.contains d) && c.far.all (fun u => !o.far.contains u))

/-- PARTITION_SETUP: the monitor sets up a partition that holds no context, or sets it up anew (22 R350, R351). -/
def execPartitionSetup (p : Nat) (cfg : PartSetup) (s : State) : Host.Outcome State Fault Refusal :=
  if p ≥ 4 ∨ s.dev.phase ≠ 6 ∨ !setupOk s p cfg ∨ s.ctxs.any (fun c => c.2.part == p) ∨ (getPart s p).quiet then .next s
  else .next (modPart s p (fun x => { x with setup := some cfg }))

/-- A partition reset begins: admission rejects, the slots pause, and every context is killed (22 R352 steps 1, 2). -/
def beginReset (s : State) (p : Nat) : State :=
  let s := modPart s p (fun x => { x with quiet := true, slots := x.slots.map (fun y => { y with paused := true }) })
  ((s.ctxs.filter (fun c => c.2.part == p && !c.2.dead)).map Prod.fst).foldl killContext s

/-- Every granule of some dies becomes unscrubbed (22 R352 step 3, 10 R174). -/
def unscrubDies (s : State) (dies : List Nat) : State :=
  let n := Config.dieBytes / 65536
  let inn (g : Nat) : Bool := dies.contains (g / n)
  let s := { s with clearing := s.clearing.filter (fun g => !inn g) }
  if s.unsAll then { s with unsEx := s.unsEx.filter (fun g => !inn g) }
  else { s with unsEx := (rangeFrom 0 (4 * n)).filter (fun g => inn g || s.unsEx.contains g) }

/-- The far memory of a partition is overwritten with zeros (22 R352 step 5; where its units stand: log 104). -/
def zeroFar (s : State) (units : List Nat) : State :=
  let inn (pa : Nat) : Bool := pa / 2 ^ 50 == 1 && units.contains (pa % 2 ^ 50 / 2 ^ 30)
  { s with mem := s.mem.filter (fun c => !inn c.1), badMem := s.badMem.filter (fun w => !inn (32 * w)) }

/-- A partition reset ends (22 R352 steps 3 to 6); the partition has a new epoch (22 R364). -/
def endReset (s : State) (p : Nat) : State :=
  let x := getPart s p
  let dies := x.dies
  let cl (k : Nat) : Bool := dies.contains (k * Config.coresPerCluster / Config.coresPerDie)
  let gone (c : Nat) : Bool := (getCtx s c).any (fun y => y.part == p)
  let s := zeroFar (unscrubDies s dies) ((x.setup.map PartSetup.far).getD [])
  let s := modDev s (fun d => { d with
    migrated := d.migrated.filter (fun e => !gone e.1), images := d.images.filter (fun i => !gone i.ctx) })
  let s := { s with
    cores := s.cores.filter (fun c => !dies.contains (dieOf c.1))
    owns := s.owns.filter (fun o => !cl (o.1 / 64))
    combs := s.combs.filter (fun c => !cl c.1)
    streams := s.streams.filter (fun x => x.part != p)
    stale := s.stale.filter (fun e => e.1 != p)
    wakes := s.wakes.filter (fun w => !dies.contains (dieOf w.1))
    ctxs := s.ctxs.filter (fun c => c.2.part != p)
    fresh := s.fresh + 1 }
  modPart s p (fun _ => { Part.empty (Config.epochDraw (s.fresh - 1) % 65535 + 1) with setup := x.setup, lastFold := x.lastFold })

/-- PARTITION_RESET: the next stage of the reset of a partition: it begins; when every context has been killed, it ends (22 R352). -/
def execPartitionReset (p : Nat) (s : State) : Host.Outcome State Fault Refusal :=
  let x := getPart s p
  if x.setup.isNone then .next s
  else if !x.quiet then .next (beginReset s p)
  else if s.ctxs.any (fun c => c.2.part == p && !c.2.revoked) || !x.entries.isEmpty || !x.store.isEmpty
      || s.reqs.any (fun r => r.part == p) || s.links.any (fun l => (getWg s l.wg).part == p) then .next s
  else .next (endReset s p)

/-! ### Contexts (10 R170, 13 R209, 14 R238, 22 R358, R365) -/

/-- A context as it is created (13 R209, 18 R316). -/
def Ctx.fresh (p : Nat) (roots : List Nat) (dlog ring : Nat) : Ctx :=
  { part := p, roots := roots, classes := [], regions := [], exports := [], dctl := 0, swg := 0, nbpa := [], nbpk := [], gbp := []
    spill := [], migrants := [], dlog := dlog, dring := ring, quiet := false, dead := false, revoked := false }

/-- CONTEXT_CREATE: the monitor creates context c with a root for each die, aligned to a root table's size, and its dirty-page log in the
partition's memory (10 R170, 13 R209, 22 R358). -/
def execContextCreate (p c : Nat) (roots : List Nat) (dlog : Nat) (ring : Nat) (s : State) : Host.Outcome State Fault Refusal :=
  if p ≥ 4 ∨ c ≥ 2 ^ 20 ∨ (getPart s p).setup.isNone ∨ (getPart s p).quiet ∨ (getCtx s c).isSome
      ∨ roots.length ≠ (getPart s p).dies.length ∨ !roots.all (fun r => r % 65536 == 0 && inHbm s p r 65536)
      ∨ dlog % 64 ≠ 0 ∨ ring % 8 ≠ 0 ∨ !inHbm s p dlog 64 ∨ !inHbm s p ring (8 * 65536) then .next s
  else .next { s with ctxs := SMap.put s.ctxs c (Ctx.fresh p roots dlog ring) }

/-- REGION_REGISTER: the driver registers a region through the monitor; its generation is the one its index has (14 R238). -/
def execRegionRegister (c idx : Nat) (rg : Region) (s : State) : Host.Outcome State Fault Refusal :=
  if idx ≥ 2 ^ 20 ∨ rg.base % 65536 ≠ 0 ∨ rg.len % 65536 ≠ 0 ∨ rg.len = 0 ∨ !paOk rg.base ∨ !paOk (rg.base + rg.len - 1) then .next s
  else .next (modCtx s c (fun x =>
    let r : Region := { rg with gen := ((SMap.find x.regions idx).map Region.gen).getD 1 }
    { x with regions := SMap.put x.regions idx r }))

/-- REGION_REVOKE: revoking a region advances its generation (14 R238). -/
def execRegionRevoke (c idx : Nat) (s : State) : Host.Outcome State Fault Refusal :=
  .next (modCtx s c (fun x => match SMap.find x.regions idx with
    | some r => { x with regions := SMap.put x.regions idx { r with gen := nextGen r.gen } }
    | none => x))

/-- EXPORT_TABLE_WRITE: the monitor writes or clears an entry of a context's export table (22 R365). -/
def execExportTableWrite (c idx : Nat) (ent : Option ExportEntry) (s : State) : Host.Outcome State Fault Refusal :=
  if idx ≥ 4096 then .next s
  else .next (modCtx s c (fun x => match ent with
    | some e => { x with exports := SMap.put x.exports idx e }
    | none => { x with exports := SMap.del x.exports idx }))

/-- PEER_TABLE_WRITE: the monitor writes or clears an entry of a partition's peer table, of up to 4,096 entries (22 R362). -/
def execPeerTableWrite (p dev : Nat) (peer : Option Peer) (s : State) : Host.Outcome State Fault Refusal :=
  if dev ≥ 2 ^ 20 ∨ (getPart s p).setup.isNone then .next s
  else match peer with
    | none => .next (modPart s p (fun x => { x with peers := SMap.del x.peers dev }))
    | some e =>
      let new := SMap.put (getPart s p).peers dev e
      if new.length ≤ 4096 then .next (modPart s p (fun x => { x with peers := new })) else .next s

/-! ### Migration (22 R358, R359) -/

/-- The indices of the entries of a table that memory lists. -/
def listedEntries (s : State) (table n : Nat) : List Nat :=
  ((s.mem.filter (fun c => decide (table ≤ c.1) && decide (c.1 < table + 8 * n))).map (fun c => (c.1 - table) / 8)).eraseDups

/-- The pages under a table, by the levels that are left, from a virtual address on: address, bytes, and where the leaf stands. -/
def pagesUnder (s : State) : List (Nat × Nat × Nat × Nat) → Nat → Nat → List (Nat × Nat × Nat)
  | [], _, _ => []
  | (_, lo, n, size) :: rest, table, va => (listedEntries s table (2 ^ n)).flatMap (fun k =>
      let pa := table + 8 * k
      let e := memRead s pa 8
      if bit e 56 then [(va + k * 2 ^ lo, size, pa)]
      else if bit e 63 then pagesUnder s rest (bits e 51 16 * 65536) (va + k * 2 ^ lo) else [])

/-- The physical addresses of the writable leaves under a root. -/
def writableLeaves (s : State) (root : Nat) : List Nat :=
  ((pagesUnder s walkLevels root 0).map (fun x => x.2.2)).filter (fun pa => bit (memRead s pa 8) 61)

/-- The pages of a context, each once. -/
def pagesOf (s : State) (x : Ctx) : List (Nat × Nat × Nat) :=
  (x.roots.flatMap (fun r => pagesUnder s walkLevels r 0)).foldl (fun l e => if l.any (fun y => y.1 == e.1) then l else l ++ [e]) []

/-- Where a page that a leaf entry maps has its contents, if that is memory of the partition: in HBM or far memory, also while it is paged out to far
memory (10 R171). -/
def contentsAt (e : Nat) : Option Nat :=
  if (bit e 63 || bits e 55 52 == 1) && decide (bits e 51 50 < 2) then some (bits e 51 16 * 65536) else none

/-- Copy a page of a context: address, bytes and leaf; granules that are unscrubbed or being cleared read as zeros (10 R174). -/
def copyPage (s : State) (y : Nat × Nat × Nat) : State × Option CtxPage :=
  let e := memRead s y.2.2 8
  match contentsAt e with
  | none => (s, none)
  | some a =>
    let zero (pa : Nat) : Bool := (bit e 57 && unscrubbed s (granuleOf pa)) || clearingAt s pa
    let inn (pa : Nat) : Bool := decide (a ≤ pa) && decide (pa < a + y.2.1) && !zero pa
    (countReads s a y.2.1, some
      { va := y.1, size := y.2.1, cells := (s.mem.filter (fun c => inn c.1)).map (fun c => (c.1 - a, c.2))
        bad := (s.badMem.filter (fun w => inn (32 * w))).map (fun w => w - a / 32) })

/-- The granules that a context's log names (22 R358). -/
def loggedGranules (s : State) (x : Ctx) : List Nat :=
  let tail := memRead s (x.dlog + 8) 8
  (rangeFrom 0 (min 65536 ((memRead s x.dlog 8 + 2 ^ 64 - tail) % 2 ^ 64))).map (fun k =>
    memRead s (x.dring + 8 * ((tail + k) % 65536)) 8 % 2 ^ 40)

/-- Whether a round copies a page: one that the log names, or, while OVF is set, one that is writable (22 R358, R359). -/
def toCopy (s : State) (x : Ctx) (y : Nat × Nat × Nat) : Bool :=
  (loggedGranules s x).any (fun g => decide (y.1 ≤ 65536 * g) && decide (65536 * g < y.1 + y.2.1))
    || (bit (memRead s (x.dlog + 16) 1) 0 && bit (memRead s y.2.2 8) 61)

/-- What has been copied of a context so far. -/
def copiedSoFar (s : State) (c : Nat) : CtxImage :=
  (s.dev.images.find? (fun i => i.ctx == c)).getD
    { ctx := c, classes := [], regions := [], exports := [], queues := [], pages := [], migrants := [], pending := [] }

/-- What is copied of a context replaces what had been. -/
def keepImage (s : State) (i : CtxImage) : State :=
  modDev s (fun d => { d with images := d.images.filter (fun j => j.ctx != i.ctx) ++ [i] })

/-- The log of a context is emptied; `clear` also clears OVF (22 R358). -/
def drainLog (s : State) (x : Ctx) (clear : Bool) : State :=
  let s := memWrite s (x.dlog + 8) 8 (memRead s x.dlog 8)
  if clear then memWrite s (x.dlog + 16) 1 (memRead s (x.dlog + 16) 1 / 2 * 2) else s

/-- Steps 2 and 4: a round copies pages, in the first of them every page (log 111), and drains the log (22 R359). -/
def migrateRound (s : State) (c : Nat) (x : Ctx) (first : Bool) : State :=
  let s := ((pagesOf s x).filter (fun y => first || toCopy s x y)).foldl (fun s y => match copyPage s y with
    | (s, some pg) =>
      let i := copiedSoFar s c
      keepImage s { i with pages := i.pages.filter (fun z => z.va != pg.va) ++ [pg] }
    | (s, none) => s) s
  drainLog s x false

/-- Step 1: PROP is set on every writable page and on the regions, and the log is empty (22 R359). -/
def migrateMark (s : State) (c : Nat) (x : Ctx) : State :=
  let leaves := (x.roots.flatMap (writableLeaves s)).eraseDups
  let s := leaves.foldl (fun s pa =>
    let e := memRead s pa 8
    if bit e 58 then s else if (staleEntry s x.part pa).isSome then memWrite s pa 8 (e + 2 ^ 58)
    else changeEntry s x.part pa (BitVec.ofNat 64 (e + 2 ^ 58))) s
  drainLog (modCtx s c (fun x => { x with regions := x.regions.map (fun r => (r.1, { r.2 with prop := true })) })) x true

/-- Step 3: the context is quiesced: its slots pause, its workgroups are to be saved by the ladder, and cores on which it has none are free (22
R359, 18 R307, 17 R286). -/
def migrateQuiesce (s : State) (c : Nat) (x : Ctx) : State :=
  let s := modCtx s c (fun x => { x with quiet := true })
  let mine (y : Slot) : Bool := y.queue.isSome && qCtx y.qcb == c
  let s := modPart s x.part (fun p => { p with slots := p.slots.map (fun y => if mine y then { y with paused := true } else y) })
  let s := ((getPart s x.part).entries.filter (fun e => e.ctx == c)).foldl (fun s e => endGrants s (heldCores s x.part e.qe)) s
  (((s.wgs.filter (fun g => g.onCore && g.ctx == c && g.part == x.part)).map Wg.core).eraseDups).foldl (fun s k =>
    if (getCore s k).preq then s
    else modCore s k (fun y => { y with preq := true, windowEnd := some (dtime s + (getPart s x.part).params.polite) })) s

/-- An admitted entry of a context as it is copied: with what is left of its deadline and of its budget, and its saved workgroups (22 R359 steps
5, 6). -/
def migrantOf (s : State) (p : Nat) (e : Entry) : Migrant :=
  let n := e.raw.toNat
  { raw := BitVec.ofNat 1024 (putField n 319 256 e.rem), d := e.d - dtime s, ended := e.ended, lastEnd := e.lastEnd
    wgs := (wgsOf s p e.qe (· == .saved)).map (getWg s) }

/-- The queues of a context: number and record. -/
def queuesOf (s : State) (p c : Nat) : List (Nat × UQueue) :=
  (getPart s p).queues.filter (fun e => qCtx (e.2.head s) == c)

/-- What is copied of a context (22 R359 step 5). -/
def imageOf (s : State) (c : Nat) (x : Ctx) : CtxImage :=
  { ctx := c, classes := x.classes, regions := x.regions, exports := x.exports
    queues := (queuesOf s x.part c).map (fun e => (e.1, e.2.qcb, memRead s (e.2.paged.getD e.2.qcb) queueBytes))
    pages := (copiedSoFar s c).pages
    migrants := ((getPart s x.part).entries.filter (fun e => e.ctx == c)).map (migrantOf s x.part)
      ++ x.migrants.map (fun m => { m with d := m.d - dtime s })
    pending := ((getPart s x.part).store.filter (fun e => e.2 == c)).map Prod.fst ++ x.spill }

/-- Step 5: results kept for scratchpad are written, the context's queues are unmapped, and its save areas, tables, queues and entries are copied
(22 R359). -/
def migrateCopy (s : State) (c : Nat) (x : Ctx) : State :=
  let s := (rangeFrom 0 s.wgs.length).foldl (fun s w => if (getWg s w).ctx == c then writeKept s w else s) s
  let s := (queuesOf s x.part c).foldl (fun s e => match slotOf s x.part e.1 with
    | some k => unmapSlot s x.part k
    | none => s) s
  keepImage s (imageOf s c x)

/-- Step 6 on the device that a context leaves: its entries, its queues and its exports are the target's (22 R359). -/
def migrateLeave (s : State) (c : Nat) (x : Ctx) : State :=
  let qs := (queuesOf s x.part c).map Prod.fst
  let s := (rangeFrom 0 s.wgs.length).foldl (fun s w =>
    let g := getWg s w
    if g.ctx == c && g.part == x.part && g.status == .saved then stopWg s w else s) s
  let s := modPart s x.part (fun p => { p with
    entries := p.entries.filter (fun e => e.ctx != c), store := p.store.filter (fun e => e.2 != c)
    queues := p.queues.filter (fun e => !qs.contains e.1) })
  noteTable (modDev { s with ctxs := SMap.del s.ctxs c } (fun d => { d with migrated := SMap.del d.migrated c })) x.part

/-- Where a granule of a context has its contents, in the tables of each die. -/
def placesOf (s : State) (x : Ctx) (va : Nat) : List Nat :=
  (x.roots.filterMap (fun r => match walk s x.part va false s.fresh walkLevels r with
    | .ok pa _ => if pa / 2 ^ 50 < 2 then some pa else none
    | .park leaf _ size => (contentsAt (memRead s leaf 8)).map (fun a => a + va % size)
    | _ => none)).eraseDups

/-- A granule's contents, by offset, take the place of what stands at an address; its words are good but those listed, and it is no longer
unscrubbed. -/
def putGranule (s : State) (pa : Nat) (cells : List Host.Cell) (bad : List Nat) : State :=
  let out (a : Nat) : Bool := a / 65536 != pa / 65536
  let s := setUnscrubbed s (granuleOf pa) (unscrubbed s (granuleOf pa) && decide (pa / 2 ^ 50 ≠ 0))
  { s with
    mem := cells.foldl (fun m c => SMap.set Config.memDefault m (pa + c.1) c.2) (s.mem.filter (fun c => out c.1))
    badMem := s.badMem.filter (fun w => out (32 * w)) ++ bad.map (fun w => pa / 32 + w)
    clearing := s.clearing.filter (fun g => !(decide (pa / 2 ^ 50 = 0) && g == granuleOf pa)) }

/-- A page arrives: its contents stand where the target's tables have it, in each die's (22 R359). -/
def arrivePage (s : State) (x : Ctx) (pg : CtxPage) : State :=
  (rangeFrom 0 (pg.size / 65536)).foldl (fun s k =>
    let cells := (pg.cells.filter (fun c => c.1 / 65536 == k)).map (fun c => (c.1 % 65536, c.2))
    let bad := (pg.bad.filter (fun w => w / 2048 == k)).map (fun w => w % 2048)
    (placesOf s x (pg.va + 65536 * k)).foldl (fun s pa => putGranule s pa cells bad) s) s

/-- The maps of an array are canonical. -/
def Anvil.wf (x : Anvil) : Bool :=
  [x.b0, x.b1].all (fun t => SMap.wf 0 t.elem && SMap.wf 0 t.exp)
    && [x.p0, x.p1].all (fun p => SMap.wf 0 p.p && SMap.wf 0 p.ea && SMap.wf 0 p.eb) && [x.c0, x.c1].all (fun c => SMap.wf 0 c.c)

/-- Whether the saved workgroups of an image are states that a saved workgroup can have: their maps and bundles are canonical. -/
def CtxImage.sound (i : CtxImage) : Bool :=
  i.migrants.all (fun m => m.wgs.all (fun g => SMap.wf 0 g.data && SMap.wf TagWay.empty g.tags && g.anvil.all Anvil.wf
    && g.status == .saved && g.bundles.all (fun ls => decide (ls.Pairwise (· < ·)))))

/-- What arrives of a context at this device: what a migration from this device has copied, else what another device has, for a context of which
nothing has arrived (log 111). -/
def arrives (s : State) (c : Nat) (x : Ctx) : Option CtxImage :=
  match s.dev.images.find? (fun i => i.ctx == c) with
  | some i => some i
  | none =>
    if x == Ctx.fresh x.part x.roots x.dlog x.dring then (Config.arrivingImage s.fresh).bind (fun i => if i.sound then some i else none)
    else none

/-- Step 6 on the target, where the context has been created with its tables: it takes its pages, its tables and its queues, and its entries are
presented for admission again, with what is left of their deadlines (22 R359). How an image travels is not the device's; that regions and QCBs
keep their addresses is the model's (log 111). -/
def migrateArrive (s : State) (c : Nat) (x : Ctx) : State :=
  match arrives s c x with
  | none => s
  | some i =>
    let s := i.pages.foldl (fun s pg => arrivePage s x pg) s.bump
    let s := modCtx s c (fun x => { x with
      classes := i.classes, regions := i.regions, exports := i.exports, spill := i.pending
      migrants := i.migrants.map (fun m => { m with d := dtime s + m.d }) })
    let s := i.queues.foldl (fun s q =>
      let u : UQueue := { qcb := q.2.1, paged := none, seen := none, mapped := none, unmapped := dtime s, lastW := 0 }
      if inHbm s x.part q.2.1 queueBytes && (getQ s x.part q.1).isNone then
        setPending (modPart (memWrite s q.2.1 queueBytes q.2.2) x.part (fun p => { p with queues := SMap.put p.queues q.1 u })) x.part q.1
      else s) s
    noteTable (modDev s (fun d => { d with images := d.images.filter (fun i => i.ctx != c) })) x.part

/-- Whether nothing of a quiesced context is on its way: its workgroups are saved, its link operations done, its accesses acknowledged, and no
entry waits for its completion (22 R359 step 3). -/
def migrateQuiet (s : State) (c : Nat) (x : Ctx) : Bool :=
  s.wgs.all (fun g => g.ctx != c || g.part != x.part || !g.onCore)
    && !s.reqs.any (fun r => r.ctx == c && r.part == x.part) && !s.links.any (fun l => (getWg s l.wg).ctx == c && (getWg s l.wg).part == x.part)
    && (getPart s x.part).entries.all (fun e => e.ctx != c || e.status.isNone)

/-- CONTEXT_MIGRATION: the next step of the migration of a context from this device, or (stage 7) its arrival at this one (22 R359). -/
def execContextMigration (c stage : Nat) (s : State) : Host.Outcome State Fault Refusal :=
  match getCtx s c with
  | none => .next s
  | some x =>
    let step := SMap.get 0 s.dev.migrated c
    let next := stage = step + 1 ∨ (stage = 2 ∧ step = 2)
    if x.dead then .next s
    else if stage = 7 then .next (if step = 0 && !x.quiet then migrateArrive s c x else s)
    else if !next ∨ stage < 1 ∨ (stage ≥ 4 ∧ !migrateQuiet s c x) then .next s
    else
      let s := modDev s (fun d => { d with migrated := SMap.set 0 d.migrated c stage })
      .next (match stage with
        | 1 => migrateMark s c x
        | 2 => migrateRound s c x (step == 1)
        | 3 => migrateQuiesce s c x
        | 4 => migrateRound s c x false
        | 5 => migrateCopy s c x
        | _ => migrateLeave s c x)

/-! ### Attestation (22 R360, R361) -/

/-- The trusted-monitor image that runs: the one that was uploaded, if one was accepted. -/
def monitorNow (d : Dev) : List Byte := if d.mailbox.state = 4 then d.mailbox.bytes else Config.monitorImage d.keyGen

/-- A digest as a field of a report: its first byte is the field's lowest (log 87). -/
def digest (bs : List Byte) : Nat := leVal (sha384 bs)

/-- The 2,048 bits of a report's body (22 R360). -/
def reportBody (s : State) (p : Nat) (c : PartSetup) (nonce : List Byte) : Nat :=
  let mask := (c.dies.map (fun d => 2 ^ d)).sum
  0x5A52 + 1 * 2 ^ 16 + mask * 2 ^ 32 + p * 2 ^ 36 + dtime s % 2 ^ 64 * 2 ^ 64 + leVal nonce * 2 ^ 128
    + digest Config.identityKeys * 2 ^ 512 + digest (monitorNow s.dev) * 2 ^ 896 + digest (Config.schedImage s.dev.fwver) * 2 ^ 1280
    + digest (Config.partConfig c (getPart s p).params) * 2 ^ 1664

/-- ATTESTATION_REPORT: a report for a partition; each LMS tree signs at most 32,768 (22 R360, R361). -/
def execAttestationReport (p : Nat) (nonce : List Byte) (s : State) : Host.Outcome State Fault Refusal :=
  match (getPart s p).setup with
  | none => .next s
  | some c =>
    if s.dev.phase ≠ 6 ∨ nonce.length ≠ 48 ∨ s.dev.signed ≥ 32768 then .next s
    else
      let body := leBytes 256 (reportBody s p c nonce)
      let report := body ++ leBytes 96 (Config.ecdsaSign s.dev.keyGen body) ++ leBytes 2668 (Config.lmsSign s.dev.keyGen s.dev.signed body)
      .next (modDev s (fun d => { d with signed := d.signed + 1, reports := d.reports ++ [report] }))

end Sys2Proof.Machine
end

