-- ==== Sys2Proof/Machine/Environment.lean ====
section
/-!
DEFINITION. Environment.lean: time, soft errors, and what the host does to memory (01 R12, R20, 17 R287, R293, R298, 18 R324).
-/
namespace Sys2Proof.Machine

/-- A thread after n cycles of its workgroup's residence (18 R324). -/
def Thread.sleepFor (n : Nat) (th : Thread) : Thread :=
  match th.wait with
  | .sleep k => { th with wait := .sleep (k - n) }
  | _ => th

/-- A workgroup after n cycles (17 R293, R298): its counts go on while it is on a core. -/
def Wg.elapse (n : Nat) (g : Wg) : Wg :=
  if !g.onCore then g
  else
    { g with
      ctxcyc := g.ctxcyc + n, tmr := g.tmr - n, tmrDue := g.tmrDue || (decide (g.tmr ≠ 0) && decide (g.tmr ≤ n))
      threads := if g.status == .resident then g.threads.map (Thread.sleepFor n) else g.threads }

/-- Each granted core costs its entry n cycles (17 R287). -/
def chargeCores (s : State) (n : Nat) : State :=
  s.cores.foldl (fun s c => match c.2.grant with
    | some (p, q) => modEntry s p q (fun e => { e with fresh := e.fresh + n })
    | none => s) s

/-- Whether something that happens at a moment of %dtime has still to happen: a fold of charges, or a deadline kill (17 R280, R289). -/
def momentDue (s : State) : Bool :=
  (rangeFrom 0 4).any (fun p => foldDue s p || (getPart s p).entries.any (killDue s p))

/-- The moments of %dtime ahead, in ns, that time does not pass without stopping: the next fold, and the deadlines of entries with KOM = 1, with
the moment after them (17 R280, R289). -/
def momentsAhead (s : State) : List Nat :=
  (dtime s / 1000 * 1000 + 1000) :: (rangeFrom 0 4).flatMap (fun p =>
    ((getPart s p).entries.filter (fun e => (fieldsOf e.raw).kom && e.status.isNone)).flatMap (fun e =>
      [e.d, e.d + 1].filter (fun d => decide (dtime s < d))))

/-- The first core cycle at which %dtime has reached a number of ns: a period of the oscillator is 12.5 cycles (01 R8, R12). -/
def cycleOf (ns : Nat) : Nat := (25 * ((ns + 9) / 10) + 1) / 2

/-- n core cycles pass, or as many as there are to the next moment at which something has to happen first. The reference oscillator stands
still in phase 0 of a cold start (01 R12, R15). -/
def elapse (s : State) (n : Nat) : State :=
  if (s.dev.phase = 0 ∧ !s.dev.tripped) ∨ momentDue s then s
  else
    let n := (momentsAhead s).foldl (fun n d => min n (cycleOf d - s.cyc)) n
    chargeCores { s with cyc := s.cyc + n, wgs := s.wgs.map (Wg.elapse n) } n

/-- What the destinations of an outstanding instruction show in its window: 0 what they held before it, 1 its result, 2 what stands there
otherwise, such as a window instruction's write (02 R27). -/
def Pend.shows (p : Pend) (hidden : List RegWrite) (v : Nat) : Option (List RegWrite) :=
  match v with
  | 0 => some p.olds
  | 1 => if p.src == .known && p.bad.isNone then some p.writes else none
  | _ => some hidden

/-- Whether every live lane of a thread's group has issued an instruction, by its number. -/
def allShare (g : Wg) (t tok : Nat) : Bool :=
  (liveOf g (grpOf t)).all (fun u => ((getTh g u).pend ++ (getTh g u).early).any (fun p => p.tok == tok))

/-- The destinations of instruction k of a thread, outstanding or completed before the end of its window, show another value to the reads
of the window: "a read returns, in each lane, the value before I, the written value or I's result" (02 R27). Other lanes never see it:
for a uniform register that is not outstanding all lanes of the group must share the window. -/
def showReg (s : State) (w t k v : Nat) : State :=
  let g := getWg s w
  let th := getTh g t
  match (th.pend ++ th.early)[k]? with
  | none => s
  | some p =>
    let uni := p.dests.any Prod.fst
    let marked := p.dests.any (fun r => if r.1 then (SMap.find (getGroup g (grpOf t)).badu r.2).isSome else (SMap.find th.badv r.2).isSome)
    if p.left = 0 || marked || p.olds.isEmpty || (p.snap.isSome && p.src != .known)
        || (uni && decide (th.pend.length ≤ k) && !allShare g t p.tok) then s
    else
      let cur := p.olds.map (fun r => regNow g t (r.uni, r.reg))
      let hidden := match p.seen with
        | some x => if x.1 == cur then x.2 else cur
        | none => cur
      match p.shows hidden v with
      | none => s
      | some new =>
        let mark (q : Pend) : Pend := if q.tok == p.tok then { q with seen := some (new, hidden) } else q
        modWg s w (fun g =>
          let g := g.writeAll t new
          if uni then { g with threads := g.threads.mapIdx (fun u th =>
            if grpOf u == grpOf t then { th with pend := th.pend.map mark, early := th.early.map mark } else th) }
          else g.modTh t (fun th => { th with pend := th.pend.map mark, early := th.early.map mark }))

/-- The host or a peer of the far-memory port writes a byte of host, far or global memory. The device takes a write to the last two only when it
is ready: held in a phase it accepts an image, or nothing (01 R15, R16). -/
def hostWrite (s : State) (pa : Nat) (b : Byte) : State :=
  if paOk pa && !clearingAt s pa && (decide (pa / 2 ^ 50 = 2) || pcieReady s.dev) then { s with mem := SMap.set Config.memDefault s.mem pa b } else s

/-- An error strikes the 32-byte word of memory at an address: uncorrectable, or one that is corrected (01 R20). -/
def badMem (s : State) (pa : Nat) (bad : Bool) : State :=
  if !paOk pa then s
  else if bad then { s with badMem := insNat s.badMem (pa / 32) }
  else { s with fixMem := insNat s.fixMem (pa / 32) }

/-- A read corrects an error in storage of a die, and the error is counted: of the four compute dies, or of the I/O die, which has number 4 here
(01 R20, 08 R145). -/
def countCorrected (s : State) (die : Nat) : State :=
  if die < 5 then modDev s (fun d => { d with corrected := SMap.set 0 d.corrected die (SMap.get 0 d.corrected die + 1) }) else s

/-- An uncorrectable error strikes a word of a data region (01 R20, 08 R145). -/
def badData (s : State) (w a : Nat) : State :=
  if a < (getWg s w).hdr.sdata then modWg s w (fun g => { g with badd := insNat g.badd (a / 8) }) else s

/-- An uncorrectable error strikes an instruction word of a kernel on a core (05 R85). -/
def badText (s : State) (core kernel idx : Nat) : State :=
  modCore s core (fun c => { c with texts := c.texts.map (fun x =>
    if x.kernel == kernel && decide (idx < x.tlen) then { x with bad := insNat x.bad idx } else x) })

/-- An uncorrectable error strikes an operation in the control store (01 R20, 05 R91). -/
def badSeq (s : State) (core kernel seq op : Nat) : State :=
  modCore s core (fun c => { c with texts := c.texts.map (fun x =>
    if x.kernel == kernel then
      { x with seqs := x.seqs.mapIdx (fun k q => if k == seq && decide (op < q.ops.length) then { q with bad := insNat q.bad op } else q) }
    else x) })

/-- An `spzero` in progress writes one of its words, in every lane that waits for it; with the last it is complete (08 R149, 18 R309). -/
def zeroWord (s : State) (w id a : Nat) : State :=
  let g := getWg s w
  let left (t : Nat) : Option (List Nat) := match (getTh g t).wait with
    | .zero i l => if i == id && l.contains a then some (l.filter (· != a)) else none
    | _ => none
  let ts := (rangeFrom 0 g.threads.length).filter (fun t => (left t).isSome)
  if ts.isEmpty || !(g.status == .resident || g.status == .cutting) then s
  else
    ts.foldl (fun s t => match left t with
      | some [] => endWait s w t false
      | some l => modTh s w t (fun th => { th with wait := .zero id l })
      | none => s) (modWg s w (fun g => g.spZero a 8))

/-- The issue of a bundle whose instruction, if it is an `spzero`, writes its words one by one. -/
def startRun (run : Instr → State → Host.Outcome State Fault Refusal) (i : Instr) (s : State) : Host.Outcome State Fault Refusal :=
  match i with
  | .spzero h a b imm => .next (startZero h a b imm s)
  | _ => run i s

/-- The array makes one of its accesses (15 R265). -/
def arrayMove (s : State) (w : Nat) (f : Wg → Wg) : State :=
  if (getWg s w).onCore then modWg s w f else s

/-- An uncorrectable error strikes a register (01 R20). -/
def badReg (s : State) (w t : Nat) (o : Opnd) : State :=
  match o with
  | .v n => modTh s w t (fun th => { th with badv := SMap.put th.badv n.toNat 0 })
  | .s n => modWg s w (fun g => g.modGroup (grpOf t) (fun x => { x with badu := SMap.put x.badu n.toNat 0 }))
  | _ => s

/-- An uncorrectable error strikes a set of a workgroup's tag table (01 R20, 08 R159). -/
def badTag (s : State) (w set : Nat) : State :=
  if set < (getWg s w).hdr.tsets then modWg s w (fun g => { g with badTags := insNat g.badTags set }) else s

/-- The address that the `stx` of a lane names. -/
def stxAddress (s : State) (w t : Nat) : DWord :=
  match nextWord s (getWg s w) (thOf s w t) with
  | some r => match Opnd.ofBits r.a, Opnd.ofBits r.b with
    | some a, some b => BitVec.ofNat 64 (vaOf (getWg s w) t a b r.mod r.ofs10.toInt)
    | _, _ => 0
  | none => 0

/-- An uncorrectable error in the park-table entry in which a lane sleeps: every lane that sleeps in it traps at its `stx` (01 R20). -/
def badParkEntry (s : State) (w t : Nat) : State :=
  let core := (getWg s w).core
  match (getCore s core).parks.find? (fun e => e.wg == w && e.mask.contains t) with
  | none => s
  | some e =>
    let s := modCore s core (fun c => { c with parks := (c.parks.map (fun x => if x == e then { x with mask := [] } else x)).filter (fun x =>
      !(x.wait.isEmpty && x.mask.isEmpty)) })
    e.mask.foldl (fun s u => trapNow s w u 0x15 0 (stxAddress s w u)) s

/-- An error in a home slice or a park table is returned to the issuer of outstanding access k of a thread: what it returns counts as
uncorrectable, and a transition is not performed; of a lane that sleeps in the park table, its entry is in error (01 R20). -/
def badAnswer (s : State) (w t k : Nat) : State :=
  match (thOf s w t).pend[k]? with
  | none => badParkEntry s w t
  | some p => match p.src with
    | .req id _ _ _ => match s.reqs.find? (fun r => r.id == id) with
      | none => s
      | some r => match r.kind with
        | .trans tr _ va => answerReq s r (r.obj va.toNat) tr .bad
        | .chain tr _ va _ => answerReq s r (r.obj va.toNat) tr .bad
        | .atom _ _ _ _ => requestFails s w t k 0
    | _ => requestFails s w t k 0

/-- A parity error strikes an element of a P bank, or of a C bank (01 R20, 15 R264). -/
def badElem (s : State) (w : Nat) (c : Bool) (bank row col : Nat) : State :=
  let n := 128 * row + col
  if row ≥ 128 ∨ col ≥ 128 then s
  else modWg s w (fun g => { g with anvil := g.anvil.map (fun a =>
    if c then (if bank = 0 then { a with c0 := { a.c0 with bad := insNat a.c0.bad n } } else { a with c1 := { a.c1 with bad := insNat a.c1.bad n } })
    else (if bank = 0 then { a with p0 := { a.p0 with bad := insNat a.p0.bad n } } else { a with p1 := { a.p1 with bad := insNat a.p1.bad n } })) })

end Sys2Proof.Machine
end

