-- ==== Sys2Proof/Machine/Dispatch.lean ====
section
/-!
DEFINITION. Dispatch.lean: one arm for each constructor of Instr, each a call of its meaning.
-/
namespace Sys2Proof.Machine

/-- What an instruction or an event does to the machine. An instruction acts in the lanes of `s.bundle`. -/
def exec (i : Instr) (s : State) : Host.Outcome State Fault Refusal :=
  match i with
  | .nop h => Sys2Proof.Machine.execNop h s
  | .bra h imm => Sys2Proof.Machine.execBra h imm s
  | .brx h a => Sys2Proof.Machine.execBrx h a s
  | .call h d imm => Sys2Proof.Machine.execCall h d imm s
  | .ret h a => Sys2Proof.Machine.execRet h a s
  | .exit h => Sys2Proof.Machine.execExit h s
  | .yieldTo h => Sys2Proof.Machine.execYieldTo h s
  | .gsync h => Sys2Proof.Machine.execGsync h s
  | .meet h imm => Sys2Proof.Machine.execMeet h imm s
  | .meetg h a imm => Sys2Proof.Machine.execMeetg h a imm s
  | .unmeet h => Sys2Proof.Machine.execUnmeet h s
  | .dispatch h a b => Sys2Proof.Machine.execDispatch h a b s
  | .gld h ty d a imm => Sys2Proof.Machine.execGld h ty d a imm s
  | .gadv h a imm => Sys2Proof.Machine.execGadv h a imm s
  | .gset h a imm => Sys2Proof.Machine.execGset h a imm s
  | .gsetLeave h a imm => Sys2Proof.Machine.execGsetLeave h a imm s
  | .mcall h d a b c p4 p5 p6 p7 m => Sys2Proof.Machine.execMcall h d a b c p4 p5 p6 p7 m s
  | .iadd h ty sat d a b imm => Sys2Proof.Machine.execIadd h ty sat d a b imm s
  | .isub h ty sat d a b imm => Sys2Proof.Machine.execIsub h ty sat d a b imm s
  | .imul h ty sat d a b imm => Sys2Proof.Machine.execImul h ty sat d a b imm s
  | .imulh h ty d a b imm => Sys2Proof.Machine.execImulh h ty d a b imm s
  | .imad h ty sat d a b c => Sys2Proof.Machine.execImad h ty sat d a b c s
  | .idiv h ty d a b imm => Sys2Proof.Machine.execIdiv h ty d a b imm s
  | .irem h ty d a b imm => Sys2Proof.Machine.execIrem h ty d a b imm s
  | .imin h ty d a b imm => Sys2Proof.Machine.execImin h ty d a b imm s
  | .imax h ty d a b imm => Sys2Proof.Machine.execImax h ty d a b imm s
  | .iabs h ty sat d a imm => Sys2Proof.Machine.execIabs h ty sat d a imm s
  | .ineg h ty sat d a imm => Sys2Proof.Machine.execIneg h ty sat d a imm s
  | .and h ty d a b imm => Sys2Proof.Machine.execAnd h ty d a b imm s
  | .or h ty d a b imm => Sys2Proof.Machine.execOr h ty d a b imm s
  | .xor h ty d a b imm => Sys2Proof.Machine.execXor h ty d a b imm s
  | .not h ty d a imm => Sys2Proof.Machine.execNot h ty d a imm s
  | .andn h ty d a b imm => Sys2Proof.Machine.execAndn h ty d a b imm s
  | .shl h ty d a b imm => Sys2Proof.Machine.execShl h ty d a b imm s
  | .shr h ty d a b imm => Sys2Proof.Machine.execShr h ty d a b imm s
  | .sar h ty d a b imm => Sys2Proof.Machine.execSar h ty d a b imm s
  | .rol h ty d a b imm => Sys2Proof.Machine.execRol h ty d a b imm s
  | .popc h ty d a imm => Sys2Proof.Machine.execPopc h ty d a imm s
  | .clz h ty d a imm => Sys2Proof.Machine.execClz h ty d a imm s
  | .ctz h ty d a imm => Sys2Proof.Machine.execCtz h ty d a imm s
  | .brev h ty d a imm => Sys2Proof.Machine.execBrev h ty d a imm s
  | .bswap h ty d a imm => Sys2Proof.Machine.execBswap h ty d a imm s
  | .bfx h ty d a b imm => Sys2Proof.Machine.execBfx h ty d a b imm s
  | .bfi h ty d a b c => Sys2Proof.Machine.execBfi h ty d a b c s
  | .icmp h ty sub d a b imm => Sys2Proof.Machine.execIcmp h ty sub d a b imm s
  | .sel h ty d a b c => Sys2Proof.Machine.execSel h ty d a b c s
  | .mov h ty d a imm => Sys2Proof.Machine.execMov h ty d a imm s
  | .rdsp h d a => Sys2Proof.Machine.execRdsp h d a s
  | .wrsp h a b imm => Sys2Proof.Machine.execWrsp h a b imm s
  | .plop h sub d a b => Sys2Proof.Machine.execPlop h sub d a b s
  | .p2v h d => Sys2Proof.Machine.execP2v h d s
  | .v2p h a b imm => Sys2Proof.Machine.execV2p h a b imm s
  | .rdfirst h ty d a => Sys2Proof.Machine.execRdfirst h ty d a s
  | .fadd h ty mod d a b imm => Sys2Proof.Machine.execFadd h ty mod d a b imm s
  | .fsub h mod d a b imm => Sys2Proof.Machine.execFsub h mod d a b imm s
  | .fmul h ty mod d a b imm => Sys2Proof.Machine.execFmul h ty mod d a b imm s
  | .ffma h ty mod d a b c => Sys2Proof.Machine.execFfma h ty mod d a b c s
  | .fmin h ty d a b imm => Sys2Proof.Machine.execFmin h ty d a b imm s
  | .fmax h ty d a b imm => Sys2Proof.Machine.execFmax h ty d a b imm s
  | .fabs h ty d a imm => Sys2Proof.Machine.execFabs h ty d a imm s
  | .fneg h ty d a imm => Sys2Proof.Machine.execFneg h ty d a imm s
  | .fcmp h sub d a b imm => Sys2Proof.Machine.execFcmp h sub d a b imm s
  | .fcls h ty d a imm => Sys2Proof.Machine.execFcls h ty d a imm s
  | .fdiv h mod d a b imm => Sys2Proof.Machine.execFdiv h mod d a b imm s
  | .fsqrt h mod d a imm => Sys2Proof.Machine.execFsqrt h mod d a imm s
  | .frcp h d a imm => Sys2Proof.Machine.execFrcp h d a imm s
  | .frsq h d a imm => Sys2Proof.Machine.execFrsq h d a imm s
  | .fexp2 h d a imm => Sys2Proof.Machine.execFexp2 h d a imm s
  | .flog2 h d a imm => Sys2Proof.Machine.execFlog2 h d a imm s
  | .ftanh h d a imm => Sys2Proof.Machine.execFtanh h d a imm s
  | .frnd h mod d a imm => Sys2Proof.Machine.execFrnd h mod d a imm s
  | .cvt h ty sty mod sat d a b imm => Sys2Proof.Machine.execCvt h ty sty mod sat d a b imm s
  | .bxq h sub d a => Sys2Proof.Machine.execBxq h sub d a s
  | .bxd h sub d a b imm => Sys2Proof.Machine.execBxd h sub d a b imm s
  | .fdot2 h ty mod d a b c => Sys2Proof.Machine.execFdot2 h ty mod d a b c s
  | .shfl h ty mod sub d a b imm => Sys2Proof.Machine.execShfl h ty mod sub d a b imm s
  | .qswap h ty sub d a => Sys2Proof.Machine.execQswap h ty sub d a s
  | .qbcast h ty d a b imm => Sys2Proof.Machine.execQbcast h ty d a b imm s
  | .ballot h d a => Sys2Proof.Machine.execBallot h d a s
  | .vote h sub d a => Sys2Proof.Machine.execVote h sub d a s
  | .matchLanes h ty d a => Sys2Proof.Machine.execMatchLanes h ty d a s
  | .scan h ty mod sub d a imm => Sys2Proof.Machine.execScan h ty mod sub d a imm s
  | .redux h ty mod sub d a imm => Sys2Proof.Machine.execRedux h ty mod sub d a imm s
  | .elect h d => Sys2Proof.Machine.execElect h d s
  | .lds h ty mod d a b imm => Sys2Proof.Machine.execLds h ty mod d a b imm s
  | .sts h ty mod d a b imm => Sys2Proof.Machine.execSts h ty mod d a b imm s
  | .ldh h ty mod d a b imm => Sys2Proof.Machine.execLdh h ty mod d a b imm s
  | .sth h ty mod d a b imm => Sys2Proof.Machine.execSth h ty mod d a b imm s
  | .spzero h a b imm => Sys2Proof.Machine.execSpzero h a b imm s
  | .tlook h d a imm => Sys2Proof.Machine.execTlook h d a imm s
  | .tins h d a imm => Sys2Proof.Machine.execTins h d a imm s
  | .tinv h d a imm => Sys2Proof.Machine.execTinv h d a imm s
  | .tmark h a b imm => Sys2Proof.Machine.execTmark h a b imm s
  | .hgive h a b imm => Sys2Proof.Machine.execHgive h a b imm s
  | .hgiveNew h d a b imm => Sys2Proof.Machine.execHgiveNew h d a b imm s
  | .hgiveRetire h a => Sys2Proof.Machine.execHgiveRetire h a s
  | .htake h a => Sys2Proof.Machine.execHtake h a s
  | .hqry h d a => Sys2Proof.Machine.execHqry h d a s
  | .ld h ty mod d a b mw ofs => Sys2Proof.Machine.execLd h ty mod d a b mw ofs s
  | .st h ty mod d a b mw ofs => Sys2Proof.Machine.execSt h ty mod d a b mw ofs s
  | .pf h mod a b mw ofs => Sys2Proof.Machine.execPf h mod a b mw ofs s
  | .fence h sub mw => Sys2Proof.Machine.execFence h sub mw s
  | .atom h ty mod sub d a b c mw ofs10 => Sys2Proof.Machine.execAtom h ty mod sub d a b c mw ofs10 s
  | .red h ty mod sub d a b mw ofs => Sys2Proof.Machine.execRed h ty mod sub d a b mw ofs s
  | .stx h mod sub d a b c mw ofs10 => Sys2Proof.Machine.execStx h mod sub d a b c mw ofs10 s
  | .stinit h mod d a b c mw ofs10 => Sys2Proof.Machine.execStinit h mod d a b c mw ofs10 s
  | .stqry h mod sub d a b mw ofs => Sys2Proof.Machine.execStqry h mod sub d a b mw ofs s
  | .stload h mod sub a => Sys2Proof.Machine.execStload h mod sub a s
  | .binit h a b imm => Sys2Proof.Machine.execBinit h a b imm s
  | .barrive h a imm => Sys2Proof.Machine.execBarrive h a imm s
  | .barrivePh h d a imm => Sys2Proof.Machine.execBarrivePh h d a imm s
  | .bwait h a b imm => Sys2Proof.Machine.execBwait h a b imm s
  | .bsync h a imm => Sys2Proof.Machine.execBsync h a imm s
  | .bexpect h a b imm => Sys2Proof.Machine.execBexpect h a b imm s
  | .bqry h d a imm => Sys2Proof.Machine.execBqry h d a imm s
  | .qinit h a b imm => Sys2Proof.Machine.execQinit h a b imm s
  | .qpush h a b imm => Sys2Proof.Machine.execQpush h a b imm s
  | .qpop h d a imm => Sys2Proof.Machine.execQpop h d a imm s
  | .qtry h d a imm => Sys2Proof.Machine.execQtry h d a imm s
  | .qallow h a b c => Sys2Proof.Machine.execQallow h a b c s
  | .cpy h d a => Sys2Proof.Machine.execCpy h d a s
  | .cpyt h d a b imm => Sys2Proof.Machine.execCpyt h d a b imm s
  | .cpwp h d a imm => Sys2Proof.Machine.execCpwp h d a imm s
  | .cpwait h a b imm => Sys2Proof.Machine.execCpwait h a b imm s
  | .cpfence h a imm => Sys2Proof.Machine.execCpfence h a imm s
  | .mcfg h mod sub => Sys2Proof.Machine.execMcfg h mod sub s
  | .mldb h bar arv sub a b imm => Sys2Proof.Machine.execMldb h bar arv sub a b imm s
  | .mmb h bar arv sub a b imm => Sys2Proof.Machine.execMmb h bar arv sub a b imm s
  | .scacc h sub a imm => Sys2Proof.Machine.execScacc h sub a imm s
  | .mzero h sub => Sys2Proof.Machine.execMzero h sub s
  | .mldc h sub a b imm => Sys2Proof.Machine.execMldc h sub a b imm s
  | .mdrain h bar mod arv sub a b imm => Sys2Proof.Machine.execMdrain h bar mod arv sub a b imm s
  | .merr h d a imm => Sys2Proof.Machine.execMerr h d a imm s
  | .merrClr h => Sys2Proof.Machine.execMerrClr h s
  | .enq h d a => Sys2Proof.Machine.execEnq h d a s
  | .ldqe h ty d a imm => Sys2Proof.Machine.execLdqe h ty d a imm s
  | .tmset h a imm => Sys2Proof.Machine.execTmset h a imm s
  | .trap h a imm => Sys2Proof.Machine.execTrap h a imm s
  | .rtiRe h => Sys2Proof.Machine.execRtiRe h s
  | .rtiNext h => Sys2Proof.Machine.execRtiNext h s
  | .rtiDrop h => Sys2Proof.Machine.execRtiDrop h s
  | .region h => Sys2Proof.Machine.execRegion h s
  | .ppoint h => Sys2Proof.Machine.execPpoint h s
  | .brk h sub => Sys2Proof.Machine.execBrk h sub s
  | .sleep h a imm => Sys2Proof.Machine.execSleep h a imm s
  | .xput h a => Sys2Proof.Machine.execXput h a s
  | .xget h a => Sys2Proof.Machine.execXget h a s
  | .xatom h ty sub a b mw => Sys2Proof.Machine.execXatom h ty sub a b mw s
  | .xstx h sub a b mw => Sys2Proof.Machine.execXstx h sub a b mw s
  | .trapEntry w t => Sys2Proof.Machine.execTrapEntry w t s
  | .longLatencyResult w t k capture => Sys2Proof.Machine.execLongLatencyResult w t k capture s
  | .rebundle w parts gather => Sys2Proof.Machine.execRebundle w parts gather s
  | .holdLimitExpiry w t => Sys2Proof.Machine.execHoldLimitExpiry w t s
  | .gatherWindowExpiry w t => Sys2Proof.Machine.execGatherWindowExpiry w t s
  | .workgroupPlacement p e cl cores => Sys2Proof.Machine.execWorkgroupPlacement p e cl cores s
  | .workgroupEnd w => Sys2Proof.Machine.execWorkgroupEnd w s
  | .admissionDecision p => Sys2Proof.Machine.execAdmissionDecision p s
  | .coreGrant core => Sys2Proof.Machine.execCoreGrant core s
  | .distributorSteal p e level thief => Sys2Proof.Machine.execDistributorSteal p e level thief s
  | .coreTakeBack p core => Sys2Proof.Machine.execCoreTakeBack p core s
  | .politeWithdrawal core => Sys2Proof.Machine.execPoliteWithdrawal core s
  | .politeSave w => Sys2Proof.Machine.execPoliteSave w s
  | .politeWindowEnd core => Sys2Proof.Machine.execPoliteWindowEnd core s
  | .freeze w => Sys2Proof.Machine.execFreeze w s
  | .killTimeout w => Sys2Proof.Machine.execKillTimeout w s
  | .contextKill c => Sys2Proof.Machine.execContextKill c s
  | .budgetFold p => Sys2Proof.Machine.execBudgetFold p s
  | .overrunWindowExpiry p e => Sys2Proof.Machine.execOverrunWindowExpiry p e s
  | .deadlineKill p e => Sys2Proof.Machine.execDeadlineKill p e s
  | .entryCompletion p e => Sys2Proof.Machine.execEntryCompletion p e s
  | .timerExpiry w => Sys2Proof.Machine.execTimerExpiry w s
  | .sleepEnd w t => Sys2Proof.Machine.execSleepEnd w t s
  | .wcbLineDrain core k => Sys2Proof.Machine.execWcbLineDrain core k s
  | .storePerform core k copy => Sys2Proof.Machine.execStorePerform core k copy s
  | .combiningEntrySend cl k => Sys2Proof.Machine.execCombiningEntrySend cl k s
  | .atomicAtHome k => Sys2Proof.Machine.execAtomicAtHome k s
  | .granuleClearDone g => Sys2Proof.Machine.execGranuleClearDone g s
  | .patrolScrub pa => Sys2Proof.Machine.execPatrolScrub pa s
  | .faultRecordRetry w t => Sys2Proof.Machine.execFaultRecordRetry w t s
  | .pageMappedWake core r => Sys2Proof.Machine.execPageMappedWake core r s
  | .faultTimeout core r => Sys2Proof.Machine.execFaultTimeout core r s
  | .translationInvalidate k => Sys2Proof.Machine.execTranslationInvalidate k s
  | .stagedTransition k => Sys2Proof.Machine.execStagedTransition k s
  | .chainedTransition k => Sys2Proof.Machine.execChainedTransition k s
  | .parkWake core k => Sys2Proof.Machine.execParkWake core k s
  | .parkTableRetry w t => Sys2Proof.Machine.execParkTableRetry w t s
  | .copyChunk w k => Sys2Proof.Machine.execCopyChunk w k s
  | .copyCompletion w k => Sys2Proof.Machine.execCopyCompletion w k s
  | .anvilInstructionDone w => Sys2Proof.Machine.execAnvilInstructionDone w s
  | .linkReqReceived die pkt => Sys2Proof.Machine.execLinkReqReceived die pkt s
  | .linkRespReceived die pkt => Sys2Proof.Machine.execLinkRespReceived die pkt s
  | .linkAckReceived die pkt => Sys2Proof.Machine.execLinkAckReceived die pkt s
  | .linkNakReceived die pkt => Sys2Proof.Machine.execLinkNakReceived die pkt s
  | .linkAckTimer die k sp => Sys2Proof.Machine.execLinkAckTimer die k sp s
  | .linkRetxTimeout die k sp => Sys2Proof.Machine.execLinkRetxTimeout die k sp s
  | .linkStreamTimeout die k sp => Sys2Proof.Machine.execLinkStreamTimeout die k sp s
  | .kick p v => Sys2Proof.Machine.execKick p v s
  | .slotFetch p slot => Sys2Proof.Machine.execSlotFetch p slot s
  | .mappingPass p => Sys2Proof.Machine.execMappingPass p s
  | .queueAgeStep p q => Sys2Proof.Machine.execQueueAgeStep p q s
  | .qcbPageOut p q far => Sys2Proof.Machine.execQcbPageOut p q far s
  | .qcbPageIn p q => Sys2Proof.Machine.execQcbPageIn p q s
  | .watchdogExpiry p => Sys2Proof.Machine.execWatchdogExpiry p s
  | .stateTableWrite p => Sys2Proof.Machine.execStateTableWrite p s
  | .liveUpdate stage fwver stver ok => Sys2Proof.Machine.execLiveUpdate stage fwver stver ok s
  | .monitorSetParams p prm => Sys2Proof.Machine.execMonitorSetParams p prm s
  | .monitorServiceFault core r pa => Sys2Proof.Machine.execMonitorServiceFault core r pa s
  | .debugWrite c reg v => Sys2Proof.Machine.execDebugWrite c reg v s
  | .attestationReport p nonce => Sys2Proof.Machine.execAttestationReport p nonce s
  | .contextMigration c stage => Sys2Proof.Machine.execContextMigration c stage s
  | .partitionReset p => Sys2Proof.Machine.execPartitionReset p s
  | .coldReset => Sys2Proof.Machine.execColdReset s
  | .warmReset => Sys2Proof.Machine.execWarmReset s
  | .bringUpPhase ok volts => Sys2Proof.Machine.execBringUpPhase ok volts s
  | .monitorSample sample => Sys2Proof.Machine.execMonitorSample sample s
  | .refClockLoss => Sys2Proof.Machine.execRefClockLoss s
  | .hearthMemoryError hearthB => Sys2Proof.Machine.execHearthMemoryError hearthB s
  | .hostCompletionTimeout w t k => Sys2Proof.Machine.execHostCompletionTimeout w t k s
  | .farRequestTimeout w t k => Sys2Proof.Machine.execFarRequestTimeout w t k s
  | .piece => Sys2Proof.Machine.execPiece s
  | .start => Sys2Proof.Machine.execStart s
  | .abort => Sys2Proof.Machine.execAbort s
  | .recoveryPieceCopied => Sys2Proof.Machine.execRecoveryPieceCopied s
  | .recoveryVerifyDone => Sys2Proof.Machine.execRecoveryVerifyDone s
  | .registerWrite ofs v => Sys2Proof.Machine.execRegisterWrite ofs v s
  | .queueCreate p q spec => Sys2Proof.Machine.execQueueCreate p q spec s
  | .queueDestroy p q => Sys2Proof.Machine.execQueueDestroy p q s
  | .regionRegister c idx rg => Sys2Proof.Machine.execRegionRegister c idx rg s
  | .regionRevoke c idx => Sys2Proof.Machine.execRegionRevoke c idx s
  | .pageTableEntryChange p pa v freed => Sys2Proof.Machine.execPageTableEntryChange p pa v freed s
  | .contextCreate p c roots dlog ring => Sys2Proof.Machine.execContextCreate p c roots dlog ring s
  | .exportTableWrite c idx ent => Sys2Proof.Machine.execExportTableWrite c idx ent s
  | .peerTableWrite p dev peer => Sys2Proof.Machine.execPeerTableWrite p dev peer s
  | .partitionSetup p cfg => Sys2Proof.Machine.execPartitionSetup p cfg s
  | .linkChunkSend die k => Sys2Proof.Machine.execLinkChunkSend die k s

end Sys2Proof.Machine
end

