-- ==== Sys2Proof/Machine/Step.lean ====
section
/-!
DEFINITION. Step.lean: one step of the machine, and the placing of an instruction where the next step fetches it (log 5).
-/
namespace Sys2Proof.Machine

/-- The move that the next step makes: the first that has been decided, else any (log 5). -/
def State.nextMove (s : State) : Move := s.sched.headD (Config.nextMove s.tick)

/-- The state as the next move meets it. -/
def State.taken (s : State) : State := { s with sched := s.sched.tail, tick := s.tick + 1 }

/-- Make a move: issue a bundle, perform an event of the device, or let the environment act. -/
def runMove (m : Move) (s : State) : Host.Outcome State Fault Refusal :=
  match m with
  | .issue w k => issueBundle exec s w k
  | .event i => if (encode i).isNone then exec i s else .next s
  | .elapse n => .next (elapse s n)
  | .showReg w t k v => .next (showReg s w t k v)
  | .zeroStart w k => issueBundle (startRun exec) s w k
  | .zeroWord w id a => .next (zeroWord s w id a)
  | .arrayRead w a => .next (arrayMove s w (fun g => readWord g a))
  | .arrayWrite w => .next (arrayMove s w writeNext)
  | .arrayAct w => .next (arrayMove s w actArray)
  | .hostWrite pa b => .next (hostWrite s pa b)
  | .badMem pa bad => .next (badMem s pa bad)
  | .badData w a => .next (badData s w a)
  | .corrected die => .next (countCorrected s die)
  | .badText core kernel idx => .next (badText s core kernel idx)
  | .badSeq core kernel seq op => .next (badSeq s core kernel seq op)
  | .badReg w t o => .next (badReg s w t o)
  | .badTag w set => .next (badTag s w set)
  | .badAnswer w t k => .next (badAnswer s w t k)
  | .badElem w c bank row col => .next (badElem s w c bank row col)

/-- One step of the machine. -/
def step (s : State) : Host.Outcome State Fault Refusal := runMove s.nextMove s.taken

/-- The header of the kernel in which `withFetchWord` places an instruction: one group of 32 threads with every resource. -/
def fetchHeader : Header :=
  { Header.zero with
    magic := 0x5A4B, dclass := 0x0940, tlen := 87381, vregs := 256, sregs := 128, sdata := 7 * 2 ^ 20, bars := 16, queues := 8
    stcls := 0xFFFF, tsets := 2048, array := true, wgt := 32 }

/-- The text of that kernel: the instruction at index 0, and words of zeros. -/
def fetchText (kernel : Nat) (x : IWord) : Text :=
  { kernel := kernel, base := 0, tlen := 87381, words := SMap.set 0 [] 0 x, bad := [], seqs := [] }

/-- The state with an instruction placed where the next step fetches: in a new workgroup on core 0 whose one bundle the next move issues. Its
bits are numbered as the opcode table numbers them. -/
def State.withFetchWord (s : State) (nbits w : Nat) : State :=
  let n := s.wgs.length
  let g := { freshWg 0 0 0 0 0 0 0 n 0 0 fetchHeader with bundles := [rangeFrom 0 32] }
  let x := wordOfBytes (leBytes 12 (w % 2 ^ nbits))
  let s := modCore s 0 (fun c => { c with texts := fetchText n x :: c.texts })
  { s with wgs := s.wgs ++ [g], sched := .issue n 0 :: s.sched }

end Sys2Proof.Machine
end

