-- ==== Sys2Proof/Safety.lean ====
section
/-!
DEFINITION. Safety.lean: what every reachable state satisfies, what a safe step is, and the terms in which the claims speak of an
issuing bundle.
-/
namespace Sys2Proof.Machine

/-- Memory is in its canonical form: addresses strictly rising, and no entry equal to what an unlisted address reads as. -/
def Memory.wf (m : List Host.Cell) : Bool := SMap.wf Config.memDefault m

/-- Thread numbers in strictly rising order. -/
abbrev Rising (l : List Nat) : Prop := l.Pairwise (· < ·)

/-- A workgroup's maps are canonical, and each of its bundles names a thread once, in ascending order (04 R63). -/
def Wg.Canonical (g : Wg) : Prop :=
  SMap.wf 0 g.data = true ∧ SMap.wf TagWay.empty g.tags = true ∧ (∀ x, g.anvil = some x → x.wf = true) ∧ ∀ ls ∈ g.bundles, Rising ls

/-- The saved workgroups of an entry that migrates are canonical. -/
def Migrant.Canonical (m : Migrant) : Prop := ∀ g ∈ m.wgs, g.Canonical

/-- The invariant of the machine's steps: memory, every workgroup, those that migrate too, and the table of cores are canonical, and the four
partitions stay four (22 R350). -/
structure Inv (s : State) : Prop where
  mem : Memory.wf s.mem = true
  parts : s.parts.length = 4
  cores : SMap.wf Core.empty s.cores = true
  wgs : ∀ g ∈ s.wgs, g.Canonical
  moving : ∀ c ∈ s.ctxs, ∀ m ∈ c.2.migrants, m.Canonical
  copied : ∀ i ∈ s.dev.images, ∀ m ∈ i.migrants, m.Canonical
  lanes : Rising s.bundle.lanes

/-- A step is safe when the machine goes on. -/
def SafeStep (s : State) : Prop := ∃ t, step s = .next t

end Sys2Proof.Machine

namespace Sys2Proof.Claims
open Sys2Proof.Machine

/-- The workgroup whose bundle issues. -/
abbrev cur (s : State) : Wg := getWg s s.bundle.wg

/-- A thread of that workgroup. -/
abbrev lane (s : State) (u : Nat) : Thread := getTh (cur s) u

/-- The active lanes of the bundle, ascending (02 R24). -/
def acting (h : Hdr) (helpers : Bool) (s : State) : List Nat :=
  s.bundle.lanes.filter (fun u => activeIn h helpers (lane s u))

/-- The active lanes of the bundle in a group. -/
def actingIn (h : Hdr) (helpers : Bool) (s : State) (k : Nat) : List Nat :=
  (acting h helpers s).filter (fun u => grpOf u == k)

/-- The bundle lies in one group, with an active lane: as a collective's does (04 R67). -/
def OneGroup (h : Hdr) (helpers : Bool) (s : State) (k : Nat) : Prop :=
  (∀ u ∈ s.bundle.lanes, grpOf u = k) ∧ acting h helpers s ≠ []

/-- The bundle is one lane, and it is active. -/
def Sole (h : Hdr) (helpers : Bool) (s : State) (u : Nat) : Prop := s.bundle.lanes = [u] ∧ acting h helpers s = [u]

/-- The state with the bundle's workgroup changed. -/
def onCur (s : State) (f : Wg → Wg) : State := { s with wgs := s.wgs.set s.bundle.wg (f (cur s)) }

/-- The state with each thread of the bundle's workgroup changed, by its number; nothing else differs. -/
def mapLanes (s : State) (f : Nat → Thread → Thread) : State :=
  onCur s (fun g => { g with threads := g.threads.mapIdx f })

/-- The state with each group's uniform registers changed; nothing else differs. -/
def mapGroups (s : State) (f : Nat → Group → Group) : State :=
  onCur s (fun g => { g with groups := g.groups.mapIdx f })

/-- A thread that leaves its instruction for the next position; one that closes a region moves %irs there (05 R94, 18 R305). -/
def leave (closes : Bool) (s : State) (th : Thread) : Thread :=
  let th := { th.tick.advance (seqLen s (cur s) th.seqM) with wait := .none, relAt := none }
  if closes then { th with irs := th.pos, moves := th.moves + 1 } else th

/-- Every lane of the bundle leaves; nothing else differs. -/
def leaveAll (closes : Bool) (s : State) : State :=
  mapLanes s (fun u th => if u ∈ s.bundle.lanes then leave closes s th else th)

/-- The active lanes are changed; nothing else differs. -/
def onActing (h : Hdr) (helpers : Bool) (s : State) (f : Nat → Thread → Thread) : State :=
  mapLanes s (fun u th => if u ∈ acting h helpers s then f u th else th)

/-- The active lanes end as `f` says, and the other lanes of the bundle leave; nothing else differs. -/
def lanesEnd (h : Hdr) (helpers closes : Bool) (s : State) (f : Nat → Thread → Thread) : State :=
  mapLanes s (fun u th => if u ∈ acting h helpers s then f u th else if u ∈ s.bundle.lanes then leave closes s th else th)

/-- Values written to a thread's registers from a number on. -/
def putV (th : Thread) (n : Nat) : List Word → Thread
  | [] => th
  | x :: xs => putV (th.wv n x) (n + 1) xs

/-- Values written to a group's registers from a number on. -/
def putU (g : Group) (n : Nat) : List Word → Group
  | [] => g
  | x :: xs => putU (g.wu n x) (n + 1) xs

/-- Flags raised in a thread, unless NF is 1 (02 R25, 03 R50). -/
def raised (h : Hdr) (fl : Word) (th : Thread) : Thread := if h.nf then th else { th with fflags := th.fflags ||| fl }

/-- The lane whose operands a group with a uniform destination uses: the lowest active one (06 R100). -/
def source (h : Hdr) (helpers : Bool) (s : State) (d : Opnd) (u : Nat) : Nat :=
  if isUni d then (actingIn h helpers s (grpOf u)).headD 0 else u

/-- A thread with a result in its vector destination. -/
def gotV (d : Opnd) (vals : List Word) (th : Thread) : Thread :=
  match d with
  | .v n => putV th n.toNat vals
  | _ => th

/-- A thread with a truth value in its predicate destination (06 R102). -/
def gotP (d : Opnd) (b : Bool) (th : Thread) : Thread :=
  match d with
  | .p n => th.wp n.toNat b
  | _ => th

/-- A group with a result in its uniform destination. -/
def gotU (d : Opnd) (vals : List Word) (g : Group) : Group :=
  match d with
  | .s n => putU g n.toNat vals
  | _ => g

/-- The state with the results `f` of the active lanes in a destination, and their flags raised (06 R100, 07 R119). -/
def gotAll (h : Hdr) (d : Opnd) (f : Nat → Res) (s : State) : State :=
  mapGroups
    (onActing h true s (fun u th => raised h (f (source h true s d u)).flags (gotV d (f u).vals th)))
    (fun k g => match actingIn h true s k with
      | u :: _ => gotU d (f u).vals g
      | [] => g)

/-- Who takes a number for a long-latency result: the active lanes, or their groups (log 6). -/
def numbered (h : Hdr) (d : Opnd) (s : State) : List Nat :=
  if isUni d then groupsOf (acting h true s) else acting h true s

/-- The number of a lane's long-latency result (log 6). -/
def numberOf (h : Hdr) (d : Opnd) (s : State) (u : Nat) : Nat :=
  s.fresh + (numbered h d s).idxOf (if isUni d then grpOf u else u)

/-- The state with another next unused number (log 6). -/
def withFresh (s : State) (n : Nat) : State := { s with fresh := n }

/-- A thread with the long-latency result of number n that it awaits, if it awaits one: an active lane does, and a lane of the bundle that
is guarded off, since it has issued too, awaits the uniform destination that lanes of its group load (02 R24, R26, 06 R100). `p` gives the
result from the lane whose operands are used and its number. -/
def awaits (h : Hdr) (d : Opnd) (p : Nat → Nat → Pend) (s : State) (n u : Nat) (th : Thread) : Thread :=
  if u ∈ acting h true s then { th with pend := th.pend ++ [p (source h true s d u) n] }
  else if isUni d ∧ u ∈ s.bundle.lanes ∧ actingIn h true s (grpOf u) ≠ [] then
    { th with pend := th.pend ++ [(p (source h true s d u) n).shared] }
  else th

/-- The state in which the lanes of the bundle await their long-latency results. -/
def awaitAll (h : Hdr) (d : Opnd) (p : Nat → Nat → Pend) (s : State) : State :=
  withFresh (mapLanes s (fun u => awaits h d p s (numberOf h d s u) u)) (s.fresh + (numbered h d s).length)

end Sys2Proof.Claims
end

