-- ==== Sys2Proof/WellFormed.lean ====
section
/-!
DEFINITION. WellFormed.lean: an instruction is well formed when its word passes the encoding check (02 R35).
-/
namespace Sys2Proof

/-- The encoding check of an instruction's own word, in the context of a kernel at the device limits, outside a sequence
(02 R35). Events are no words: the check holds of them. -/
def wellFormed (i : Instr) : Bool :=
  match rawOf i with
  | some r => (faults .std r).isEmpty
  | none => true

/-- `wellFormed` as a proposition. -/
abbrev WellFormed (i : Instr) : Prop := wellFormed i = true

end Sys2Proof
end

