-- ==== Sys2Proof/Certificates/Slice0/Obligations.lean ====
section
/-!
DEFINITION. Obligations.lean: the statements for the provers. Each `Obligations.<Name>` says what its docstring says, and cites the
rules of spec/ it formalises.
-/
namespace Sys2Proof.Claims
open Sys2Proof.Machine

/-! ### What an instruction that computes does -/

/-- The instruction computes `f` in every active lane, or once for a group with a uniform destination: results in D, flags raised, every
lane at its next position, and nothing else changed (06 R100, 07 R119). -/
def Computes (i : Instr) (h : Hdr) (d : Opnd) (f : State → Nat → Res) : Prop :=
  ∀ s, Rising s.bundle.lanes → exec i s = .next (leaveAll false (gotAll h d (f s) s))

/-- The instruction is a long-latency one whose result is `f`: every active lane awaits the write of D and the flags, and goes on
(02 R26). -/
def Awaits (i : Instr) (h : Hdr) (d : Opnd) (f : State → Nat → Res) : Prop :=
  ∀ s, Rising s.bundle.lanes → exec i s = .next (leaveAll false (awaitAll h d (fun u n =>
    Pend.start h n .known (regWrites d (f s u).vals) (f s u).flags) s))

/-- The instruction writes a predicate in every active lane, and raises flags (06 R102). -/
def Decides (i : Instr) (h : Hdr) (d : Opnd) (f : State → Nat → Bool × Word) : Prop :=
  ∀ s, Rising s.bundle.lanes → exec i s = .next (leaveAll false (onActing h true s (fun u th =>
    raised h (f s u).2 (gotP d (f s u).1 th))))

/-- The instruction changes each active lane's own thread, which goes on. -/
def Changes (i : Instr) (h : Hdr) (f : State → Nat → Thread → Thread) : Prop :=
  ∀ s, Rising s.bundle.lanes → exec i s = .next (leaveAll false (onActing h true s (f s)))

/-- An operand's value in a lane, as an unsigned number of its type's width (03 R42). -/
def rd (s : State) (u : Nat) (ty : Ty) (o : Opnd) (imm : Word) : Nat := readTy (cur s) u ty o imm

/-- The value of an operand as the integer its type makes of it (03 R41). -/
def int (s : State) (u : Nat) (ty : Ty) (o : Opnd) (imm : Word) : Int := intOf ty (rd s u ty o imm)

/-- The value of an operand as the bits of its type. -/
def raw (s : State) (u : Nat) (ty : Ty) (o : Opnd) (imm : Word) : BitVec ty.width := BitVec.ofNat ty.width (rd s u ty o imm)

/-- A result of a type in registers, extended as 03 R42 states. -/
def val (ty : Ty) (n : Nat) : Res := { vals := extTy ty n }

/-- An exact integer, clamped to the range of a type under SAT, else taken modulo 2^W (06 R106). -/
def fit (ty : Ty) (sat : Bool) (t : Int) : Res :=
  val ty (((if sat then max (tyMin ty) (min (tyMax ty) t) else t) % 2 ^ ty.width).toNat)

end Sys2Proof.Claims

open Sys2Proof Sys2Proof.Machine Sys2Proof.Claims

/-- 06 R106, R107: the exact sum, difference, product, product and sum, minimum, maximum, magnitude and negative, clamped or wrapped once;
and the upper half of the exact product. -/
def Obligations.IntegerArithmeticResults : Prop :=
  ∀ (h : Hdr) (ty : Ty) (sat : Bool) (d a b c : Opnd) (imm : Word),
    Computes (.iadd h ty sat d a b imm) h d (fun s u => fit ty sat (int s u ty a imm + int s u ty b imm)) ∧
    Computes (.isub h ty sat d a b imm) h d (fun s u => fit ty sat (int s u ty a imm - int s u ty b imm)) ∧
    Computes (.imul h ty sat d a b imm) h d (fun s u => fit ty sat (int s u ty a imm * int s u ty b imm)) ∧
    Computes (.imad h ty sat d a b c) h d (fun s u => fit ty sat (int s u ty a 0 * int s u ty b 0 + int s u ty c 0)) ∧
    Computes (.imin h ty d a b imm) h d (fun s u => fit ty false (min (int s u ty a imm) (int s u ty b imm))) ∧
    Computes (.imax h ty d a b imm) h d (fun s u => fit ty false (max (int s u ty a imm) (int s u ty b imm))) ∧
    Computes (.iabs h ty sat d a imm) h d (fun s u => fit ty sat (max (int s u ty a imm) (-int s u ty a imm))) ∧
    Computes (.ineg h ty sat d a imm) h d (fun s u => fit ty sat (-int s u ty a imm)) ∧
    Computes (.imulh h ty d a b imm) h d (fun s u => fit ty false (int s u ty a imm * int s u ty b imm / 2 ^ ty.width))

/-- 06 R109: the bitwise operations and the shifts on the raw W bits; the shifts read their amount as n32. -/
def Sys2Proof.Claims.BitwiseAndShiftResults : Prop :=
  ∀ (h : Hdr) (ty : Ty) (d a b : Opnd) (imm : Word),
    Computes (.and h ty d a b imm) h d (fun s u => val ty (raw s u ty a imm &&& raw s u ty b imm).toNat) ∧
    Computes (.or h ty d a b imm) h d (fun s u => val ty (raw s u ty a imm ||| raw s u ty b imm).toNat) ∧
    Computes (.xor h ty d a b imm) h d (fun s u => val ty (raw s u ty a imm ^^^ raw s u ty b imm).toNat) ∧
    Computes (.not h ty d a imm) h d (fun s u => val ty (~~~ raw s u ty a imm).toNat) ∧
    Computes (.andn h ty d a b imm) h d (fun s u => val ty (raw s u ty a imm &&& ~~~ raw s u ty b imm).toNat) ∧
    Computes (.shl h ty d a b imm) h d (fun s u => val ty (raw s u ty a imm <<< rd s u .n32 b imm).toNat) ∧
    Computes (.shr h ty d a b imm) h d (fun s u => val ty (raw s u ty a imm >>> rd s u .n32 b imm).toNat) ∧
    Computes (.sar h ty d a b imm) h d (fun s u => val ty ((raw s u ty a imm).sshiftRight (rd s u .n32 b imm)).toNat) ∧
    Computes (.rol h ty d a b imm) h d (fun s u => val ty ((raw s u ty a imm).rotateLeft (rd s u .n32 b imm)).toNat)

namespace Sys2Proof.Claims
open Sys2Proof.Machine

/-- The number of leading places of a list that fail a test. -/
def leading (f : Nat → Bool) (l : List Nat) : Nat := (l.takeWhile (fun k => !f k)).length

/-- The position and the clipped length of a bit field, from its control word (06 R111). -/
def field (W k : Nat) : Nat × Nat :=
  let p := k % 2 ^ 8
  if p < W then (p, min (k / 2 ^ 8 % 2 ^ 8) (W - p)) else (0, 0)

/-- The W bits with ones in a field. -/
def fieldMask (W : Nat) (f : Nat × Nat) : BitVec W := BitVec.ofNat W ((2 ^ f.2 - 1) * 2 ^ f.1)

/-- A field of W bits, sign-extended or zero-extended to W bits. -/
def fieldOut (ty : Ty) (x : BitVec ty.width) (f : Nat × Nat) : BitVec ty.width :=
  if ty.signed then (x.extractLsb' f.1 f.2).signExtend ty.width else (x.extractLsb' f.1 f.2).setWidth ty.width

end Sys2Proof.Claims

/-- 06 R110, R111: the counts of bits into one register, the reversals of bits and bytes, and the bit fields. -/
def Sys2Proof.Claims.BitCountAndFieldResults : Prop :=
  ∀ (h : Hdr) (ty : Ty) (d a b c : Opnd) (imm : Word),
    Computes (.popc h ty d a imm) h d (fun s u => val .b32 ((List.range ty.width).countP (raw s u ty a imm).getLsbD)) ∧
    Computes (.clz h ty d a imm) h d (fun s u => val .b32 (leading (raw s u ty a imm).getLsbD (List.range ty.width).reverse)) ∧
    Computes (.ctz h ty d a imm) h d (fun s u => val .b32 (leading (raw s u ty a imm).getLsbD (List.range ty.width))) ∧
    Computes (.brev h ty d a imm) h d (fun s u => val ty (raw s u ty a imm).reverse.toNat) ∧
    Computes (.bswap h ty d a imm) h d (fun s u => val ty (leVal (leBytes (ty.width / 8) (rd s u ty a imm)).reverse)) ∧
    Computes (.bfx h ty d a b imm) h d (fun s u =>
      val ty (fieldOut ty (raw s u ty a imm) (field ty.width (rd s u .n32 b imm))).toNat) ∧
    Computes (.bfi h ty d a b c) h d (fun s u =>
      let f := field ty.width (rd s u .n32 c 0)
      let m := fieldMask ty.width f
      val ty ((raw s u ty b 0 &&& ~~~ m) ||| (raw s u ty a 0 <<< f.1 &&& m)).toNat)

/-- 06 R109: the bitwise operations and the shifts on the raw W bits; the shifts read their amount as n32. 06 R110, R111: the counts of bits
into one register, the reversals of bits and bytes, and the bit fields. -/
def Obligations.BitwiseShiftAndFieldResults : Prop := BitwiseAndShiftResults ∧ BitCountAndFieldResults

namespace Sys2Proof.Claims
open Sys2Proof.Machine

/-- The quotient of 06 R108: all ones for a zero divisor, the least value for its quotient by -1, else truncated toward zero. -/
def quotOf (ty : Ty) (x y : Int) : Int :=
  if y = 0 then 2 ^ ty.width - 1 else if ty.signed ∧ x = tyMin ty ∧ y = -1 then tyMin ty else x.tdiv y

/-- The remainder of 06 R108: the dividend for a zero divisor, else with the sign of the dividend. -/
def remOf (ty : Ty) (x y : Int) : Int :=
  if y = 0 then x else if ty.signed ∧ x = tyMin ty ∧ y = -1 then 0 else x - x.tdiv y * y

end Sys2Proof.Claims

/-- 06 R108: division of a type whose values are integers of at least one bit. The numbers of the results are the model's (log 6), and that the
lanes of a group that are guarded off await a uniform destination too is its choice (log 46). -/
def Obligations.DivisionResults : Prop :=
  ∀ (h : Hdr) (ty : Ty) (d a b : Opnd) (imm : Word),
    Awaits (.idiv h ty d a b imm) h d (fun s u => fit ty false (quotOf ty (int s u ty a imm) (int s u ty b imm))) ∧
    Awaits (.irem h ty d a b imm) h d (fun s u => fit ty false (remOf ty (int s u ty a imm) (int s u ty b imm)))

namespace Sys2Proof.Claims
open Sys2Proof.Machine

/-- Whether an integer condition holds, by its code (06 R112). -/
def holds (sub : BitVec 4) (x y : Int) : Bool :=
  if sub = 0 then decide (x = y) else if sub = 1 then decide (x ≠ y) else if sub = 2 then decide (x < y)
  else if sub = 3 then decide (x ≤ y) else if sub = 4 then decide (x > y) else decide (x ≥ y)

/-- The combination of two predicates, by its code (06 R116). -/
def combined (sub : BitVec 4) (x y : Bool) : Bool :=
  if sub = 0 then x && y else if sub = 1 then x || y else if sub = 2 then xor x y else if sub = 3 then x && !y else !x

/-- A predicate operand in a lane; p7 reads 1 (06 R102). -/
def pr (s : State) (u : Nat) (o : Opnd) : Bool := readPred (cur s) u o

end Sys2Proof.Claims

/-- 06 R112, R116, 07 R124: what a compare and a combination of predicates write; `fcmp` raises the flags of R124. Here `sub` is one of
the codes that the rules give. -/
def Sys2Proof.Claims.PredicateResults : Prop :=
  ∀ (h : Hdr) (ty : Ty) (sub : BitVec 4) (d a b : Opnd) (imm : Word),
    Decides (.icmp h ty sub d a b imm) h d (fun s u => (holds sub (int s u ty a imm) (int s u ty b imm), 0)) ∧
    Decides (.plop h sub d a b) h d (fun s u => (combined sub (pr s u a) (pr s u b), 0)) ∧
    Decides (.fcmp h sub d a b imm) h d (fun s u =>
      let ftz := ftzOf (lane s u).frm
      fcmpOf sub (FV.ofBits .f32 ftz (rd s u .f32 a imm)) (FV.ofBits .f32 ftz (rd s u .f32 b imm)))

namespace Sys2Proof.Claims
open Sys2Proof.Machine

/-- The special registers as a lane reads them: number, type and value (06 R103, 17 R293, R294). -/
def spRegs (s : State) (u : Nat) : List (Nat × Ty × Nat) :=
  let g := cur s
  let th := lane s u
  let bit (b : Bool) : Nat := if b then 1 else 0
  let e := entryOf s g
  [(0x00, .n32, u % 32), (0x01, .n32, u % 32 / 4), (0x02, .n32, u / 32), (0x03, .n32, g.wgid), (0x04, .n32, g.clid), (0x05, .n32, g.core),
   (0x06, .n32, bit (th.kind == .helper)), (0x08, .n32, th.npc.toNat), (0x09, .n64, th.gpc.toNat), (0x0A, .n64, th.gpcb.toNat)] ++
  [(0x0B, .n32, th.gop.toNat), (0x0C, .n32, th.gbase.toNat), (0x0D, .n64, th.meet.toNat), (0x0E, .n32, th.irs.toNat),
   (0x0F, .n32, bit th.inGuest), (0x10, .n64, (s.cyc + Config.cycOffset g.core) % 2 ^ 64), (0x11, .n64, g.ctxcyc % 2 ^ 64),
   (0x12, .n64, dtime s % 2 ^ 64), (0x13, .n64, g.tmr)] ++
  [(0x14, .n64, (e.map (fun e => e.budget - e.charge)).getD 0),
   (0x15, .n64, (e.map (fun e => if e.demoted then 2 ^ 64 - 1 else e.d % 2 ^ 64)).getD 0), (0x16, .n32, bit (getCore s g.core).preq),
   (0x17, .n32, g.qe), (0x18, .n32, th.fflags.toNat), (0x19, .n32, th.frm.toNat), (0x1A, .n32, (g.anvil.map (fun x => x.merr.toNat)).getD 0)] ++
  [(0x20, .n32, th.tcause.toNat), (0x21, .n32, th.tnpc.toNat), (0x22, .n64, th.tgpcb.toNat), (0x23, .n32, th.tgop.toNat),
   (0x24, .n32, th.tgv.toNat), (0x25, .n64, th.taddr.toNat), (0x26, .n64, th.tinfo.toNat), (0x27, .n32, th.tsq.toNat)]

end Sys2Proof.Claims

/-- 06 R103, R113, R115, R117, R118: the moves. `sel` chooses by its predicate, `mov` copies, `rdsp` reads a special register of R103, `p2v` the
predicates with a one at p7, and `rdfirst` the lowest active lane's value into the group's register. -/
def Sys2Proof.Claims.MoveResults : Prop :=
  ∀ (h : Hdr) (ty : Ty) (d a b c : Opnd) (imm : Word) (n : BitVec 6),
    Computes (.sel h ty d a b c) h d (fun s u => val ty (if pr s u c then rd s u ty a 0 else rd s u ty b 0)) ∧
    Computes (.mov h ty d a imm) h d (fun s u => val ty (rd s u ty a imm)) ∧
    Computes (.rdsp h d (.sp n)) h d (fun s u =>
      match (spRegs s u).find? (fun x => x.1 == n.toNat) with
      | some x => val x.2.1 x.2.2
      | none => val .n32 0) ∧
    Computes (.p2v h d) h d (fun s u => val .b32 ((lane s u).preds.toNat + 2 ^ 7)) ∧
    Computes (.rdfirst h ty d a) h d (fun s u => val ty (rd s u ty a 0))

/-- 06 R103, R115, R117: what `wrsp` and `v2p` write: %gbase, the five flag bits of %fflags (03 R50), %frm with its reserved bits zero and
rounding modes 5 to 7 stored as 0 (03 R49), and the predicates below p7 under a mask. -/
def Sys2Proof.Claims.SpecialRegisterWrites : Prop :=
  ∀ (h : Hdr) (a b : Opnd) (imm : Word),
    Changes (.wrsp h (.sp 0x0C) b imm) h (fun s u th => { th with gbase := BitVec.ofNat 32 (rd s u .n32 b imm) }) ∧
    Changes (.wrsp h (.sp 0x18) b imm) h (fun s u th => { th with fflags := BitVec.ofNat 32 (rd s u .n32 b imm) &&& 0x1F }) ∧
    Changes (.wrsp h (.sp 0x19) b imm) h (fun s u th =>
      let x := BitVec.ofNat 32 (rd s u .n32 b imm)
      { th with frm := (x &&& 8) ||| (if x &&& 7 > 4 then 0 else x &&& 7) }) ∧
    Changes (.v2p h a b imm) h (fun s u th =>
      let x := BitVec.ofNat 7 (rd s u .n32 a imm)
      let m := BitVec.ofNat 7 (rd s u .n32 b imm)
      { th with preds := (th.preds &&& ~~~ m) ||| (x &&& m) })

/-- 06 R112, R116, 07 R124: what a compare and a combination of predicates write; `fcmp` raises the flags of R124. Here `sub` is one of the
codes that the rules give. 06 R103, R113, R115, R117, R118: the moves. `sel` chooses by its predicate, `mov` copies, `rdsp` reads a special
register of R103, `p2v` the predicates with a one at p7, and `rdfirst` the lowest active lane's value into the group's register. 06 R103,
R115, R117: what `wrsp` and `v2p` write: %gbase, the five flag bits of %fflags (03 R50), %frm with its reserved bits zero and rounding modes
5 to 7 stored as 0 (03 R49), and the predicates below p7 under a mask. -/
def Obligations.PredicateMoveAndSpecialResults : Prop := PredicateResults ∧ MoveResults ∧ SpecialRegisterWrites

namespace Sys2Proof.Claims
open Sys2Proof.Machine

/-- The rounding mode and FTZ of a lane (03 R48, R49). -/
def rc (s : State) (u : Nat) (mod : BitVec 3) : Rc := rcOf (cur s) u mod

/-- The elements of an operand as they are read (03 R45, R47). -/
def els (s : State) (u : Nat) (ty : Ty) (mod : BitVec 3) (o : Opnd) (imm : Word) : List FV :=
  (elemsOf ty (rd s u ty o imm)).map (FV.ofBits (fmtOf ty) (rc s u mod).ftz)

end Sys2Proof.Claims

/-- 07 R119, R121 to R123: the arithmetic of the floating-point formats, element by element, each result rounded once in the lane's mode
with its flags. `sumOf`, `productOf`, `fusedOf` and `minMaxOf` are the model's functions of exact sums and products. -/
def Obligations.FloatArithmeticResults : Prop :=
  ∀ (h : Hdr) (ty : Ty) (mod : BitVec 3) (d a b c : Opnd) (imm : Word),
    Computes (.fadd h ty mod d a b imm) h d (fun s u => elemRes (List.zipWith (fun x y => sumOf (fmtOf ty) (rc s u mod) [x, y])
      (els s u ty mod a imm) (els s u ty mod b imm))) ∧
    Computes (.fsub h mod d a b imm) h d (fun s u => elemRes (List.zipWith (fun x y => sumOf .f32 (rc s u mod) [x, y.neg])
      (els s u .f32 mod a imm) (els s u .f32 mod b imm))) ∧
    Computes (.fmul h ty mod d a b imm) h d (fun s u => elemRes (List.zipWith (productOf (fmtOf ty) (rc s u mod))
      (els s u ty mod a imm) (els s u ty mod b imm))) ∧
    Computes (.ffma h ty mod d a b c) h d (fun s u => elemRes (List.zipWith (fun p z => fusedOf (fmtOf ty) (rc s u mod) [p] z)
      (List.zip (els s u ty mod a 0) (els s u ty mod b 0)) (els s u ty mod c 0))) ∧
    Computes (.fdot2 h ty mod d a b c) h d (fun s u => elemRes [fusedOf .f32 (rc s u mod)
      (List.zip (els s u ty mod a 0) (els s u ty mod b 0)) (FV.ofBits .f32 (rc s u mod).ftz (rd s u .f32 c 0))]) ∧
    Computes (.fmin h ty d a b imm) h d (fun s u => elemRes (List.zipWith (minMaxOf false (fmtOf ty) (rc s u 0))
      (elemsOf ty (rd s u ty a imm)) (elemsOf ty (rd s u ty b imm)))) ∧
    Computes (.fmax h ty d a b imm) h d (fun s u => elemRes (List.zipWith (minMaxOf true (fmtOf ty) (rc s u 0))
      (elemsOf ty (rd s u ty a imm)) (elemsOf ty (rd s u ty b imm)))) ∧
    Computes (.fabs h ty d a imm) h d (fun s u => elemRes ((elemsOf ty (rd s u ty a imm)).map (fun x =>
      (x % 2 ^ ((fmtOf ty).eb + (fmtOf ty).fb), 0)))) ∧
    Computes (.fneg h ty d a imm) h d (fun s u => elemRes ((elemsOf ty (rd s u ty a imm)).map (fun x =>
      let n := (fmtOf ty).eb + (fmtOf ty).fb
      (x % 2 ^ n + (1 - x / 2 ^ n % 2) * 2 ^ n, 0))))

/-- 07 R125, R129 to R131, R134: classification, rounding to an integral value, conversions, and the expansion of a block element. The
roundings, classes and conversions of a value are said by the model's functions: `roundTo` with its reading of tininess (log 12), `classOf`,
`toIntegral`, `cvtFloat` and `cvtToInt`. -/
def Sys2Proof.Claims.FloatConversionResults : Prop :=
  ∀ (h : Hdr) (ty sty : Ty) (mod : BitVec 3) (sub : BitVec 4) (sat : Bool) (d a b : Opnd) (imm : Word),
    Computes (.fcls h ty d a imm) h d (fun s u => val .b32 (2 ^ classOf (fmtOf ty) (rd s u ty a imm))) ∧
    Computes (.frnd h mod d a imm) h d (fun s u => elemRes ((els s u .f32 mod a imm).map (fun x => match x with
      | .nan sg => (Fmt.f32.nan, if sg then fNV else 0)
      | .inf n => (Fmt.f32.inf n, 0)
      | .num n m e => ((roundTo .f32 .rne false n (toIntegral (rc s u mod).rm n m e).1 0).1, 0)))) ∧
    (isFloat sty = false → isFloat ty = true → isPacked ty = false →
      Computes (.cvt h ty sty mod sat d a b imm) h d (fun s u =>
        let i := int s u sty a imm
        elemRes [roundTo (fmtOf ty) (rc s u mod).rm (rc s u mod).ftz (decide (i < 0)) i.natAbs 0])) ∧
    (isPacked sty = false → isFloat sty = true → isFloat ty = true → isPacked ty = false →
      Computes (.cvt h ty sty mod sat d a b imm) h d (fun s u =>
        elemRes [cvtFloat (fmtOf ty) (rc s u mod) sat (FV.ofBits (fmtOf sty) (rc s u mod).ftz (rd s u sty a imm))])) ∧
    (isPacked sty = false → isFloat sty = true → isFloat ty = false →
      Computes (.cvt h ty sty mod sat d a b imm) h d (fun s u =>
        let r := cvtToInt ty (rc s u mod).rm (FV.ofBits (fmtOf sty) (rc s u mod).ftz (rd s u sty a imm))
        { vals := extTy ty r.1, flags := r.2 })) ∧
    (isPacked sty = false → isFloat sty = true → isPacked ty = true →
      Computes (.cvt h ty sty mod sat d a b imm) h d (fun s u => elemRes ([rd s u sty a imm, rd s u sty b imm].map (fun x =>
        cvtFloat (fmtOf ty) (rc s u mod) sat (FV.ofBits (fmtOf sty) (rc s u mod).ftz x))))) ∧
    (isPacked sty = true → isPacked ty = true →
      Computes (.cvt h ty sty mod sat d a b imm) h d (fun s u =>
        elemRes ((els s u sty mod a imm).map (cvtFloat (fmtOf ty) (rc s u mod) sat)))) ∧
    (isPacked sty = true → isFloat ty = true → isPacked ty = false →
      Computes (.cvt h ty sty mod sat d a b imm) h d (fun s u => elemRes [cvtFloat (fmtOf ty) (rc s u mod) sat
        (FV.ofBits (fmtOf sty) (rc s u mod).ftz ((elemsOf sty (rd s u sty a imm)).getD (rd s u .n32 b imm % 2) 0))])) ∧
    Computes (.bxd h sub d a b imm) h d (fun s u =>
      let w := rd s u .f32 a imm
      let m := bxWidth sub
      let e : Nat := w / 2 ^ 24
      let pe := if w.testBit (16 + rd s u .f32 b imm % 16 / 2) then 1 else 0
      val .b32 (if e = 0xFF then Fmt.f32.nan else
        (roundTo .f32 .rne false (w.testBit m) (w % 2 ^ m) ((e : Int) - 127 - (m - 1) - pe)).1))

/-- 07 R126 to R128: division, square root and the approximate functions are long-latency instructions, with one rounding and the flags of
their rules. The values are said by the model's functions `divOf`, `sqrtOf`, `rcpOf`, `rsqOf`, `exp2Of`, `log2Of` and `tanhOf`: tininess is
read as log 12 says, and NX of `frcp` at 2^127 as log 13 does. The numbers of the results are the model's (log 6), and that the lanes of a group that are guarded off await a
uniform destination too is its choice (log 46). -/
def Sys2Proof.Claims.FloatLongLatencyResults : Prop :=
  ∀ (h : Hdr) (mod : BitVec 3) (d a b : Opnd) (imm : Word),
    let x (s : State) (u : Nat) (o : Opnd) : FV := FV.ofBits .f32 (ftzOf (lane s u).frm) (rd s u .f32 o imm)
    Awaits (.fdiv h mod d a b imm) h d (fun s u => elemRes [divOf (rc s u mod) (x s u a) (x s u b)]) ∧
    Awaits (.fsqrt h mod d a imm) h d (fun s u => elemRes [sqrtOf (rc s u mod) (x s u a)]) ∧
    Awaits (.frcp h d a imm) h d (fun s u => elemRes [rcpOf (ftzOf (lane s u).frm) (x s u a)]) ∧
    Awaits (.frsq h d a imm) h d (fun s u => elemRes [rsqOf (ftzOf (lane s u).frm) (x s u a)]) ∧
    Awaits (.fexp2 h d a imm) h d (fun s u => elemRes [exp2Of (ftzOf (lane s u).frm) (x s u a)]) ∧
    Awaits (.flog2 h d a imm) h d (fun s u => elemRes [log2Of (ftzOf (lane s u).frm) (x s u a)]) ∧
    Awaits (.ftanh h d a imm) h d (fun s u => elemRes [tanhOf (ftzOf (lane s u).frm) (x s u a)])

/-- 07 R125, R129 to R131, R134: classification, rounding to an integral value, conversions, and the expansion of a block element. The
roundings, classes and conversions of a value are said by the model's functions: `roundTo` with its reading of tininess (log 12), `classOf`,
`toIntegral`, `cvtFloat` and `cvtToInt`. 07 R126 to R128: division, square root and the approximate functions are long-latency instructions,
with one rounding and the flags of their rules. The values are said by the model's functions `divOf`, `sqrtOf`, `rcpOf`, `rsqOf`, `exp2Of`,
`log2Of` and `tanhOf`: tininess is read as log 12 says, and NX of `frcp` at 2^127 as log 13 does. The numbers of the results are the model's
(log 6), and that the lanes of a group that are guarded off await a uniform destination too is its choice (log 46). -/
def Obligations.FloatConversionAndRootResults : Prop := FloatConversionResults ∧ FloatLongLatencyResults

namespace Sys2Proof.Claims
open Sys2Proof.Machine

/-- The instruction is a collective one, whose bundle lies in one group: every active lane receives its result `f`, of the values as
they stand at the issue; a uniform destination receives one result (07 R135, 04 R67). -/
def Exchanges (i : Instr) (h : Hdr) (d : Opnd) (f : State → List Nat → Nat → Res) : Prop :=
  ∀ s k, Rising s.bundle.lanes → OneGroup h true s k → exec i s = .next (leaveAll false (gotAll h d (f s (acting h true s)) s))

/-- What a lane reads of a source lane: its own value where that one is not active (07 R135). -/
def fromLane (s : State) (al : List Nat) (ty : Ty) (a : Opnd) (u src : Nat) : Res :=
  val ty (rd s (if src ∈ al then src else u) ty a 0)

/-- The mask of the lanes that pass a test (07 R139). -/
def maskOf (al : List Nat) (f : Nat → Bool) : Nat := ((al.filter f).map (fun u => 2 ^ (u % 32))).sum

end Sys2Proof.Claims

/-- 07 R135, R137 to R139: the exchanges of values between the lanes of a group, and the masks. -/
def Sys2Proof.Claims.LaneExchangeResults : Prop :=
  ∀ (h : Hdr) (ty : Ty) (mod : BitVec 3) (sub : BitVec 4) (d a b : Opnd) (imm : Word),
    (isUni d = false → Exchanges (.shfl h ty mod sub d a b imm) h d (fun s al u =>
      let S := 32 >>> mod.toNat
      let l := u % 32
      let i := l % S
      let n := rd s u .n32 b imm
      let src := if sub = 0 then l - i + n % S else if sub = 1 then (if i ≥ n then l - n else l)
        else if sub = 2 then (if i + n < S then l + n else l) else l - i + (i ^^^ n) % S
      fromLane s al ty a u (u - l + src))) ∧
    (isUni d = false → Exchanges (.qswap h ty sub d a) h d (fun s al u => fromLane s al ty a u (u ^^^ (sub.toNat + 1)))) ∧
    (isUni d = false → Exchanges (.qbcast h ty d a b imm) h d (fun s al u =>
      fromLane s al ty a u (u - u % 4 + rd s u .n32 b imm % 4))) ∧
    Exchanges (.ballot h d a) h d (fun s al _ => val .b32 (maskOf al (fun u => pr s u a))) ∧
    (isUni d = false → Exchanges (.matchLanes h ty d a) h d (fun s al u =>
      val .b32 (maskOf al (fun v => rd s v ty a 0 == rd s u ty a 0))))

namespace Sys2Proof.Claims
open Sys2Proof.Machine

/-- The instruction is a collective one that writes a predicate in every active lane (07 R135). -/
def Votes (i : Instr) (h : Hdr) (d : Opnd) (f : State → List Nat → Nat → Bool) : Prop :=
  ∀ s k, Rising s.bundle.lanes → OneGroup h true s k →
    exec i s = .next (leaveAll false (onActing h true s (fun u th => gotP d (f s (acting h true s) u) th)))

end Sys2Proof.Claims

/-- 07 R139: what `vote` and `elect` write to the predicate of each active lane. Here `sub` is one of the codes of R136. -/
def Sys2Proof.Claims.VoteResults : Prop :=
  ∀ (h : Hdr) (sub : BitVec 4) (d a : Opnd),
    Votes (.vote h sub d a) h d (fun s al _ =>
      if sub = 0 then al.all (fun u => pr s u a) else if sub = 1 then al.any (fun u => pr s u a)
      else al.all (fun u => pr s u a == pr s (al.headD 0) a)) ∧
    Votes (.elect h d) h d (fun _ al u => al.all (fun v => decide (u ≤ v)))

/-- 07 R135, R137 to R139: the exchanges of values between the lanes of a group, and the masks. 07 R139: what `vote` and `elect` write to the
predicate of each active lane. Here `sub` is one of the codes of R136. -/
def Obligations.LaneExchangeAndVoteResults : Prop := LaneExchangeResults ∧ VoteResults

namespace Sys2Proof.Claims
open Sys2Proof.Machine

/-- One step of a scan's chain over integers or bits (07 R140). -/
def scanInt (op : Nat) (ty : Ty) (x y : Nat) : Nat :=
  match op with
  | 0 => (x + y) % 2 ^ ty.width
  | 1 => if intOf ty y < intOf ty x then y else x
  | 2 => if intOf ty x < intOf ty y then y else x
  | 3 => x &&& y
  | 4 => x ||| y
  | _ => x ^^^ y

/-- A value of an f32 chain as it is read: a NaN becomes the canonical one, and a subnormal a zero under FTZ (07 R140). -/
def scanRead (ftz : Bool) (x : Nat) : Nat × Word :=
  match FV.ofBits .f32 ftz x with
  | .nan sg => (Fmt.f32.nan, if sg then fNV else 0)
  | .num n 0 _ => (Fmt.f32.zero n, 0)
  | _ => (x, 0)

/-- The running result of a chain, if it has begun, and its flags, with one more value (07 R140). -/
def scanNext (op : Nat) (ty : Ty) (c : Rc) (acc : Option Nat × Word) (x : Nat) : Option Nat × Word :=
  if ty = .f32 then
    let e := scanRead c.ftz x
    match acc.1 with
    | none => (some e.1, acc.2 ||| e.2)
    | some y =>
      let r := if op = 6 then sumOf .f32 c [FV.ofBits .f32 c.ftz y, FV.ofBits .f32 c.ftz e.1]
        else minMaxOf (op == 2) .f32 c y e.1
      (some r.1, acc.2 ||| e.2 ||| r.2)
  else (some (match acc.1 with | none => x | some y => scanInt op ty y x), acc.2)

/-- The chain over values in ascending lane order (07 R140). -/
def scanOver (op : Nat) (ty : Ty) (c : Rc) (xs : List Nat) : Option Nat × Word := xs.foldl (scanNext op ty c) (none, 0)

/-- What an exclusive scan gives the first lane (07 R140). -/
def scanFirst (op : Nat) (ty : Ty) : Nat :=
  if ty = .f32 then (if op = 1 then 0x7F800000 else if op = 2 then 0xFF800000 else 0)
  else if op = 1 then (tyMax ty % 2 ^ ty.width).toNat
  else if op = 2 then (tyMin ty % 2 ^ ty.width).toNat
  else if op = 3 then 2 ^ ty.width - 1 else 0

end Sys2Proof.Claims

/-- 07 R140: the scans and reductions over the active lanes in ascending order, with one lane's rounding context, for the operations and
types of R140. That an exclusive scan raises the flags of every step is the model's reading (log 14). -/
def Sys2Proof.Claims.ScanResults : Prop :=
  ∀ (h : Hdr) (ty : Ty) (mod : BitVec 3) (sub : BitVec 4) (d a : Opnd) (imm : Word),
    let op := sub.toNat % 8
    (if ty = .f32 then op = 1 ∨ op = 2 ∨ op = 6 else op < 6) →
    let xs (s : State) (al : List Nat) : List Nat := al.map (fun u => rd s u ty a imm)
    let c (s : State) (al : List Nat) : Rc := rc s (al.headD 0) mod
    Exchanges (.redux h ty mod sub d a imm) h d (fun s al _ =>
      let r := scanOver op ty (c s al) (xs s al)
      { vals := extTy ty (r.1.getD 0), flags := r.2 }) ∧
    (isUni d = false → Exchanges (.scan h ty mod sub d a imm) h d (fun s al u =>
      let n := al.idxOf u
      let r := scanOver op ty (c s al) ((xs s al).take (if sub.toNat ≥ 8 then n else n + 1))
      { vals := extTy ty (r.1.getD (scanFirst op ty)), flags := (scanOver op ty (c s al) (xs s al)).2 }))

/-- 07 R132, R133: `bxq` makes of each half of a group one block; the lanes that are not active give +0, and every active lane receives
the scale with its element, and the flags of its half. `quantise` is the model's function of R133. -/
def Sys2Proof.Claims.BlockQuantisation : Prop :=
  ∀ (h : Hdr) (sub : BitVec 4) (d a : Opnd), isUni d = false →
    Exchanges (.bxq h sub d a) h d (fun s al u =>
      let half := (List.range 16).map (fun j => u / 16 * 16 + j)
      let r := quantise (bxWidth sub) (half.map (fun v =>
        if v ∈ al then FV.ofBits .f32 false (rd s v .f32 a 0) else .num false 0 0))
      { vals := [BitVec.ofNat 32 (r.1 * 2 ^ 16 + r.2.1.getD (u % 16) 0)], flags := r.2.2 })

/-- 07 R140: the scans and reductions over the active lanes in ascending order, with one lane's rounding context, for the operations and types
of R140. That an exclusive scan raises the flags of every step is the model's reading (log 14). 07 R132, R133: `bxq` makes of each half of a
group one block; the lanes that are not active give +0, and every active lane receives the scale with its element, and the flags of its
half. `quantise` is the model's function of R133. -/
def Obligations.ScanAndBlockResults : Prop := ScanResults ∧ BlockQuantisation

namespace Sys2Proof.Claims
open Sys2Proof.Machine

/-- A trap found in a lane: taken at once when no long-latency result is outstanding, else when they have completed (18 R300, R302). -/
def caught (s : State) (u : Nat) (c : Nat × DWord × DWord) (th : Thread) : Thread :=
  if th.pend = [] then th.trapTo c.1 c.2.1 c.2.2 (dispatchIndex s (cur s) u) (cur s).hdr.traph
  else { th with due := some c }

/-- The instruction acts in each active lane on that lane alone: `f` gives the thread as it leaves, or the trap it meets. The statement
leaves out a trap that is taken in a handler, which ends the lane (18 R304: a statement of its own). -/
def Lanewise (i : Instr) (h : Hdr) (helpers closes : Bool)
    (f : State → Nat → Except (Nat × DWord × DWord) (Thread → Thread)) : Prop :=
  ∀ s, Rising s.bundle.lanes →
    (∀ u ∈ acting h helpers s, ∀ c, f s u = .error c → (lane s u).pend = [] → (lane s u).th = false) →
    exec i s = .next (lanesEnd h helpers closes s (fun u th => match f s u with
      | .ok F => F th
      | .error c => caught s u c th))

/-- A lane goes on at an instruction; a control transfer ends every lookahead window (02 R26). -/
def goesTo (n : Nat) (th : Thread) : Thread :=
  { th with npc := BitVec.ofNat 32 n, wait := .none, pend := th.pend.map (fun p => { p with left := 0 }) }

/-- A control transfer checked against the text length (04 R75). -/
def jump (s : State) (n : Nat) (F : Thread → Thread) : Except (Nat × DWord × DWord) (Thread → Thread) :=
  if n < (cur s).hdr.tlen then .ok (fun th => goesTo n (F th)) else .error (0x0A, 0, BitVec.ofNat 64 n)

end Sys2Proof.Claims

/-- 04 R75, R78: each active lane goes to the target, or takes trap 0x0A with the target in %taddr; `call` writes the index after its
own to D, a vector register. -/
def Sys2Proof.Claims.BranchResults : Prop :=
  ∀ (h : Hdr) (d a : Opnd) (imm : Word),
    Lanewise (.bra h imm) h true false (fun s _ => jump s imm.toNat id) ∧
    Lanewise (.brx h a) h true false (fun s u => jump s (rd s u .n32 a 0) id) ∧
    Lanewise (.ret h a) h true false (fun s u => jump s (rd s u .n32 a 0) id) ∧
    (isUni d = false → Lanewise (.call h d imm) h true false (fun s u => jump s imm.toNat (gotV d [(lane s u).npc + 1])))

/-- 04 R77, R79, R81, R84, 18 R321 (the count of writes of %irs is the model's, log 58): `nop` and `yield` change nothing of a thread, `meet`, `meetg` and `unmeet` write %meet, and the count of a
hold at the old target ends (log 49), `gadv` and
`gset` write %gpc, `region` moves %irs to its own position, and every lane goes on; `exit` ends each active lane. -/
def Sys2Proof.Claims.ThreadStateResults : Prop :=
  ∀ (h : Hdr) (a : Opnd) (imm : Word),
    Changes (.nop h) h (fun _ _ th => th) ∧
    Changes (.yieldTo h) h (fun _ _ th => th) ∧
    Changes (.meet h imm) h (fun _ _ th => { th with meet := 1#2 ++ (imm.setWidth 62), held := none }) ∧
    Changes (.meetg h a imm) h (fun s u th => { th with meet := 2#2 ++ BitVec.ofNat 62 (rd s u .n64 a imm), held := none }) ∧
    Changes (.unmeet h) h (fun _ _ th => { th with meet := 0, held := none }) ∧
    Changes (.gadv h a imm) h (fun s u th => { th with gpc := th.gpc + (BitVec.ofNat 32 (rd s u .i32 a imm)).signExtend 64 }) ∧
    Changes (.gset h a imm) h (fun s u th => { th with gpc := BitVec.ofNat 64 (rd s u .n64 a imm) }) ∧
    Changes (.gsetLeave h a imm) h (fun s u th => { th with gpc := BitVec.ofNat 64 (rd s u .n64 a imm), inGuest := false }) ∧
    Changes (.region h) h (fun _ _ th => { th with irs := th.pos, moves := th.moves + 1 }) ∧
    Lanewise (.exit h) h true false (fun _ _ => .ok Thread.exit)

namespace Sys2Proof.Claims
open Sys2Proof.Machine

/-- The debug trap of a `dispatch` in a lane, if its context arms one: a guest step, else the lowest guest breakpoint that matches %gpc; none in
a handler, or under the one-shot suppression (04 R82, 18 R316, R317). -/
def guestTrap (s : State) (u : Nat) : Option (Nat × DWord × DWord) :=
  match getCtx s (cur s).ctx with
  | none => none
  | some c =>
    if (lane s u).th = true ∨ (lane s u).oneShot = true then none
    else if c.dctl.getLsbD 2 = true ∧
        (c.dctl.getLsbD 3 = true ∨ (c.swg.toNat % 2 ^ 32 = (cur s).wgid ∧ c.dctl.toNat / 2 ^ 8 % 2 ^ 4 = u / 32)) then some (0x13, 0, 0)
    else ((List.range 8).find? (fun n => (SMap.get 0 c.gbp n).getLsbD 63 &&
      (SMap.get 0 c.gbp n).extractLsb' 0 62 == (lane s u).gpc.extractLsb' 0 62)).map (fun n => (0x12, BitVec.ofNat 64 n, 0))

/-- The checks of `dispatch` in a lane, in order, after the debug traps: the alignment and the place of the table, its length, the
place of the entry, and the entry itself; the handler's index, or the trap (04 R82, 08 R144, R145). -/
def handlerOf (s : State) (t x : Nat) : Except (Nat × DWord × DWord) Nat :=
  let g := cur s
  let word (a : Nat) : Except (Nat × DWord × DWord) Nat :=
    if a + 4 > g.hdr.sdata then .error (0x0A, 0x104, BitVec.ofNat 64 a)
    else match spBad g a 4 with
      | some b => .error (0x15, 0, BitVec.ofNat 64 b)
      | none => .ok (spRead g a 4)
  if t % 4 ≠ 0 then .error (0x04, 0, BitVec.ofNat 64 t)
  else match word t with
    | .error c => .error c
    | .ok n =>
      if x ≥ n then .error (0x16, BitVec.ofNat 64 x, 0)
      else match word (t + 4 + 4 * x) with
        | .error c => .error c
        | .ok e => if e ≥ g.hdr.tlen then .error (0x0A, 0, BitVec.ofNat 64 e) else .ok e

end Sys2Proof.Claims

/-- 04 R82, 18 R316, R317: `dispatch` goes to the handler of the table and records the guest instruction, or takes the trap of the first
check that fails, of which a guest step and a guest breakpoint that the context arms come first. 05 R95, R96: `mcall` stands at operation 0
of its sequence. -/
def Sys2Proof.Claims.DispatchResults : Prop :=
  ∀ (h : Hdr) (a b : Opnd),
    (∀ s, Rising s.bundle.lanes →
      let f (u : Nat) : Except (Nat × DWord × DWord) Nat := match guestTrap s u with
        | some c => .error c
        | none => handlerOf s (rd s u .n32 b 0) (rd s u .n32 a 0)
      (∀ u ∈ acting h true s, ∀ c, f u = .error c → (lane s u).pend = [] → (lane s u).th = false) →
      exec (.dispatch h a b) s = .next (lanesEnd h true false s (fun u th => match f u with
        | .ok e => goesTo e { th with gop := BitVec.ofNat 32 (rd s u .n32 a 0), gpcb := th.gpc, inGuest := true }
        | .error c => caught s u c th))) ∧
    ∀ d x y z p4 p5 p6 p7 m, Lanewise (.mcall h d x y z p4 p5 p6 p7 m) h true false (fun _ _ => .ok (fun th =>
      { th.endWindows with seqS := true, seqM := m.toNat, seqQ := 0, relAt := none }))

/-- 04 R75, R78: each active lane goes to the target, or takes trap 0x0A with the target in %taddr; `call` writes the index after its own to D,
a vector register. 04 R77, R79, R81, R84, 18 R321 (the count of writes of %irs is the model's, log 58): `nop` and `yield` change nothing of
a thread, `meet`, `meetg` and `unmeet` write %meet, and the count of a hold at the old target ends (log 49), `gadv` and `gset` write %gpc,
`region` moves %irs to its own position, and every lane goes on; `exit` ends each active lane. 04 R82, 18 R316, R317: `dispatch` goes to the
handler of the table and records the guest instruction, or takes the trap of the first check that fails, of which a guest step and a guest
breakpoint that the context arms come first. 05 R95, R96: `mcall` stands at operation 0 of its sequence. -/
def Obligations.BranchAndThreadResults : Prop := BranchResults ∧ ThreadStateResults ∧ DispatchResults

namespace Sys2Proof.Claims
open Sys2Proof.Machine

/-- The thread with its trap record written and at its handler (18 R302, 04 R74). -/
def recorded (s : State) (w t cause : Nat) (info addr : DWord) (th : Thread) : Thread :=
  let gi := if cause = 0x12 ∨ cause = 0x13 ∨ cause = 0x16 then dispatchIndex s (getWg s w) t else none
  let guest : Option (DWord × Word) := match gi with
    | some x => some (th.gpc, x)
    | none => if th.inGuest then some (th.gpcb, th.gop) else none
  let traph := (getWg s w).hdr.traph
  { th with
    tcause := BitVec.ofNat 32 cause, tinfo := info, taddr := addr, tnpc := th.npc, tsq := th.pos, tarr := th.arrived
    tgv := if guest.isSome then 1 else 0, tgpcb := (guest.map Prod.fst).getD 0, tgop := (guest.map Prod.snd).getD 0
    th := true, npc := BitVec.ofNat 32 traph, seqS := false, seqQ := 0, seqM := 0, irs := BitVec.ofNat 32 (traph % 2 ^ 17), moves := th.moves + 1
    arrived := none, wait := .none, due := none, gather := none, freed := false, stopped := false, relAt := none
    oneShot := false }

end Sys2Proof.Claims

/-- 18 R302: a trap waits until no long-latency instruction of the lane is outstanding, and is then entered: the record is written, TH
set, and the lane goes to TRAPH with its sequence left and %irs there; registers, predicates, %fflags, %gpc and %meet do not change, and
nothing else of the machine does. The count of writes of %irs is the model's (log 58). -/
def Sys2Proof.Claims.TrapEntryRecord : Prop :=
  ∀ (s : State) (w t cause : Nat) (info addr : DWord),
    ((thOf s w t).pend = [] → (thOf s w t).th = false →
      raiseTrap s w t cause info addr = modTh s w t (recorded s w t cause info addr)) ∧
    ((thOf s w t).pend ≠ [] →
      raiseTrap s w t cause info addr = modTh s w t (fun th => { th with due := some (cause, info, addr) })) ∧
    ((getWg s w).status = .resident → (thOf s w t).live = true → (thOf s w t).pend = [] → (thOf s w t).th = false →
      (∀ i l, (thOf s w t).wait ≠ .zero i l) → (thOf s w t).due = some (cause, info, addr) →
      exec (.trapEntry w t) s = .next (modTh s w t (recorded s w t cause info addr)))

/-- 18 R304: a trap in a handler, of any cause, ends the lane as `exit` does, and posts a double-trap record with the new cause, the position,
%coreid, %wgid, %gid and %laneid; nothing else changes. So does a `trap` of one lane, and a trap that was found earlier. The record stands
with those that the firmware has still to report (log 107). -/
def Sys2Proof.Claims.DoubleTrapEndsLane : Prop :=
  ∀ (s : State) (w t cause : Nat) (info addr : DWord), (thOf s w t).pend = [] → (thOf s w t).th = true →
    let g := getWg s w
    let doubled (cause : Nat) : State := modPart (modTh s w t Thread.exit) g.part (fun x =>
      { x with doubles := x.doubles ++ [.doubleTrap cause (getTh g t).pos g.core g.wgid (t / 32) (t % 32)] })
    raiseTrap s w t cause info addr = doubled cause ∧
    (g.status = .resident → (thOf s w t).live = true → (∀ i l, (thOf s w t).wait ≠ .zero i l) →
      (thOf s w t).due = some (cause, info, addr) →
      exec (.trapEntry w t) s = .next (doubled cause)) ∧
    ∀ (h : Hdr) (a : Opnd) (imm : Word), s.bundle.wg = w → Sole h true s t → exec (.trap h a imm) s = .next (doubled 0x14)

/-- 18 R302: a trap waits until no long-latency instruction of the lane is outstanding, and is then entered: the record is written, TH set, and
the lane goes to TRAPH with its sequence left and %irs there; registers, predicates, %fflags, %gpc and %meet do not change, and nothing else
of the machine does. The count of writes of %irs is the model's (log 58). 18 R304: a trap in a handler, of any cause, ends the lane as
`exit` does, and posts a double-trap record with the new cause, the position, %coreid, %wgid, %gid and %laneid; nothing else changes. So
does a `trap` of one lane, and a trap that was found earlier. The record stands with those that the firmware has still to report (log 107). -/
def Obligations.TrapEntryResults : Prop := TrapEntryRecord ∧ DoubleTrapEndsLane

/-- 18 R319, R322 to R324: `trap` takes 0x14; `brk` takes 0x11 when BRKEN is 1, TH is 0 and no one-shot suppression holds, and otherwise
does nothing; `ppoint` stops a lane while %preq is set; `sleep` waits its cycles, and `sleep #0` until the next rebundling. -/
def Sys2Proof.Claims.TrapInstructionResults : Prop :=
  ∀ (h : Hdr) (a : Opnd) (imm : Word) (n : BitVec 4),
    Lanewise (.trap h a imm) h true false (fun s u => .error (0x14, BitVec.ofNat 64 (rd s u .n32 a imm), 0)) ∧
    Lanewise (.brk h n) h true false (fun s u =>
      let on : Bool := match getCtx s (cur s).ctx with | some c => c.dctl.getLsbD 0 | none => false
      if on ∧ (lane s u).th = false ∧ (lane s u).oneShot = false then .error (0x11, 0x100 + n.setWidth 64, 0)
      else .ok (leave false s)) ∧
    Changes (.ppoint h) h (fun s _ th => if (getCore s (cur s).core).preq then { th with stopped := true } else th) ∧
    Lanewise (.sleep h a imm) h true false (fun s u => .ok (fun th =>
      { th.endWindows with wait := if rd s u .n32 a imm = 0 then .rebundle else .sleep (rd s u .n32 a imm) }))

namespace Sys2Proof.Claims
open Sys2Proof.Machine

/-- The position after a position of a thread's workgroup: the next operation of the sequence, or the next instruction (18 R320). -/
def after (s : State) (th : Thread) : Thread :=
  if th.seqS then
    if th.seqQ + 1 < seqLen s (cur s) th.seqM then { th with seqQ := th.seqQ + 1 }
    else { th with seqS := false, seqQ := 0, seqM := 0, npc := th.npc + 1, pend := th.pend.map (fun p => { p with left := 0 }) }
  else { th with npc := th.npc + 1 }

/-- The thread at the position its trap record names (18 R320, 05 R93). -/
def atRecord (th : Thread) : Thread :=
  { th with npc := (th.tsq.extractLsb' 0 17).setWidth 32
            seqS := th.tsq.getLsbD 29, seqQ := (th.tsq.extractLsb' 23 6).toNat, seqM := (th.tsq.extractLsb' 17 6).toNat }

/-- A lane outside a handler takes trap 0x02; one in a handler leaves it by `F`, with TH clear and %irs at its position (18 R320), which a
region-closing instruction of the handler that is still outstanding does not move again (R305, log 126). -/
def leavesHandler (s : State) (u : Nat) (F : Thread → Thread) : Except (Nat × DWord × DWord) (Thread → Thread) :=
  if (lane s u).th then .ok (fun th =>
    let x := F { th.endWindows with pend := th.endWindows.pend.map (fun p => { p with closeTo := none }) }
    { x with th := false, irs := x.pos, moves := th.moves + 1, tarr := none, wait := .none })
  else .error (0x02, 1, 0)

end Sys2Proof.Claims

/-- 18 R320: `rti.re` resumes at the trapped position, with the one-shot suppression, `rti.next` at the position after it, and `rti.drop`
in the handler's text; outside a handler each takes trap 0x02 with information 1. That an arrival is resumed with `rti.re` only is the
model's reading of 18 R301 (log 50). -/
def Sys2Proof.Claims.HandlerReturnResults : Prop :=
  ∀ (h : Hdr),
    Lanewise (.rtiRe h) h true false (fun s u =>
      leavesHandler s u (fun th => { atRecord th with oneShot := true, arrived := th.tarr })) ∧
    Lanewise (.rtiNext h) h true false (fun s u => leavesHandler s u (fun th => after s (atRecord th))) ∧
    Lanewise (.rtiDrop h) h true false (fun s u =>
      leavesHandler s u (fun th => { th with npc := th.npc + 1, seqS := false, arrived := none }))

/-- 18 R319, R322 to R324: `trap` takes 0x14; `brk` takes 0x11 when BRKEN is 1, TH is 0 and no one-shot suppression holds, and otherwise does
nothing; `ppoint` stops a lane while %preq is set; `sleep` waits its cycles, and `sleep #0` until the next rebundling. 18 R320: `rti.re`
resumes at the trapped position, with the one-shot suppression, `rti.next` at the position after it, and `rti.drop` in the handler's text;
outside a handler each takes trap 0x02 with information 1. That an arrival is resumed with `rti.re` only is the model's reading of 18 R301
(log 50). -/
def Obligations.TrapInstructionAndReturnResults : Prop := TrapInstructionResults ∧ HandlerReturnResults

namespace Sys2Proof.Claims
open Sys2Proof.Machine

/-- The address of `lds` and `sts`: base, scaled index and offset (08 R148). -/
def spAt (s : State) (u : Nat) (a b : Opnd) (mod : BitVec 3) (imm : Word) : Nat :=
  (BitVec.ofNat 32 (rd s u .n32 a 0) + (BitVec.ofNat 32 (rd s u .i32 b 0) <<< mod.toNat) + imm).toNat

/-- Whether a scratchpad access passes its checks: aligned, in the workgroup's region, and in no buffer that another core holds
(08 R148). -/
def spFits (s : State) (x n : Nat) : Prop := x % n = 0 ∧ x + n ≤ (cur s).hdr.sdata ∧ heldElsewhere s (cur s) x n = none

/-- A long-latency read of n bytes of a workgroup's data region (08 R148, 02 R27). -/
def spResult (h : Hdr) (g : Wg) (x : Nat) (ty : Ty) (d : Opnd) (n : Nat) : Pend :=
  { Pend.start h n .known (regWrites d (extTy ty (leOf (fun k => SMap.get 0 g.data (x + k)) (ty.width / 8)))) 0 with
    bad := (spBad g x (ty.width / 8)).map (BitVec.ofNat 64) }

/-- The address of `gld` (04 R83). -/
def guestAt (s : State) (u : Nat) (a : Opnd) (imm : Word) : Nat :=
  ((lane s u).gbase + (lane s u).gpc.setWidth 32 + BitVec.ofNat 32 (rd s u .i32 a imm)).toNat

/-- The offset of `ldh` and `sth` (08 R154). -/
def bufAt (s : State) (u : Nat) (b : Opnd) (mod : BitVec 3) (imm : Word) : Nat :=
  ((BitVec.ofNat 32 (rd s u .i32 b 0) <<< mod.toNat) + imm).toNat

/-- The ownership entry a handle names. -/
def ownOf (s : State) (hd : DWord) : Own := getOwn s (clusterOf (cur s).core) (hd.toNat / 2 ^ 58)

/-- An ownership entry has the generation, position and range of a handle (08 R150, R151). -/
def Matches (o : Own) (hd : DWord) : Prop :=
  o.gen = hd.toNat / 2 ^ 46 % 2 ^ 12 ∧ o.spos = hd.toNat / 2 ^ 44 % 4 ∧ o.base = hd.toNat / 2 ^ 29 % 2 ^ 15 ∧
    o.lenm = hd.toNat / 2 ^ 14 % 2 ^ 15

/-- A handle is current: its index names a live entry of the issuing cluster that matches it (08 R151). -/
def Current (s : State) (hd : DWord) : Prop :=
  hd.toNat % 2 ^ 14 = 0 ∧ (ownOf s hd).live = true ∧ (ownOf s hd).owner = ownerOf (cur s) ∧ Matches (ownOf s hd) hd

/-- An access through a handle goes to data address x of workgroup m (08 R154). -/
def BufferAt (s : State) (hd : DWord) (ofs n m x : Nat) : Prop :=
  Current s hd ∧ (ownOf s hd).holder = (cur s).clid ∧ ofs % n = 0 ∧ ofs + n ≤ ((ownOf s hd).lenm + 1) * 256 ∧
    memberAt s (cur s) (ownOf s hd).spos = some m ∧ x = (ownOf s hd).base * 256 + ofs

/-- A 64-bit operand. -/
def rd64 (s : State) (u : Nat) (o : Opnd) : DWord := BitVec.ofNat 64 (rd s u .n64 o 0)

/-- The instruction meets a trap in its one active lane: it is taken, and nothing else happens (18 R301, R302). -/
def Raises (i : Instr) (h : Hdr) (helpers : Bool) (f : State → Nat → Option (Nat × DWord × DWord)) : Prop :=
  ∀ s u c, Sole h helpers s u → ((lane s u).pend = [] → (lane s u).th = false) → f s u = some c →
    exec i s = .next (mapLanes s (fun v th => if v = u then caught s u c th else th))

/-- The byte at a data address after stores of n bytes, at `x`, of the values `v` by some threads, ascending: the highest thread's
(08 R148). -/
def storedAt (old : List Host.Cell) (us : List Nat) (n : Nat) (x v : Nat → Nat) (a : Nat) : Byte :=
  match us.reverse.find? (fun u => decide (x u ≤ a ∧ a < x u + n)) with
  | some u => BitVec.ofNat 8 (v u / 2 ^ (8 * (a - x u)))
  | none => SMap.get 0 old a

/-- The uncorrectable words of a region that no store has rewritten whole (08 R145). -/
def leftBad (old : List Nat) (us : List Nat) (n : Nat) (x : Nat → Nat) : List Nat :=
  old.filter (fun w => us.all (fun u => !(decide (x u ≤ 8 * w) && decide (8 * w + 8 ≤ x u + n))))

end Sys2Proof.Claims

/-- 08 R148, R154, 04 R83, 17 R297: the reads of scratchpad and of the launch entry, where every active lane's access passes its checks:
`lds` at its address, `ldh` in the buffer of a handle that the issuing core holds, `gld` at the guest position, and `ldqe` of the entry.
The result is awaited in D, and every lane goes on. That the bytes are read as the instruction issues is the model's choice (log 18), and so
are the numbers of the results (log 6), that the lanes of a group that are guarded off await a uniform destination too (log 46), and that the buffer of a
saved member can be read (`memberAt`, log 19). -/
def Sys2Proof.Claims.ScratchpadReadResults : Prop :=
  ∀ (h : Hdr) (ty : Ty) (mod : BitVec 3) (d a b : Opnd) (imm : Word) (s : State), Rising s.bundle.lanes →
    let n := ty.width / 8
    let users := (acting h true s).map (source h true s d)
    ((∀ u ∈ users, spFits s (spAt s u a b mod imm) n) →
      exec (.lds h ty mod d a b imm) s = .next (leaveAll false (awaitAll h d (fun u k =>
        spResult h (cur s) (spAt s u a b mod imm) ty d k) s))) ∧
    (∀ m x : Nat → Nat, (∀ u ∈ users, BufferAt s (rd64 s u a) (bufAt s u b mod imm) n (m u) (x u)) →
      exec (.ldh h ty mod d a b imm) s = .next (leaveAll false (awaitAll h d (fun u k =>
        spResult h (getWg s (m u)) (x u) ty d k) s))) ∧
    ((∀ u ∈ users, guestAt s u a imm + n ≤ (cur s).hdr.sdata) →
      exec (.gld h ty d a imm) s = .next (leaveAll false (awaitAll h d (fun u k =>
        spResult h (cur s) (guestAt s u a imm) ty d k) s))) ∧
    ∀ e, entryOf s (cur s) = some e →
      (∀ u ∈ users, rd s u .n32 a imm % 128 % n = 0) →
      exec (.ldqe h ty d a imm) s = .next (leaveAll false (awaitAll h d (fun u k =>
        Pend.start h k .known (regWrites d (extTy ty (e.raw.extractLsb' (8 * (rd s u .n32 a imm % 128)) ty.width).toNat)) 0) s))

/-- 08 R148, R149, R154: the stores to scratchpad, where every active lane's access passes its checks. Each stored byte is the highest
lane's, every other byte of every data region reads as before, and every lane goes on; nothing
else changes. The lanes of an `sth` store here in one workgroup, which may be a saved one
(`memberAt`, log 19). That a whole word rewritten is good again is log 17, and that `spzero` here writes all its words in one step is log 15. Data regions are canonical (an invariant, stated of its own). -/
def Sys2Proof.Claims.ScratchpadStoreResults : Prop :=
  ∀ (h : Hdr) (ty : Ty) (mod : BitVec 3) (d a b : Opnd) (imm : Word) (s : State), Rising s.bundle.lanes →
    let n := ty.width / 8
    let us := acting h false s
    let v (u : Nat) : Nat := rd s u ty d 0
    (SMap.wf 0 (cur s).data = true → (∀ u ∈ us, spFits s (spAt s u a b mod imm) n) →
      ∃ D, SMap.wf 0 D = true ∧ (∀ x, SMap.get 0 D x = storedAt (cur s).data us n (fun u => spAt s u a b mod imm) v x) ∧
        exec (.sts h ty mod d a b imm) s = .next (leaveAll false (onCur s (fun g =>
          { g with data := D, badd := leftBad g.badd us n (fun u => spAt s u a b mod imm) })))) ∧
    (∀ (m : Nat) (x : Nat → Nat), SMap.wf 0 (getWg s m).data = true →
      (∀ u ∈ us, BufferAt s (rd64 s u a) (bufAt s u b mod imm) n m (x u)) →
      ∃ D, SMap.wf 0 D = true ∧ (∀ y, SMap.get 0 D y = storedAt (getWg s m).data us n x v y) ∧
        exec (.sth h ty mod d a b imm) s = .next (leaveAll false (modWg s m (fun g =>
          { g with data := D, badd := leftBad g.badd us n x })))) ∧
    ∀ k, OneGroup h false s k → SMap.wf 0 (cur s).data = true →
      let x := rd s (us.headD 0) .n32 a imm
      let l := rd s (us.headD 0) .n32 b imm
      x % 64 = 0 → l % 64 = 0 → x + l ≤ (cur s).hdr.sdata →
      ∃ D, SMap.wf 0 D = true ∧ (∀ y, SMap.get 0 D y = if x ≤ y ∧ y < x + l then 0 else SMap.get 0 (cur s).data y) ∧
        exec (.spzero h a b imm) s = .next (leaveAll false (onCur s (fun g =>
          { g with data := D, badd := leftBad g.badd [0] l (fun _ => x) })))

/-- 08 R148, R154, 04 R83, 17 R297: the reads of scratchpad and of the launch entry, where every active lane's access passes its checks: `lds`
at its address, `ldh` in the buffer of a handle that the issuing core holds, `gld` at the guest position, and `ldqe` of the entry. The
result is awaited in D, and every lane goes on. That the bytes are read as the instruction issues is the model's choice (log 18), and so are
the numbers of the results (log 6), that the lanes of a group that are guarded off await a uniform destination too (log 46), and that the
buffer of a saved member can be read (`memberAt`, log 19). 08 R148, R149, R154: the stores to scratchpad, where every active lane's access
passes its checks. Each stored byte is the highest lane's, every other byte of every data region reads as before, and every lane goes on;
nothing else changes. The lanes of an `sth` store here in one workgroup, which may be a saved one (`memberAt`, log 19). That a whole word
rewritten is good again is log 17, and that `spzero` here writes all its words in one step is log 15. Data regions are canonical (an
invariant, stated of its own). -/
def Obligations.ScratchpadResults : Prop := ScratchpadReadResults ∧ ScratchpadStoreResults

namespace Sys2Proof.Claims
open Sys2Proof.Machine

/-- A number as %taddr or %tinfo. -/
abbrev at64 (n : Nat) : DWord := BitVec.ofNat 64 n

/-- The trap of a scratchpad access, by its checks in order (08 R144, R148, R157). -/
def spTrap (s : State) (wr : Bool) (x n : Nat) : Option (Nat × DWord × DWord) :=
  if x % n ≠ 0 then some (0x04, 0, at64 x)
  else if x + n > (cur s).hdr.sdata then some (0x0A, at64 ((if wr then 2 else 1) * 256 + n), at64 x)
  else (heldElsewhere s (cur s) x n).map (fun i => (0x0B, at64 (i * 256 + 5), at64 x))

/-- The trap of a handle, by its checks in order: reasons 3, 2 and 1 of trap 0x0B (08 R154). -/
def Refused (s : State) (hd : DWord) (c : Nat × DWord × DWord) : Prop :=
  let o := ownOf s hd
  let i := hd.toNat / 2 ^ 58
  ((hd.toNat % 2 ^ 14 ≠ 0 ∨ (o.live = true ∧ o.owner ≠ ownerOf (cur s))) ∧ c = (0x0B, 3, hd)) ∨
  (hd.toNat % 2 ^ 14 = 0 ∧ (o.live = true → o.owner = ownerOf (cur s)) ∧ ¬ (o.live = true ∧ Matches o hd) ∧
    c = (0x0B, at64 (i * 256 + 2), hd))

/-- The trap of an access through a handle (08 R154). -/
def BufRefused (s : State) (wr : Bool) (hd : DWord) (ofs n : Nat) (c : Nat × DWord × DWord) : Prop :=
  Refused s hd c ∨
  (Current s hd ∧ (ownOf s hd).holder ≠ (cur s).clid ∧ c = (0x0B, at64 (hd.toNat / 2 ^ 58 * 256 + 1), hd)) ∨
  (Current s hd ∧ (ownOf s hd).holder = (cur s).clid ∧
    ((ofs % n ≠ 0 ∧ c = (0x04, 0, at64 ofs)) ∨
     (ofs % n = 0 ∧ ofs + n > ((ownOf s hd).lenm + 1) * 256 ∧ c = (0x0A, at64 ((if wr then 4 else 3) * 256 + n), at64 ofs))))

/-- An instruction that acts once for a group meets a trap, by the operands of its lowest active lane: every lane of the group in the bundle
takes it, and nothing else happens (06 R100). -/
def GroupRaisesIf (i : Instr) (h : Hdr) (helpers : Bool) (R : State → Nat → Nat × DWord × DWord → Prop) : Prop :=
  ∀ s k c, Rising s.bundle.lanes → OneGroup h helpers s k → (∀ v ∈ s.bundle.lanes, (lane s v).pend = [] → (lane s v).th = false) →
    R s ((acting h helpers s).headD 0) c →
    exec i s = .next (mapLanes s (fun v th => if v ∈ s.bundle.lanes then caught s v c th else th))

/-- As `Raises`, by a relation. -/
def RaisesIf (i : Instr) (h : Hdr) (helpers : Bool) (R : State → Nat → Nat × DWord × DWord → Prop) : Prop :=
  ∀ s u c, Sole h helpers s u → ((lane s u).pend = [] → (lane s u).th = false) → R s u c →
    exec i s = .next (mapLanes s (fun v th => if v = u then caught s u c th else th))

end Sys2Proof.Claims

/-- 08 R144, R148, R149, R154, R157, 04 R83, 17 R297: the traps of the scratchpad instructions, the first check that fails, in a bundle of
one lane; of `spzero`, which acts once for a group, in every lane of the group in the bundle. -/
def Sys2Proof.Claims.ScratchpadTraps : Prop :=
  ∀ (h : Hdr) (ty : Ty) (mod : BitVec 3) (d a b : Opnd) (imm : Word),
    let n := ty.width / 8
    Raises (.lds h ty mod d a b imm) h true (fun s u => spTrap s false (spAt s u a b mod imm) n) ∧
    Raises (.sts h ty mod d a b imm) h false (fun s u => spTrap s true (spAt s u a b mod imm) n) ∧
    RaisesIf (.ldh h ty mod d a b imm) h true (fun s u => BufRefused s false (rd64 s u a) (bufAt s u b mod imm) n) ∧
    RaisesIf (.sth h ty mod d a b imm) h false (fun s u => BufRefused s true (rd64 s u a) (bufAt s u b mod imm) n) ∧
    Raises (.gld h ty d a imm) h true (fun s u =>
      let x := guestAt s u a imm
      if x + n > (cur s).hdr.sdata then some (0x0A, at64 (0x100 + n), at64 x) else none) ∧
    Raises (.ldqe h ty d a imm) h true (fun s u =>
      let o := rd s u .n32 a imm % 128
      if o % n ≠ 0 then some (0x04, 0, at64 o) else none) ∧
    GroupRaisesIf (.spzero h a b imm) h false (fun s u c =>
      let x := rd s u .n32 a imm
      let l := rd s u .n32 b imm
      ((x % 64 ≠ 0 ∨ l % 64 ≠ 0) ∧ c = (0x04, 0, at64 x)) ∨
      (x % 64 = 0 ∧ l % 64 = 0 ∧ x + l > (cur s).hdr.sdata ∧ c = (0x0A, 0x200, at64 x)))

namespace Sys2Proof.Claims
open Sys2Proof.Machine

/-- The way at a slot of the workgroup's tag table (08 R159). -/
abbrev way (s : State) (i : Nat) : TagWay := getTag (cur s) i

/-- The one slot of its set that holds a key. -/
def KeyAt (s : State) (key i : Nat) : Prop :=
  i / 4 = key % (cur s).hdr.tsets ∧ (way s i).v = true ∧ (way s i).key = key ∧
    ∀ j, j / 4 = i / 4 → (way s j).v = true → (way s j).key = key → j = i

/-- No way of its set holds a key. -/
def KeyAbsent (s : State) (key : Nat) : Prop :=
  ∀ j, j / 4 = key % (cur s).hdr.tsets → ¬ ((way s j).v = true ∧ (way s j).key = key)

/-- The way that gives place: the lowest invalid one, else the oldest that is not pinned (08 R162). -/
def GivesPlace (s : State) (set i : Nat) : Prop :=
  i / 4 = set ∧
  (((way s i).v = false ∧ ∀ j, j / 4 = set → j < i → (way s j).v = true) ∨
   ((∀ j, j / 4 = set → (way s j).v = true) ∧ (way s i).p = false ∧
     ∀ j, j / 4 = set → (way s j).p = false → j ≠ i → (way s j).age < (way s i).age))

/-- A table `T` in which slot i holds `x` as the most recent way of its set: the valid ways younger than `age` become older by one, and
no other way changes (08 R159). -/
def Newest (s : State) (T : List (Nat × TagWay)) (i age : Nat) (x : TagWay) : Prop :=
  ∀ j, SMap.get TagWay.empty T j = if j = i then { x with age := 0 }
    else if j / 4 = i / 4 ∧ (way s j).v = true ∧ (way s j).age < age then { way s j with age := (way s j).age + 1 }
    else way s j

/-- A tag-table instruction completes with a result in D and a table `T` as `P` says; nothing else changes (08 R160). -/
def TagsTo (i : Instr) (h : Hdr) (closes : Bool) (d : Opnd) (s : State) (r : Res) (P : List (Nat × TagWay) → Prop) : Prop :=
  ∃ T, P T ∧ exec i s = .next (leaveAll closes (gotAll h d (fun _ => r) (onCur s (fun g => { g with tags := T }))))

/-- A tag-table instruction acts once in the bundle, by the operands of lane u: it is the bundle's one lane, or the lowest active lane of a group whose
destination is uniform (08 R160, 06 R100). -/
def TagOnce (h : Hdr) (d : Opnd) (s : State) (u : Nat) : Prop :=
  Sole h true s u ∨ (isUni d = true ∧ Rising s.bundle.lanes ∧ ∃ k, OneGroup h true s k ∧ u = (acting h true s).headD 0)

/-- A state in which a tag-table instruction meets no trap of R160 for a key, nor one of 01 R20. -/
def TagKey (h : Hdr) (d : Opnd) (s : State) (u key : Nat) : Prop :=
  TagOnce h d s u ∧ SMap.wf TagWay.empty (cur s).tags = true ∧ 0 < (cur s).hdr.tsets ∧ key < 2 ^ 48 ∧
    (cur s).badTags.contains (key % (cur s).hdr.tsets) = false

/-- A state in which a tag-table instruction meets no trap of R160 for a slot, nor one of 01 R20. -/
def TagSlot (h : Hdr) (d : Opnd) (s : State) (u i : Nat) : Prop :=
  TagOnce h d s u ∧ SMap.wf TagWay.empty (cur s).tags = true ∧ i < 4 * (cur s).hdr.tsets ∧
    (cur s).badTags.contains (i / 4) = false

/-- A flag at a place of a result. -/
def flagAt (b : Bool) (k : Nat) : Nat := if b then 2 ^ k else 0

end Sys2Proof.Claims

/-- 08 R159 to R162: in a bundle of one lane, or once for a group with a uniform destination, `tlook` finds a key and makes its way the most recent, or answers MISS with the set's first slot; `tins` does the
same for a key that is there, else it takes the place of the way that gives place, whose key and marks it answers, or answers that
every way is pinned. `tlook` answers one register, `tins` a pair. -/
def Sys2Proof.Claims.TagLookupResults : Prop :=
  ∀ (h : Hdr) (d a : Opnd) (imm : Word) (s : State) (u i : Nat),
    let key := rd s u .n64 a imm
    let set := key % (cur s).hdr.tsets
    TagKey h d s u key →
    (KeyAt s key i → TagsTo (.tlook h d a imm) h false d s
      (val .b32 (flagAt (way s i).d 30 + flagAt (way s i).p 29 + i)) (fun T => Newest s T i (way s i).age (way s i))) ∧
    (KeyAbsent s key → TagsTo (.tlook h d a imm) h false d s (val .b32 (2 ^ 31 + 4 * set)) (fun T => T = (cur s).tags)) ∧
    (KeyAt s key i → TagsTo (.tins h d a imm) h true d s (val .b64 (2 ^ 61 + i % 4 * 2 ^ 48))
      (fun T => Newest s T i (way s i).age (way s i))) ∧
    (KeyAbsent s key → (∀ j, j / 4 = set → (way s j).v = true ∧ (way s j).p = true) →
      TagsTo (.tins h d a imm) h true d s (val .b64 (2 ^ 60)) (fun T => T = (cur s).tags)) ∧
    (KeyAbsent s key → GivesPlace s set i →
      TagsTo (.tins h d a imm) h true d s
        (val .b64 (if (way s i).v then 2 ^ 63 + flagAt (way s i).d 62 + i % 4 * 2 ^ 48 + (way s i).key else i % 4 * 2 ^ 48))
        (fun T => Newest s T i (if (way s i).v then (way s i).age else 4) { v := true, key := key, d := false, p := false, age := 0 }))

namespace Sys2Proof.Claims
open Sys2Proof.Machine

/-- The state with some lanes of the bundle only. -/
def ofLanes (s : State) (ls : List Nat) : State := { s with bundle := { s.bundle with lanes := ls } }

/-- In a bundle of several lanes the instruction acts in the first lane, and then in the others, which find what it left (08 R160). -/
def LaneByLane (i : Instr) : Prop :=
  ∀ s u v vs, s.bundle.lanes = u :: v :: vs → Rising s.bundle.lanes →
    ∃ t r, exec i (ofLanes s [u]) = .next t ∧ exec i (ofLanes t (v :: vs)) = .next r ∧ exec i s = .next (ofLanes r s.bundle.lanes)

end Sys2Proof.Claims

/-- 08 R159, R160, R162, R163: in a bundle of one lane, or once for a group with a uniform destination, `tinv` empties a slot, makes the older ways of its set younger by one, and answers what was there; `tmark` sets the
marks whose mask bits are set, of a valid slot. In a bundle of several lanes the four instructions act in one lane after another, in ascending order. -/
def Sys2Proof.Claims.TagChangeResults : Prop :=
  ∀ (h : Hdr) (d a b : Opnd) (imm : Word) (s : State) (u : Nat),
    let i := rd s u .n32 a imm
    let k := rd s u .n32 b imm
    TagSlot h d s u i →
    ((way s i).v = true → TagsTo (.tinv h d a imm) h true d s
      (val .b64 (2 ^ 63 + flagAt (way s i).d 62 + flagAt (way s i).p 59 + i % 4 * 2 ^ 48 + (way s i).key))
      (fun T => ∀ j, SMap.get TagWay.empty T j = if j = i then TagWay.empty
        else if j / 4 = i / 4 ∧ (way s j).v = true ∧ (way s i).age < (way s j).age then { way s j with age := (way s j).age - 1 }
        else way s j)) ∧
    ((way s i).v = false → TagsTo (.tinv h d a imm) h true d s (val .b64 (i % 4 * 2 ^ 48)) (fun T => T = (cur s).tags)) ∧
    (Sole h true s u → (way s i).v = true → TagsTo (.tmark h a b imm) h false (.p 7) s (val .b32 0) (fun T =>
      ∀ j, SMap.get TagWay.empty T j = if j = i then
          { way s i with d := if k.testBit 8 then k.testBit 0 else (way s i).d, p := if k.testBit 9 then k.testBit 1 else (way s i).p }
        else way s j)) ∧
    (isUni d = false → LaneByLane (.tlook h d a imm) ∧ LaneByLane (.tins h d a imm) ∧ LaneByLane (.tinv h d a imm)) ∧
    LaneByLane (.tmark h a b imm)

/-- 08 R159 to R162: in a bundle of one lane, or once for a group with a uniform destination, `tlook` finds a key and makes its way the most
recent, or answers MISS with the set's first slot; `tins` does the same for a key that is there, else it takes the place of the way that
gives place, whose key and marks it answers, or answers that every way is pinned. `tlook` answers one register, `tins` a pair. 08 R159,
R160, R162, R163: in a bundle of one lane, or once for a group with a uniform destination, `tinv` empties a slot, makes the older ways of
its set younger by one, and answers what was there; `tmark` sets the marks whose mask bits are set, of a valid slot. In a bundle of several
lanes the four instructions act in one lane after another, in ascending order. -/
def Obligations.TagTableResults : Prop := TagLookupResults ∧ TagChangeResults

/-- 08 R160: the traps of the tag table, in a bundle of one lane: no table, a key of more than 48 bits, a slot beyond the table, and an invalid
slot marked. 01 R20: a set with an uncorrectable error; its %taddr is the model's (log 30). -/
def Sys2Proof.Claims.TagTraps : Prop :=
  ∀ (h : Hdr) (d a b : Opnd) (imm : Word),
    let keyTrap (s : State) (u : Nat) : Option (Nat × DWord × DWord) :=
      let key := rd s u .n64 a imm
      if (cur s).hdr.tsets = 0 then some (0x17, 1, at64 key) else if key ≥ 2 ^ 48 then some (0x17, 2, at64 key)
      else if (cur s).badTags.contains (key % (cur s).hdr.tsets) then some (0x15, 0, at64 key) else none
    let slotTrap (s : State) (u : Nat) : Option (Nat × DWord × DWord) :=
      let i := rd s u .n32 a imm
      if (cur s).hdr.tsets = 0 then some (0x17, 1, at64 i) else if i ≥ 4 * (cur s).hdr.tsets then some (0x17, 3, at64 i)
      else if (cur s).badTags.contains (i / 4) then some (0x15, 0, at64 i) else none
    Raises (.tlook h d a imm) h true keyTrap ∧ Raises (.tins h d a imm) h true keyTrap ∧ Raises (.tinv h d a imm) h true slotTrap ∧
    Raises (.tmark h a b imm) h true (fun s u =>
      let i := rd s u .n32 a imm
      match slotTrap s u with
      | some c => some c
      | none => if (way s i).v then none else some (0x17, 4, at64 i))

namespace Sys2Proof.Claims
open Sys2Proof.Machine

/-- Nothing is left that a release of some threads at a scope waits for: no load and no request of theirs is outstanding, and, from
cluster scope on, the core's buffers hold nothing (10 R177, 11 R188, R196). -/
def NothingOut (s : State) (us : List Nat) (scope : Nat) : Prop :=
  (∀ u ∈ us, (∀ p ∈ (lane s u).pend, p.range = none) ∧ ∀ r ∈ s.reqs, r.wg = s.bundle.wg → u ∉ r.who) ∧
    (2 ≤ scope → (getCore s (cur s).core).lines = [] ∧ getCombs s (clusterOf (cur s).core) = [])

/-- An ownership entry with its holder changed; the `htake`s that wait for it in the cluster's workgroup at the new holder's position are
issued again (08 R156). -/
def given (s : State) (cl i : Nat) (o : Own) (pos : Nat) : State :=
  { setOwn s cl i { o with holder := pos } with
    wgs := s.wgs.map (fun g => if g.status = .resident ∧ ownerOf g = o.owner ∧ g.clid = pos then
      { g with threads := g.threads.map (fun th => if th.wait = .take i o.gen then { th with wait := .none } else th) } else g) }

/-- A thread takes trap 0x0B of reason 2 with a handle, once nothing of it is outstanding (08 R152, 18 R302). -/
def staleTrap (g : Wg) (i : Nat) (hd : DWord) (th : Thread) : Thread :=
  if th.pend = [] then th.trapTo 0x0B (BitVec.ofNat 64 (i * 256 + 2)) hd none g.hdr.traph
  else { th with due := some (0x0B, BitVec.ofNat 64 (i * 256 + 2), hd) }

/-- An ownership entry retired: it is free, with the next generation, and every `htake` of the cluster that waits for it takes a trap (08 R151,
R152, R156). -/
def retired (s : State) (cl i : Nat) (o : Own) (hd : DWord) : State :=
  { setOwn s cl i { Own.free with gen := if o.gen = 4095 then 1 else o.gen + 1 } with
    wgs := s.wgs.map (fun g => if g.status = .resident ∧ ownerOf g = o.owner then
      { g with threads := g.threads.map (fun th => if th.wait = .take i o.gen then staleTrap g i hd th else th) } else g) }

/-- The live threads of a group of the workgroup. -/
def liveIn (s : State) (k : Nat) : List Nat := (List.range 32).map (fun j => 32 * k + j) |>.filter (fun u => (lane s u).live)

end Sys2Proof.Claims

/-- 08 R151, R152, R156, R158: the buffer instructions of a group, where the handle passes its checks and nothing is left to release.
`hgive.new` makes the lowest free index a live entry held by the issuing position and answers its handle, or zero when none is free;
`hgive` makes another position the holder, whose waiting `htake`s are issued again; `hgive.retire` frees the entry for the next generation, and
the `htake`s that wait for it, with no result that came before its window's end, trap; `htake` of a held buffer goes on, and of another every lane
of the bundle waits, also one that is guarded off, which is the model's choice (log 114). `hqry` answers the state of a handle in each
active lane or once for the group. -/
def Obligations.HandleResults : Prop :=
  ∀ (h : Hdr) (d a b : Opnd) (imm : Word) (s : State) (k : Nat), Rising s.bundle.lanes → OneGroup h true s k →
    let u := (acting h true s).headD 0
    let hd := rd64 s u a
    let cl := clusterOf (cur s).core
    let i := hd.toNat / 2 ^ 58
    (let x := rd s u .n32 a imm
      let n := rd s u .n32 b imm
      isUni d = true → x % 256 = 0 → n % 256 = 0 → 0 < n → x + n ≤ (cur s).hdr.sdata →
      (∀ j < 64, (getOwn s cl j).overlaps (cur s) x n = false) →
      (∀ j < 64, (∀ j' < j, (getOwn s cl j').live = true) → (getOwn s cl j).live = false →
        let o : Own := { live := true, gen := (getOwn s cl j).gen, owner := ownerOf (cur s), spos := (cur s).clid, base := x / 256
                         lenm := n / 256 - 1, holder := (cur s).clid }
        exec (.hgiveNew h d a b imm) s = .next (leaveAll true (gotAll h d (fun _ => val .b64
          (j * 2 ^ 58 + o.gen * 2 ^ 46 + o.spos * 2 ^ 44 + o.base * 2 ^ 29 + o.lenm * 2 ^ 14)) (setOwn s cl j o)))) ∧
      ((∀ j < 64, (getOwn s cl j).live = true) →
        exec (.hgiveNew h d a b imm) s = .next (leaveAll true (gotAll h d (fun _ => val .b64 0) s)))) ∧
    (Current s hd → (ownOf s hd).holder = (cur s).clid → NothingOut s (liveIn s k) 2 →
      (rd s u .n32 b imm ≤ 3 → (memberAt s (cur s) (rd s u .n32 b imm)).isSome = true →
        exec (.hgive h a b imm) s = .next (leaveAll true (given s cl i (ownOf s hd) (rd s u .n32 b imm)))) ∧
      ((ownOf s hd).spos = (cur s).clid →
        (∀ g ∈ s.wgs, ∀ th ∈ g.threads, th.wait = .take i (ownOf s hd).gen → th.early = [] ∧ (th.pend = [] → th.th = false)) →
        exec (.hgiveRetire h a) s = .next (leaveAll true (retired s cl i (ownOf s hd) hd)))) ∧
    (Current s hd → (ownOf s hd).holder = (cur s).clid → exec (.htake h a) s = .next (leaveAll true s)) ∧
    (Current s hd → (ownOf s hd).holder ≠ (cur s).clid →
      exec (.htake h a) s = .next (mapLanes s (fun v th =>
        if v ∈ s.bundle.lanes then { th with wait := .take i (hd.toNat / 2 ^ 46 % 2 ^ 12) } else th))) ∧
    ((∀ v ∈ acting h true s, (rd64 s (source h true s d v) a).toNat % 2 ^ 14 = 0) →
      exec (.hqry h d a) s = .next (leaveAll false (gotAll h d (fun v =>
        let hd := rd64 s v a
        let o := ownOf s hd
        val .b32 (if o.live = true ∧ o.owner ≠ ownerOf (cur s) then 0
          else if o.live = true ∧ o.gen = hd.toNat / 2 ^ 46 % 2 ^ 12 ∧ o.spos = hd.toNat / 2 ^ 44 % 4 ∧
            o.base = hd.toNat / 2 ^ 29 % 2 ^ 15 ∧ o.lenm = hd.toNat / 2 ^ 14 % 2 ^ 15 then
            2 ^ 31 + (if o.holder = (cur s).clid then 2 ^ 30 else 0) + o.holder * 2 ^ 12 + o.gen
          else o.gen)) s)))

/-- 08 R156, R157: the traps of the buffer instructions, the first check that fails, in every lane of the group in the bundle; of `hqry`, in a
bundle of one lane. Which handle an overlap of `hgive.new` names, and the %taddr of its trap 0x04, are the model's choice (log 16). -/
def Sys2Proof.Claims.HandleTraps : Prop :=
  ∀ (h : Hdr) (d a b : Opnd) (imm : Word),
    GroupRaisesIf (.hgive h a b imm) h true (fun s u c =>
      let hd := rd64 s u a
      let p := rd s u .n32 b imm
      Refused s hd c ∨
      (Current s hd ∧ (ownOf s hd).holder ≠ (cur s).clid ∧ c = (0x0B, at64 (hd.toNat / 2 ^ 58 * 256 + 1), hd)) ∨
      (Current s hd ∧ (ownOf s hd).holder = (cur s).clid ∧ (p > 3 ∨ memberAt s (cur s) p = none) ∧
        c = (0x0B, at64 (hd.toNat / 2 ^ 58 * 256 + 4), hd))) ∧
    GroupRaisesIf (.hgiveRetire h a) h true (fun s u c =>
      let hd := rd64 s u a
      Refused s hd c ∨
      (Current s hd ∧ ((ownOf s hd).spos ≠ (cur s).clid ∨ (ownOf s hd).holder ≠ (cur s).clid) ∧
        c = (0x0B, at64 (hd.toNat / 2 ^ 58 * 256 + 6), hd))) ∧
    GroupRaisesIf (.htake h a) h true (fun s u => Refused s (rd64 s u a)) ∧
    RaisesIf (.hqry h d a) h true (fun s u c => (rd64 s u a).toNat % 2 ^ 14 ≠ 0 ∧ c = (0x0B, 3, rd64 s u a)) ∧
    GroupRaisesIf (.hgiveNew h d a b imm) h true (fun s u c =>
      let x := rd s u .n32 a imm
      let n := rd s u .n32 b imm
      ((x % 256 ≠ 0 ∨ n % 256 ≠ 0 ∨ n = 0) ∧ c = (0x04, 0, at64 x)) ∨
      (x % 256 = 0 ∧ n % 256 = 0 ∧ 0 < n ∧ x + n > (cur s).hdr.sdata ∧ c = (0x0A, 0x200, at64 x)) ∨
      (x % 256 = 0 ∧ n % 256 = 0 ∧ 0 < n ∧ x + n ≤ (cur s).hdr.sdata ∧ ∃ j < 64,
        let o := getOwn s (clusterOf (cur s).core) j
        o.overlaps (cur s) x n = true ∧ (∀ j' < j, (getOwn s (clusterOf (cur s).core) j').overlaps (cur s) x n = false) ∧
        c = (0x0B, at64 (j * 256 + 7), at64 (j * 2 ^ 58 + o.gen * 2 ^ 46 + o.spos * 2 ^ 44 + o.base * 2 ^ 29 + o.lenm * 2 ^ 14))))

/-- 08 R144, R148, R149, R154, R157, 04 R83, 17 R297: the traps of the scratchpad instructions, the first check that fails, in a bundle of one
lane; of `spzero`, which acts once for a group, in every lane of the group in the bundle. 08 R160: the traps of the tag table, in a bundle
of one lane: no table, a key of more than 48 bits, a slot beyond the table, and an invalid slot marked. 01 R20: a set with an uncorrectable
error; its %taddr is the model's (log 30). 08 R156, R157: the traps of the buffer instructions, the first check that fails, in every lane of
the group in the bundle; of `hqry`, in a bundle of one lane. Which handle an overlap of `hgive.new` names, and the %taddr of its trap 0x04,
are the model's choice (log 16). -/
def Obligations.GroupMemoryTraps : Prop := ScratchpadTraps ∧ TagTraps ∧ HandleTraps

namespace Sys2Proof.Claims
open Sys2Proof.Machine

/-- The virtual address of a memory-class form (10 R181). -/
def dataAt (s : State) (u : Nat) (a b : Opnd) (mod : BitVec 3) (ofs : DWord) : Nat :=
  (rd64 s u a + ((BitVec.ofNat 32 (rd s u .i32 b 0)).signExtend 64 <<< mod.toNat) + ofs).toNat

/-- Whether the page-table entries on a die's way to an address of a context hold no correctable error, which would be counted (01 R20, log 17). -/
def cleanFor (s : State) (ctx die va pick : Nat) : Bool :=
  let p := ((getCtx s ctx).map Ctx.part).getD 0
  (walkPath s p va pick walkLevels (rootOf s ctx die)).all (fun e =>
    s.fixMem.all (fun w => !(decide (32 * w < e + 8) && decide (e < 32 * w + 32))))

/-- The same for the issuing workgroup. -/
def cleanWalk (s : State) (va pick : Nat) : Bool := cleanFor s (cur s).ctx (dieOf (cur s).core) va pick

/-- An address passes the checks of 10 R178, no granule has to be cleared for it (10 R174), and no corrected error is to be counted on the way
(01 R20): the access goes to `pa` by a leaf. -/
def Reaches (s : State) (va : Nat) (n : Need) (pa : Nat) (l : Leaf) : Prop :=
  (∀ pick, checkAddr s (cur s).ctx (dieOf (cur s).core) va n pick = .ok pa l) ∧ (l.uns = true → unscrubbed s (granuleOf pa) = false) ∧
    ∀ pick, cleanWalk s va pick = true

/-- A load of a type outstanding (02 R26, 11 R188). -/
def loadOf (h : Hdr) (n pa va : Nat) (ty : Ty) (d : Opnd) (mw : MemW) (rpro : Bool) : Pend :=
  { Pend.start h n (.load pa ty d rpro) [] 0 with acq := if mw.ord = 1 ∨ mw.ord = 3 then mw.ss else 0, bad := some (at64 va) }

/-- Whether an access is a release. -/
abbrev Releases (mw : MemW) : Prop := mw.ord = 2 ∨ mw.ord = 3

/-- A lane's own earlier accesses leave a range free: no load of it waits there, and no request of it (11 R186). -/
def OwnClear (s : State) (u pa n : Nat) : Prop :=
  (∀ p ∈ (lane s u).pend, p.hits pa n = false) ∧ ownReqAt s s.bundle.wg u s.fresh pa n = false

/-- Whether a release fence waits for the core's buffers: at die scope or wider, and, as an SC fence, at cluster scope (10 R177, 11 R196). -/
abbrev Waits (sub : BitVec 4) (mw : MemW) : Prop := Releases mw ∧ (3 ≤ mw.scope.toNat ∨ (sub.getLsbD 0 = true ∧ mw.scope = 2))

/-- The state in which every line of the issuing core drains: no store merges into one any more (10 R177). -/
def draining (s : State) : State :=
  modCore s (cur s).core (fun c => { c with lines := c.lines.map (fun l => { l with draining := true }) })

/-- The lane's requests that its release fences order before its stores to the kind of storage at an address have been answered (11 R185, R188). -/
def OrderedClear (s : State) (u pa : Nat) : Prop :=
  ∀ o ∈ (lane s u).ordersOn (kindBit pa), ∀ r ∈ s.reqs, r.wg = s.bundle.wg → u ∈ r.who → r.id < o.bound → inMask o.ss r.pa = false

/-- The zero-length reads that follow n releases at system scope over host memory (22 R354, log 21). -/
def flushed (s : State) (mw : MemW) (n : Nat) : State :=
  if Releases mw ∧ mw.scope = 5 ∧ mw.ss.getLsbD 3 = true then
    { s with dev := { s.dev with posted := s.dev.posted ++ List.replicate n (.read ((cur s).part + 1) 0 0) } }
  else s

/-- What stands in a core's buffer when a store of n bytes reaches it: its lines, which a release at cluster scope drains (10 R177, 11 R188). -/
def linesFor (s : State) (mw : MemW) : List Line :=
  (getCore s (cur s).core).lines.map (fun l => if Releases mw ∧ mw.scope = 2 then { l with draining := true } else l)

/-- What its core has buffered that a lane's store is performed after: what has a lower number, in some kinds of storage; by the store's own release
at cluster scope, and by the lane's release fences of that scope or wider (11 R185, R188). -/
def storeAfter (s : State) (u pa : Nat) (mw : MemW) : List (Nat × BitVec 4) :=
  (if Releases mw ∧ mw.scope = 2 then [(s.fresh, mw.ss)] else []) ++ (lane s u).afterOf (kindBit pa)

/-- The latest line with bytes in a range, if there is one and a store to virtual address `va` may merge into it (10 R173, R177). -/
def mergeable (s : State) (mw : MemW) (va pa n : Nat) (repl : List Nat) : Option Line :=
  ((linesFor s mw).find? (fun y => y.pa < pa + n && pa < y.pa + 128)).filter (fun y =>
    y.pa == pa / 128 * 128 && !y.draining && y.ctx == (cur s).ctx && y.vgran == va / 65536 && y.repl == repl)

end Sys2Proof.Claims

/-- 10 R181, R182, 13 R223, 11 R196, 04 R80: `ld` and `stqry`, where every active lane's address passes the checks of R178, await the
bytes at the physical address; `pf` changes nothing; `fence`, where nothing that it waits for is left, lets every lane go on, its later
stores to storage in its mask ordered behind what is older there and not done (11 R185, R188, log 4), and the core's lines drain at a release of
cluster scope or wider; at system scope over host memory a zero-length read follows (22 R354); `gsync`, where nothing is left to release, lets every
lane go on. That the lanes of a group that are guarded off await a uniform destination too is the model's choice (log 46), as are that `pf` never
traps (log 101) and what a fence waits for in detail (log 21); the numbers of the results are the model's (log 6). -/
def Obligations.MemoryLoadResults : Prop :=
  ∀ (h : Hdr) (ty : Ty) (mod : BitVec 3) (sub : BitVec 4) (d a b : Opnd) (mw : MemW) (ofs : BitVec 20) (s : State),
    Rising s.bundle.lanes →
    let va (u : Nat) : Nat := dataAt s u a b mod (ofs.signExtend 64)
    let us := acting h true s
    (∀ (pa : Nat → Nat) (l : Nat → Leaf), (∀ u ∈ us, Reaches s (va u) (loadNeed ty mw) (pa u) (l u)) →
      exec (.ld h ty mod d a b mw ofs) s = .next (leaveAll false (awaitAll h d (fun u k =>
        loadOf h k (pa u) (va u) ty d mw mw.rpro) s))) ∧
    (∀ (pa : Nat → Nat) (l : Nat → Leaf), (∀ u ∈ us, Reaches s (va u) (stagedNeed true false mw.ss) (pa u) (l u)) →
      exec (.stqry h mod sub d a b mw ofs) s = .next (leaveAll false (awaitAll h d (fun u k =>
        loadOf h k (pa u + 8 * sub.toNat) (va u) .b64 d mw false) s))) ∧
    exec (.pf h mod a b mw ofs) s = .next (leaveAll false s) ∧
    (SMap.wf Core.empty s.cores = true → (∀ u ∈ us, NothingOut s [u] (if Waits sub mw then 2 else 0)) →
      exec (.fence h sub mw) s = .next (leaveAll false (onActing h true
        (flushed (if Releases mw ∧ 2 ≤ mw.scope.toNat ∧ us ≠ [] then draining s else s) mw us.length) (fun u th =>
          let o : Order := { bound := th.relAt.getD s.fresh, ss := mw.ss, wide := decide (2 ≤ mw.scope.toNat) }
          if Releases mw then { th with order := (th.order ++ [o]).filter (Order.left s s.bundle.wg u) } else th)))) ∧
    (∀ k, OneGroup h true s k → NothingOut s us 0 → exec (.gsync h) s = .next (leaveAll false s))

/-- 10 R173, R177, R181: `st` of one lane, where its address passes the checks and nothing holds it back, puts its bytes into the core's
buffer: into the latest line there, if that has not begun to drain and is of the same page and copies, and otherwise into a new line; nothing else
does change, but for the clears, the log and the counts of the walks to other copies of a REPL page, and the zero-length read of a release at system
scope over host memory (22 R354). The core then reads the bytes there, and every other byte as before. That a store merges into the latest line only
is log 20, that the copies are found as the store issues log 43, what a release waits for log 21, and that a line keeps what must be performed before it
log 4. -/
def Sys2Proof.Claims.StoreResults : Prop :=
  ∀ (h : Hdr) (ty : Ty) (mod : BitVec 3) (d a b : Opnd) (mw : MemW) (ofs : BitVec 20) (s : State) (u pa : Nat) (l : Leaf),
    let va := dataAt s u a b mod (ofs.signExtend 64)
    let n := ty.width / 8
    let byte (k : Nat) : Byte := BitVec.ofNat 8 (rd s u ty d 0 / 2 ^ (8 * k))
    let A := if l.repl then replCopies s (cur s).ctx ((cur s).core / 32) va else (s, [])
    let R := A.2.map (fun q => q / 128 * 128)
    let into (lines : List Line) (f : Nat) : State :=
      withFresh (modCore (flushed A.1 mw 1) (cur s).core (fun c => { c with lines := lines })) f
    Sole h false s u → Reaches s va (storeNeed ty mw) pa l → pa % n = 0 → OwnClear s u pa n → OrderedClear s u pa →
    (Releases mw → NothingOut s [u] (if 3 ≤ mw.scope.toNat then 2 else 0)) → (getCore s (cur s).core).lines.length < 64 →
    SMap.wf Core.empty s.cores = true →
    (∀ x, mergeable s mw va pa n R = some x →
      ∃ B, (∀ j, SMap.find B j = if pa % 128 ≤ j ∧ j < pa % 128 + n then some (byte (j - pa % 128)) else SMap.find x.bytes j) ∧
        exec (.st h ty mod d a b mw ofs) s = .next (leaveAll false (into ((linesFor s mw).map (fun y => if y = x then
          { x with bytes := B, prop := x.prop || l.prop, after := (x.after ++ storeAfter s u pa mw).eraseDups } else y)) s.fresh))) ∧
    (mergeable s mw va pa n R = none →
      exec (.st h ty mod d a b mw ofs) s = .next (leaveAll false (into
        ({ stamp := s.fresh, pa := pa / 128 * 128, bytes := (List.range n).map (fun k => (pa % 128 + k, byte k)), draining := false
           ctx := (cur s).ctx, part := (cur s).part, prop := l.prop, vgran := va / 65536, after := storeAfter s u pa mw, repl := R
           done := [] } :: linesFor s mw) (s.fresh + 1)))) ∧
    ∃ t, exec (.st h ty mod d a b mw ofs) s = .next t ∧
      ∀ x, coreByte t (cur s).core x = if pa ≤ x ∧ x < pa + n then byte (x - pa) else coreByte s (cur s).core x

/-- 10 R177, 11 R187, R188, R196: a release fence at die scope or wider, and an SC fence at cluster scope, wait while a line of the core's
buffer is older than it: the lines drain, the lane keeps its instruction, and nothing else happens. That what is older is told by numbers
is log 4, and that the fence waits for every line at die scope or wider, whatever its SS names, and at cluster scope for those in its SS, is log
21. -/
def Sys2Proof.Claims.ReleaseWaits : Prop :=
  ∀ (h : Hdr) (sub : BitVec 4) (mw : MemW) (s : State) (u : Nat) (x : Line),
    Sole h true s u → Waits sub mw → (∀ p ∈ (lane s u).pend, p.range = none) → SMap.wf Core.empty s.cores = true →
    x ∈ (getCore s (cur s).core).lines → x.stamp < (lane s u).relAt.getD s.fresh → (3 ≤ mw.scope.toNat ∨ inMask mw.ss x.pa = true) →
    exec (.fence h sub mw) s = .next (mapLanes (draining s) (fun v th => if v = u then
      { th with wait := .drain, relAt := some (th.relAt.getD s.fresh) } else th))

/-- 10 R173, R177, R181: `st` of one lane, where its address passes the checks and nothing holds it back, puts its bytes into the core's buffer:
into the latest line there, if that has not begun to drain and is of the same page and copies, and otherwise into a new line; nothing else
does change, but for the clears, the log and the counts of the walks to other copies of a REPL page, and the zero-length read of a release
at system scope over host memory (22 R354). The core then reads the bytes there, and every other byte as before. That a store merges into
the latest line only is log 20, that the copies are found as the store issues log 43, what a release waits for log 21, and that a line keeps
what must be performed before it log 4. 10 R177, 11 R187, R188, R196: a release fence at die scope or wider, and an SC fence at cluster
scope, wait while a line of the core's buffer is older than it: the lines drain, the lane keeps its instruction, and nothing else happens.
That what is older is told by numbers is log 4, and that the fence waits for every line at die scope or wider, whatever its SS names, and at
cluster scope for those in its SS, is log 21. -/
def Obligations.StoreAndReleaseResults : Prop := StoreResults ∧ ReleaseWaits

namespace Sys2Proof.Claims
open Sys2Proof.Machine

/-- The trap of an access to an address, by its checks in order (10 R178): alignment, the unused upper bits, the reserved space, the storage
scope mask, what the walk finds, where no corrected error is to be counted on it, the rights, STAGED, and an atomic or staged access to a REPL page. -/
def addrTrap (s : State) (va : Nat) (n : Need) : Option (Nat × DWord × DWord) :=
  let w : Nat := if n.wr then 256 else 0
  if va % n.align ≠ 0 then some (0x04, 0, at64 va)
  else if va / 2 ^ 56 ≠ 0 then some (0x06, at64 (w + 1), at64 va)
  else if va / 2 ^ 54 = 3 then some (0x06, at64 (w + 2), at64 va)
  else if n.ss.getLsbD (va / 2 ^ 54 + 1) = false then some (0x06, at64 (w + 3), at64 va)
  else if cleanWalk s va s.fresh = false then none
  else match walk s (((getCtx s (cur s).ctx).map Ctx.part).getD 0) va n.wr s.fresh walkLevels (rootOf s (cur s).ctx (dieOf (cur s).core)) with
    | .ok _ l =>
      if n.rd = true ∧ l.r = false then some (0x06, at64 (l.level * 4096 + w + 6), at64 va)
      else if n.wr = true ∧ l.w = false then some (0x06, at64 (l.level * 4096 + w + 7), at64 va)
      else if n.staged ≠ l.staged then some (0x07, 0, at64 va)
      else if l.repl = true ∧ (n.atomic = true ∨ n.staged = true) then some (0x06, at64 (l.level * 4096 + w + 10), at64 va)
      else none
    | .trap c i => some (c, at64 i, at64 va)
    | _ => none

/-- The trap of an atomic: that of its address, and an operation that host memory does not take (10 R178, 11 R199). -/
def atomTrap (s : State) (va op : Nat) (n : Need) : Option (Nat × DWord × DWord) :=
  match addrTrap s va n with
  | some c => some c
  | none => match walk s (((getCtx s (cur s).ctx).map Ctx.part).getD 0) va true s.fresh walkLevels (rootOf s (cur s).ctx (dieOf (cur s).core)) with
    | .ok pa l => if cleanWalk s va s.fresh = true ∧ pa / 2 ^ 50 = 2 ∧ op ≠ 0 ∧ op ≠ 6 ∧ op ≠ 7 then some (0x06, at64 (l.level * 4096 + 256 + 10), at64 va) else none
    | _ => none

end Sys2Proof.Claims

/-- 10 R178, R179, 02 R34, 11 R199, 13 R207, R222, R224, 17 R296: the traps of one lane's address, the first check that fails, for `ld`, `st`, `atom`, `red`,
`stx`, `stinit` and `stload` after their class check, `stqry`, and `enq`. The LEVEL in %tinfo of a missing right is log 8, and `walk` is
the model's walk of the tables; the place of `stload`'s class check and its %taddr are the model's choice (log 33). -/
def Obligations.AddressTraps : Prop :=
  ∀ (h : Hdr) (ty : Ty) (mod : BitVec 3) (sub : BitVec 4) (d a b c : Opnd) (mw : MemW) (o10 : BitVec 10) (ofs : BitVec 20),
    let va (s : State) (u : Nat) : Nat := dataAt s u a b mod (ofs.signExtend 64)
    let vb (s : State) (u : Nat) : Nat := dataAt s u a b mod (o10.signExtend 64)
    let n := ty.width / 8
    let classTrap (s : State) (k va : Nat) : Option (Nat × DWord × DWord) :=
      if (cur s).hdr.stcls.testBit k then none else some (0x08, at64 (9 * 2 ^ 32 + k * 2 ^ 28), at64 va)
    Raises (.ld h ty mod d a b mw ofs) h true (fun s u => addrTrap s (va s u) { align := n, rd := true, wr := false, ss := mw.ss }) ∧
    Raises (.st h ty mod d a b mw ofs) h false (fun s u => addrTrap s (va s u) { align := n, rd := false, wr := true, ss := mw.ss }) ∧
    Raises (.atom h ty mod sub d a b c mw o10) h false (fun s u =>
      atomTrap s (vb s u) sub.toNat { align := n, rd := true, wr := true, atomic := true, ss := mw.ss }) ∧
    Raises (.red h ty mod sub d a b mw ofs) h false (fun s u =>
      atomTrap s (va s u) sub.toNat { align := n, rd := true, wr := true, atomic := true, ss := mw.ss }) ∧
    Raises (.stx h mod sub d a b c mw o10) h false (fun s u =>
      addrTrap s (vb s u) { align := 16, rd := true, wr := true, staged := true, ss := mw.ss }) ∧
    Raises (.stinit h mod d a b c mw o10) h false (fun s u =>
      (classTrap s ((rd64 s u d).toNat / 16 % 16) (vb s u)).or
        (addrTrap s (vb s u) { align := 16, rd := false, wr := true, staged := true, ss := mw.ss })) ∧
    Raises (.stqry h mod sub d a b mw ofs) h true (fun s u =>
      addrTrap s (va s u) { align := 16, rd := true, wr := false, staged := true, ss := mw.ss }) ∧
    Raises (.stload h mod sub a) h false (fun s u =>
      (classTrap s sub.toNat 0).or (addrTrap s (rd64 s u a).toNat { align := 16, rd := true, wr := false, ss := 0b1111 })) ∧
    Raises (.enq h d a) h false (fun s u =>
      addrTrap s (rd64 s u a).toNat { align := 128, rd := true, wr := false, ss := 0b0010 })

namespace Sys2Proof.Claims
open Sys2Proof.Machine

/-- The new value of a location (11 R198). -/
def atomNew (op : Nat) (ty : Ty) (m x e : Nat) : Nat :=
  if op = 0 then (m + x) % 2 ^ ty.width else if op = 1 then m &&& x else if op = 2 then m ||| x else if op = 3 then m ^^^ x
  else if op = 4 then (if intOf ty x < intOf ty m then x else m)
  else if op = 5 then (if intOf ty m < intOf ty x then x else m)
  else if op = 6 then x
  else if op = 7 then (if m = e then x else m)
  else (sumOf .f32 { rm := .rne, ftz := false } [FV.ofBits .f32 false m, FV.ofBits .f32 false x]).1

/-- What an atomic takes from its data operand: the data, and for `.cas` the expected value, which comes first (11 R198). -/
def atomArgs (s : State) (u op : Nat) (ty : Ty) (c : Opnd) : DWord × DWord :=
  if op = 7 then
    let r (k : Nat) : Nat := match c with
      | .v n => ((lane s u).rv (n.toNat + k)).toNat
      | .s n => ((getGroup (cur s) (grpOf u)).ru (n.toNat + k)).toNat
      | _ => 0
    if ty.width = 64 then (at64 (r 2 + r 3 * 2 ^ 32), at64 (r 0 + r 1 * 2 ^ 32)) else (at64 (r 1), at64 (r 0))
  else (at64 (rd s u ty c 0), 0)

/-- A state in which an atomic of one lane goes to its home at once (11 R186, R199). -/
def AtomReady (h : Hdr) (s : State) (u va pa op : Nat) (l : Leaf) (ty : Ty) (mw : MemW) : Prop :=
  Sole h false s u ∧ Reaches s va (atomNeed ty mw) pa l ∧ (pa / 2 ^ 50 = 2 → op = 0 ∨ op = 6 ∨ op = 7) ∧ OwnClear s u pa (ty.width / 8) ∧
    (Releases mw → NothingOut s [u] (if 2 ≤ mw.scope.toNat then 2 else 0)) ∧
    (∀ x ∈ (getCore s (cur s).core).lines, x.overlaps pa (ty.width / 8) = false) ∧ SMap.wf Core.empty s.cores = true

/-- The request of an atomic of one lane (11 R199), with what comes before it by a release at cluster scope or by the lane's release fences (11
R188). -/
def requestOf (s : State) (u va pa op : Nat) (l : Leaf) (ty : Ty) (mw : MemW) (c : Opnd) (id tok : Nat) (ret : Bool) : Req :=
  let x := atomArgs s u op ty c
  { id := id, stamp := id, origin := .thread s.bundle.wg u tok, who := [u], wg := s.bundle.wg, core := (cur s).core, ctx := (cur s).ctx
    part := (cur s).part, die := (cur s).core / 32, pa := pa, ret := ret, prop := l.prop, vgran := va / 65536
    kind := .atom op ty (if ret then mw.rpro else false) [(u, tok, x.1, x.2)], size := ty.width / 8, scope := 0, held := false
    ss := mw.ss, after := ((if Releases mw ∧ mw.scope = 2 then [(id, mw.ss)] else []) ++ (lane s u).afterOf (kindBit pa)).eraseDups
    behind := behindOf s s.bundle.wg u (kindBit pa) }

/-- What a reduction of a lane contributes to a combining entry (11 R200). -/
def givenBy (s : State) (va : Nat) (l : Leaf) : Contrib :=
  { core := (cur s).core, stamp := s.fresh, ctx := (cur s).ctx, part := (cur s).part, prop := l.prop, vgran := va / 65536 }

/-- The position of a lane after its instruction. -/
def nextPos (s : State) (u : Nat) : Word := (leave false s (lane s u)).pos

end Sys2Proof.Claims

/-- 11 R197 to R200, 06 R100: what `atom` and `red` of one lane send. `atom` sends a request to the home and awaits its old value, closing
the region when it comes. An integer or bitwise `red` to HBM enters the combining buffer, alone or merged into the entry of its address
and operation, unless a release at cluster scope or a fence of the lane orders it (log 21); any other sends a request, behind the cluster's
reductions there. The numbers are the model's (log 6). -/
def Obligations.AtomicIssue : Prop :=
  ∀ (h : Hdr) (ty : Ty) (mod : BitVec 3) (sub : BitVec 4) (d a b c : Opnd) (mw : MemW) (o10 : BitVec 10) (ofs : BitVec 20) (s : State)
    (u pa : Nat) (l : Leaf),
    let op := sub.toNat
    (let va := dataAt s u a b mod (o10.signExtend 64);
      AtomReady h s u va pa op l ty mw →
      exec (.atom h ty mod sub d a b c mw o10) s = .next (leaveAll false (onActing h false
        { flushed s mw 1 with reqs := s.reqs ++ [requestOf s u va pa op l ty mw c (s.fresh + 1) s.fresh true], fresh := s.fresh + 2 }
        (fun _ th => { th with pend := th.pend ++ [{ Pend.start h s.fresh (.req (s.fresh + 1) ty d (.imm 0)) [] 0 with
          closeTo := some (nextPos s u), acq := if mw.ord = 1 ∨ mw.ord = 3 then mw.ss else 0, bad := some (at64 va) }] })))) ∧
    (let va := dataAt s u a b mod (ofs.signExtend 64)
      let cl := (cur s).core / 4
      let x := atomArgs s u op ty d;
      AtomReady h s u va pa op l ty mw →
      let free : Prop := ¬ (Releases mw ∧ mw.scope = 2) ∧ orderDone s s.bundle.wg u (kindBit pa) = true
      (op ≤ 5 → pa < 2 ^ 50 → free → (getCombs s cl).length < 32 →
        (∀ e ∈ getCombs s cl, overlap e.pa (e.ty.width / 8) pa (ty.width / 8) = false) →
        exec (.red h ty mod sub d a b mw ofs) s = .next (leaveAll false (withFresh (setCombs (flushed s mw 1) cl (getCombs s cl ++
          [{ pa := pa, ty := ty, op := op, val := x.1, who := [givenBy s va l] }])) (s.fresh + 1)))) ∧
      (op ≤ 5 → pa < 2 ^ 50 → free → ∀ e, getCombs s cl = [e] → e.pa = pa → e.op = op → e.ty = ty →
        exec (.red h ty mod sub d a b mw ofs) s = .next (leaveAll false (withFresh (setCombs (flushed s mw 1) cl
          [{ e with val := at64 (atomNew op ty e.val.toNat x.1.toNat 0)
                    who := if ∃ y ∈ e.who, { givenBy s va l with stamp := y.stamp } = y then e.who else e.who ++ [givenBy s va l] }])
          (s.fresh + 1)))) ∧
      (5 < op ∨ 2 ^ 50 ≤ pa ∨ ¬ free →
        exec (.red h ty mod sub d a b mw ofs) s = .next (leaveAll false
          { sendCombsAt (flushed s mw 1) cl pa (ty.width / 8) with
            reqs := s.reqs ++ [requestOf s u va pa op l ty mw d s.fresh 0 false], fresh := s.fresh + 1 })))

namespace Sys2Proof.Claims
open Sys2Proof.Machine

/-- The old value of an atomic has come to the instruction that holds a token: it will be written to the destination (11 R199). -/
def answered (w tok old : Nat) (s : State) : State :=
  modWg s w (fun g => { g with threads := g.threads.map (fun th => { th with pend := th.pend.map (fun p =>
    if p.tok = tok then
      { p with src := .known, writes := match p.src with | .req _ ty d _ => regWrites d (extTy ty old) | _ => [], acq := 0, bad := none }
    else p) }) })

/-- The requests without one of a number. -/
def without (id : Nat) (s : State) : State := { s with reqs := s.reqs.filter (fun r => r.id != id) }

end Sys2Proof.Claims

/-- 11 R198, R199, R186: a request is performed at its home indivisibly: the location takes its lanes' operations in order, each lane
receives the value it met, and the request is gone; a reduction answers nothing. In host memory the lanes' operations are one request of the
partition's function, an `.add` of all of them (R199, 22 R354), and a correctable error met is counted (01 R20). Here no buffered reduction of the cluster is held, the
word is good, and its page is not logged. -/
def Sys2Proof.Claims.AtomicAtHomeResult : Prop :=
  ∀ (s : State) (k : Nat) (r : Req) (op : Nat) (ty : Ty) (lanes : List (Nat × Nat × DWord × DWord)),
    s.reqs.find? (fun x => x.id == k) = some r → r.kind = .atom op ty false lanes → mayPerform s r = true →
    getCombs s (clusterOf r.core) = [] → memBad s r.pa (ty.width / 8) = false → r.prop = false →
    (lanes.map (fun l => l.2.1)).Nodup →
    let n := ty.width / 8
    let seen (j : Nat) : Nat := (lanes.take j).foldl (fun m l => atomNew op ty m l.2.2.1.toNat l.2.2.2.toNat) (memRead s r.pa n)
    let sent : List HostReq := match lanes with
      | [] => []
      | l :: ls => [.atomic (r.part + 1) r.pa op ty (ls.foldl (fun x m => at64 (redOp op ty x.toNat m.2.2.1.toNat)) l.2.2.1) l.2.2.2]
    let asked (t : State) : State := if r.pa / 2 ^ 50 = 2 then modDev t (fun x => { x with posted := x.posted ++ sent }) else t
    let done := without k (asked (memWrite (countReads s r.pa n) r.pa n (seen lanes.length)))
    exec (.atomicAtHome k) s = .next (if r.ret then
      (List.range lanes.length).foldl (fun t j => answered r.wg ((lanes.getD j (0, 0, 0, 0)).2.1) (seen j) t) done else done)

/-- 02 R26, R27, 06 R100, 11 R186: a result that is known is written: its registers and flags, and %irs for a region-closing one; where its
window has not ended yet it is kept, to stand again at the window's end; a load that has not read yet reads its bytes through the core's buffer, and
its result is then known. Here no other lane shares the result, no other result of the thread goes to its registers, no `stx` that is not answered
stands before a uniform register (log 126), and no other load of the thread waits; `coreMeets` counts the errors that the read corrects, and reads host
memory for the partition's function (01 R20, 22 R353). -/
def Sys2Proof.Claims.LongLatencyResult : Prop :=
  ∀ (s : State) (w t k : Nat) (p : Pend), (getWg s w).status = .resident → (thOf s w t).pend[k]? = some p →
    (∀ q ∈ (thOf s w t).pend, q.tok = p.tok → q = p) →
    (∀ v, v ≠ t → ∀ q ∈ (thOf s w v).pend, q.tok ≠ p.tok) →
    (p.src = .known → p.bad = none → (∀ q ∈ (thOf s w t).pend, q ≠ p → q.meetsDest p = false) →
      (p.dests.any Prod.fst = true → ∀ q ∈ (thOf s w t).pend, q.unanswered = false) →
      exec (.longLatencyResult w t k false) s = .next (modTh (modWg s w (fun g => g.writeAll t p.writes)) w t (fun th =>
        { th with fflags := th.fflags ||| p.flags, irs := p.closeTo.getD th.irs
                  moves := if p.closeTo.isSome then th.moves + 1 else th.moves
                  early := if 0 < p.left ∧ th.due = none then th.early ++ [p] else th.early
                  pend := th.pend.filter (fun q => q.tok != p.tok) }))) ∧
    (∀ pa ty d, p.src = .load pa ty d false → (∀ q ∈ (thOf s w t).pend, q ≠ p → q.range = none) → canCapture s w t p = true →
      getCombs s (clusterOf (getWg s w).core) = [] → coreBad s (getWg s w).core pa (ty.width / 8) = false →
      exec (.longLatencyResult w t k true) s = .next (modTh (coreMeets s (getWg s w).core (getWg s w).part pa (ty.width / 8)) w t (fun th => { th with pend := th.pend.map (fun q =>
        if q.tok = p.tok then { q with
          src := .known, acq := 0, bad := none
          writes := regWrites d (extTy ty (leOf (fun j => coreByte s (getWg s w).core (pa + j)) (ty.width / 8))) } else q) })))

namespace Sys2Proof.Claims
open Sys2Proof.Machine

/-- The active lanes whose address another active lane of the bundle names too (13 R219). -/
def sharers (al : List Nat) (va : Nat → Nat) : List Nat := al.filter (fun u => al.any (fun v => v != u && va v == va u))

/-- Trap 0x09: the lanes that share, by their numbers in the group, and the lowest address shared (13 R219). -/
def sharedTrap (al : List Nat) (va : Nat → Nat) : Nat × DWord × DWord :=
  let ds := sharers al va
  (0x09, at64 (((List.range 32).filter (fun j => ds.any (fun u => u % 32 == j))).map (fun j => 2 ^ j)).sum,
    at64 ((ds.map va).foldl min (va (ds.headD 0))))

/-- The bits of an object's word 0 in an access, and its other word, are written (13 R208). -/
def objWords (s : State) (pa w0 w1 : Nat) : State := memWrite (memWrite s pa 8 w0) (pa + 8) 8 w1

end Sys2Proof.Claims

/-- 13 R214, R219, R221, R222: the issue of the staged instructions. `stx` of one lane takes a place in its core's park table, sends its
transition and awaits the status; `stinit` of one lane writes both words, without the park bit, and wakes the lanes parked there; where
two active lanes name one object, every active lane takes trap 0x09. The numbers are the model's (log 6); that `stinit` acts as it issues is log 22,
that lanes of all groups of the bundle are compared is log 34, and `sendWakes` sends the wake messages of 13 R214. -/
def Sys2Proof.Claims.StagedIssue : Prop :=
  ∀ (h : Hdr) (mod : BitVec 3) (sub : BitVec 4) (d a b c : Opnd) (mw : MemW) (ofs : BitVec 10) (s : State),
    let va (u : Nat) : Nat := dataAt s u a b mod (ofs.signExtend 64)
    let core := (cur s).core
    (∀ u pa l, Sole h false s u → Reaches s (va u) (stagedNeed true true mw.ss) pa l →
      (getCore s core).parks.length < 256 →
      (∀ e ∈ (getCore s core).parks, ¬ (e.pa = some pa ∧ e.wg = s.bundle.wg ∧ e.grp = u / 32)) →
      exec (.stx h mod sub d a b c mw ofs) s = .next (leaveAll false (onActing h false
        { modCore s core (fun x => { x with parks := x.parks ++
            [{ pa := some pa, ctx := (cur s).ctx, wg := s.bundle.wg, grp := u / 32, mask := [], wait := [u] }] }) with
          fresh := s.fresh + 1
          reqs := s.reqs ++ [{ id := s.fresh, stamp := s.fresh, origin := .thread s.bundle.wg u s.fresh, who := [u], wg := s.bundle.wg, core := core
                               ctx := (cur s).ctx, part := (cur s).part, die := core / 32, pa := pa, ret := true, prop := l.prop
                               vgran := va u / 65536, kind := .trans sub.toNat (rd64 s u c) (at64 (va u)), size := 16
                               scope := mw.scope.toNat, ss := mw.ss, held := false, after := ((lane s u).afterOf (kindBit pa)).eraseDups
                               behind := behindOf s s.bundle.wg u (kindBit pa) }] }
        (fun _ th => { th with pend := th.pend ++ [{ Pend.start h s.fresh (.req s.fresh .b32 d c) [] 0 with
          closeTo := some (nextPos s u), origin := some (lane s u).pos, acq := mw.ss, bad := some (at64 (va u)) }] })))) ∧
    (∀ u pa l, Sole h false s u → Reaches s (va u) (stagedNeed false true mw.ss) pa l → l.prop = false →
      (cur s).hdr.stcls.testBit ((rd64 s u d).toNat / 16 % 16) = true → (Releases mw → NothingOut s [u] (if 2 ≤ mw.scope.toNat then 2 else 0)) →
      clearingAt s pa = false → (∀ r ∈ s.reqs, r.held = true → r.pa ≠ pa) →
      let w0 := (rd64 s u d).toNat
      let t := objWords (flushed s mw 1) pa (w0 / 2 ^ 16 * 2 ^ 16 + w0 % 2 ^ 8) (rd64 s u c).toNat
      exec (.stinit h mod d a b c mw ofs) s = .next (leaveAll true
        (if (memRead s pa 8).testBit 8 then sendWakes t (cur s).part (some pa) (cur s).ctx else t))) ∧
    (Rising s.bundle.lanes → sharers (acting h false s) va ≠ [] →
      (∀ u ∈ acting h false s, (lane s u).pend = [] → (lane s u).th = false) →
      (isUni d = false → exec (.stx h mod sub d a b c mw ofs) s = .next (lanesEnd h false true s
        (fun u th => caught s u (sharedTrap (acting h false s) va) th))) ∧
      exec (.stinit h mod d a b c mw ofs) s = .next (lanesEnd h false true s
        (fun u th => caught s u (sharedTrap (acting h false s) va) th)))

/-- 13 R211, R224: `stload` of an image in one page whose checks all pass makes its table the class's; the table's entries are the
image's. An image whose size or reserved bytes are wrong is refused with reason 0x08, one with a wrong entry with reason 0x07, and a
class that the kernel does not declare with reason 0x09. That the image is read as the instruction issues is log 22, and the order of its
checks and its %taddr log 33. Here no reduction of the cluster is held; `coreMeets` counts the correctable errors that the read meets, and reads host
memory for the partition's function (01 R20, 22 R353), and at system scope a zero-length read follows (22 R354). -/
def Sys2Proof.Claims.StagedClassLoad : Prop :=
  ∀ (h : Hdr) (mod : BitVec 3) (sub : BitVec 4) (a : Opnd) (s : State) (u pa : Nat) (l l2 : Leaf),
    let va := (rd64 s u a).toNat
    let byte (k : Nat) : Nat := (coreByte s (cur s).core (pa + k)).toNat
    let ent (k : Nat) : Nat := byte (16 + 2 * k) + 256 * byte (17 + 2 * k)
    let raise (s : State) (c : Nat × DWord × DWord) : Host.Outcome State Fault Refusal :=
      .next (mapLanes s (fun v th => if v = u then caught s u c th else th))
    let met := coreMeets s (cur s).core (cur s).part pa 528
    let read : State := if mod = 5 then { met with dev := { met.dev with posted := met.dev.posted ++ [.read ((cur s).part + 1) 0 0] } } else met
    Sole h false s u → ((lane s u).pend = [] → (lane s u).th = false) →
    Reaches s va imageNeed pa l → Reaches s (va + 512) imageNeed (pa + 512) l2 → va % l.size + 528 ≤ l.size →
    (∀ k < 528, coreBad s (cur s).core (pa + k) 1 = false) → NothingOut s [u] (if 2 ≤ mod.toNat then 2 else 0) →
    getCombs s (clusterOf (cur s).core) = [] → clearingAt s pa = false → clearingAt s (pa + 512) = false →
    ((cur s).hdr.stcls.testBit sub.toNat = false →
      exec (.stload h mod sub a) s = raise s (0x08, at64 (9 * 2 ^ 32 + sub.toNat * 2 ^ 28), 0)) ∧
    ((cur s).hdr.stcls.testBit sub.toNat = true →
      (byte 0 = 0 ∨ byte 0 > 16 ∨ (∃ k < 15, byte (1 + k) ≠ 0) →
        exec (.stload h mod sub a) s = raise read (0x08, at64 (8 * 2 ^ 32 + sub.toNat * 2 ^ 28), 0)) ∧
      (0 < byte 0 → byte 0 ≤ 16 → (∀ k < 15, byte (1 + k) = 0) →
        let wrong (k : Nat) : Prop := if k / 16 < byte 0 then ent k % 16 ≥ byte 0 ∨ ent k / 16 % 8 ≥ 6 else ent k ≠ 0
        (∀ k < 256, (∀ j < k, ¬ wrong j) → wrong k →
          exec (.stload h mod sub a) s = raise read (0x08,
            at64 (7 * 2 ^ 32 + sub.toNat * 2 ^ 28 + k / 16 * 2 ^ 24 + k % 16 * 2 ^ 20 + ent k), 0)) ∧
        ((∀ k < 256, ¬ wrong k) →
          ∃ T : STable, T.n = byte 0 ∧ (∀ st < 16, ∀ t < 16, T.entry st t = ent (16 * st + t)) ∧
            exec (.stload h mod sub a) s = .next (leaveAll false (modCtx read (cur s).ctx (fun c =>
              { c with classes := SMap.put c.classes sub.toNat T }))))))

/-- 13 R214, R219, R221, R222: the issue of the staged instructions. `stx` of one lane takes a place in its core's park table, sends its
transition and awaits the status; `stinit` of one lane writes both words, without the park bit, and wakes the lanes parked there; where two
active lanes name one object, every active lane takes trap 0x09. The numbers are the model's (log 6); that `stinit` acts as it issues is log
22, that lanes of all groups of the bundle are compared is log 34, and `sendWakes` sends the wake messages of 13 R214. 13 R211, R224:
`stload` of an image in one page whose checks all pass makes its table the class's; the table's entries are the image's. An image whose size
or reserved bytes are wrong is refused with reason 0x08, one with a wrong entry with reason 0x07, and a class that the kernel does not
declare with reason 0x09. That the image is read as the instruction issues is log 22, and the order of its checks and its %taddr log 33.
Here no reduction of the cluster is held; `coreMeets` counts the correctable errors that the read meets, and reads host memory for the
partition's function (01 R20, 22 R353), and at system scope a zero-length read follows (22 R354). -/
def Obligations.StagedIssueResults : Prop := StagedIssue ∧ StagedClassLoad

namespace Sys2Proof.Claims
open Sys2Proof.Machine

/-- A request performs transition t on an object in class c and state st by entry e of its table, on a page that is not logged, and with no error to
count (13 R208, R211, R213). -/
def Consults (s : State) (r : Req) (t c st e : Nat) : Prop :=
  let w := memRead s r.pa 8
  turnOf s r = true ∧ memBad s r.pa 16 = false ∧ countReads s r.pa 16 = s ∧ r.prop = false ∧ st = w % 16 ∧ c = w / 16 % 16 ∧ w / 2 ^ 9 % 2 ^ 7 = 0 ∧
    (∃ x tab, getCtx s r.ctx = some x ∧ SMap.find x.classes c = some tab ∧ st < tab.n ∧ e = tab.entry st t)

/-- The parts of an entry (13 R210). -/
def actOf (e : Nat) : Nat := e / 16 % 8

/-- The state with the object's words as an entry leaves them: payload, park bit, class, state, and the data word (13 R208, R213). -/
def moved (s : State) (r : Req) (x : DWord) (c e : Nat) (parked : Bool) : State :=
  let w := memRead s r.pa 8
  objWords s r.pa ((if e.testBit 11 then x.toNat % 2 ^ 48 else w / 2 ^ 16) * 2 ^ 16 + (if parked then 256 else 0) + c * 16 + e % 16)
    (if e / 512 % 4 ≥ 2 then x.toNat else memRead s (r.pa + 8) 8)

/-- The status word of a transition (13 R213). -/
def statusOf (c st e : Nat) (spilled : Bool) : Word :=
  BitVec.ofNat 32 (c * 2 ^ 12 + (if spilled then 2 ^ 11 else 0) + actOf e * 2 ^ 8 + e % 16 * 16 + st)

/-- The old data word, where the entry returns it (13 R213). -/
def oldOf (s : State) (r : Req) (e : Nat) : Option DWord :=
  if e / 512 % 4 = 1 ∨ e / 512 % 4 = 3 then some (at64 (memRead s (r.pa + 8) 8)) else none

/-- %tinfo of a staged fault (13 R218). -/
def faultInfo (chn : Bool) (reason c st t code e : Nat) : DWord :=
  at64 ((if chn then 2 ^ 40 else 0) + reason * 2 ^ 32 + c * 2 ^ 28 + st * 2 ^ 24 + t * 2 ^ 20 + code * 2 ^ 16 + e)

/-- The launch entry that a posting names stands at `pa` for its request, and nothing holds its read back: no clear, no earlier request of the
core there, and no reduction of its cluster, nor an error (13 R215). -/
def EntryAt (s : State) (r : Req) (target pa : Nat) : Prop :=
  ∃ l, checkAddr s r.ctx r.die target (Need.plainRead 128) s.fresh = .ok pa l ∧ (l.uns = true → unscrubbed s (granuleOf pa) = false) ∧
    clearingAt s pa = false ∧ (∀ q ∈ s.reqs, q.core = r.core → q.id < r.id → overlap q.pa q.size pa 128 = false) ∧
    getCombs s (clusterOf r.core) = [] ∧ cleanFor s r.ctx r.die target s.fresh = true ∧ coreBad s r.core pa 128 = false ∧
    memBad s pa 128 = false

/-- The read of a launch entry by the originator of a request: the errors that it corrects are counted, and in host memory it is a request of the
partition's function (01 R20, 22 R353). -/
def entryMet (s : State) (r : Req) (pa : Nat) : State :=
  match r.origin with
  | .thread _ _ _ | .copy _ _ | .link _ => coreMeets s r.core r.part pa 128
  | _ => readFrom s r.part pa 128

/-- What a release by a thread's transition waits for: the earlier loads and requests of its lanes in the kinds of storage of its mask; and whether
its core has performed what it had buffered (13 R213, 11 R185, R188). -/
def LanesClear (s : State) (r : Req) : Prop :=
  ∀ w u tok, r.origin = .thread w u tok → ∀ v ∈ tokThreads s w tok,
    (∀ p ∈ (thOf s r.wg v).pend, p.tok < r.stamp → p.readsIn r.ss = false) ∧ ownReqsIn s r.wg v r.id r.ss = false
def Drained (s : State) (r : Req) : Prop := drainedIn s r.core r.stamp (drainMask r.scope r.ss) = true

/-- The zero-length read that follows a request's release at system scope over host memory (22 R354, log 21). -/
def reqFlushed (s : State) (r : Req) : State :=
  if r.scope = 5 ∧ r.ss.getLsbD 3 = true then { s with dev := { s.dev with posted := s.dev.posted ++ [.read (r.part + 1) 0 0] } } else s

/-- The 128 bytes of a launch entry as the originator of a request reads them: a thread, a copy or a link operation through its core's buffer
(13 R215). -/
def entryBytes (s : State) (r : Req) (pa : Nat) : BitVec 1024 :=
  BitVec.ofNat 1024 (match r.origin with
    | .thread _ _ _ | .copy _ _ | .link _ => coreRead s r.core pa 128
    | _ => memRead s pa 128)

end Sys2Proof.Claims

/-- 13 R208 to R218: what a transition does at the home of its object, by the ACT of its entry: nothing more; park its lane, with the park
bit set; a fault, with the object as it was; wake the parked lanes; post the launch entry that the payload names, in the store, else in the context's
spill ring, and where both are full a thread has FULL and an engine is held; or go on to a chained
transition, whose object's clear its first access starts (10 R174). Each is answered to whoever sent it with the status of R213; `answerReq`
gives that answer, and `sendWakes` the wake messages. An entry with REL makes the transition of a thread wait for what it releases. That a posted entry is copied as it is, is log 36. -/
def Sys2Proof.Claims.StagedHomeResults : Prop :=
  ∀ (s : State) (k : Nat) (r : Req) (t c st e : Nat) (x va : DWord),
    s.reqs.find? (fun q => q.id == k) = some r → r.kind = .trans t x va → Consults s r t c st e →
    let o := r.obj va.toNat
    let w := memRead s r.pa 8
    let out := exec (.stagedTransition k) s
    let plain := e.testBit 8 = false
    (plain → actOf e = 0 → out = .next (answerReq (moved s r x c e (w.testBit 8)) r o t (.done (statusOf c st e false) (oldOf s r e)))) ∧
    (¬ plain → actOf e = 0 → r.byThread = true → r.held = false → LanesClear s r →
      (Drained s r → out = .next
        (answerReq (moved (reqFlushed s r) r x c e (w.testBit 8)) r o t (.done (statusOf c st e false) (oldOf s r e)))) ∧
      (¬ Drained s r → out = .next s)) ∧
    (actOf e = 1 → r.byThread = true → out = .next (answerReq (memWrite s r.pa 2 (w % 2 ^ 16 / 512 * 512 + 256 + w % 256)) r o t .park)) ∧
    (actOf e = 1 → r.byThread = false → out = .next (answerReq s r o t (.fault va (faultInfo false 1 c st t 15 e)))) ∧
    (actOf e = 2 → out = .next (answerReq s r o t (.fault va (faultInfo false 0 c st t (e / 2 ^ 12 % 16) e)))) ∧
    (plain → actOf e = 3 → out = .next (answerReq (if w.testBit 8 then sendWakes (moved s r x c e false) r.part (some r.pa) r.ctx
      else moved s r x c e false) r o t (.done (statusOf c st e false) (oldOf s r e)))) ∧
    (plain → actOf e = 4 → w.testBit 8 = false → w / 2 ^ 16 % 128 = 0 → ∀ pa, EntryAt s r (w / 2 ^ 16) pa →
      let m := moved (entryMet s r pa) r x c e false
      ((getPart s r.part).store.length < 1024 →
        out = .next (answerReq (modPart m r.part (fun p =>
          { p with store := p.store ++ [(entryBytes s r pa, r.ctx)] })) r o t (.done (statusOf c st e false) (oldOf s r e)))) ∧
      (1024 ≤ (getPart s r.part).store.length → ∀ y, getCtx s r.ctx = some y →
        (y.spill.length < 4096 → out = .next (answerReq (modCtx m r.ctx (fun z =>
          { z with spill := z.spill ++ [entryBytes s r pa] })) r o t (.done (statusOf c st e true) (oldOf s r e)))) ∧
        (4096 ≤ y.spill.length → r.byThread = true → out = .next (answerReq (entryMet s r pa) r o t .full)) ∧
        (4096 ≤ y.spill.length → r.byThread = false → out = .next (setReq (entryMet s r pa) { r with held := true })))) ∧
    (plain → actOf e = 5 → w.testBit 8 = false → cleanFor s r.ctx r.die (w / 2 ^ 16) s.fresh = true → ∀ pa l, checkAddr s r.ctx r.die (w / 2 ^ 16) (stagedNeed true true 0b1111) s.fresh = .ok pa l →
      out = .next (setReq (moved (startClear s l.uns pa) r x c e false) { r with
        pa := pa, prop := l.prop, vgran := w / 2 ^ 16 / 65536, held := false
        kind := .chain (e / 2 ^ 12 % 16) x (at64 (w / 2 ^ 16)) (statusOf c st e false, oldOf s r e) }))

/-- 13 R216, R217, R218: a chained transition moves its own object, and the answer is the first transition's status; a chained entry that
faults or parks answers a fault marked as chained, and the second object is as it was. -/
def Sys2Proof.Claims.ChainedTransitionResults : Prop :=
  ∀ (s : State) (k : Nat) (r : Req) (t c st e : Nat) (x va : DWord) (first : Word) (old : Option DWord),
    s.reqs.find? (fun q => q.id == k) = some r → r.kind = .chain t x va (first, old) → Consults s r t c st e → e.testBit 8 = false →
    let o := r.obj va.toNat
    let w := memRead s r.pa 8
    let out := exec (.chainedTransition k) s
    (actOf e = 0 → out = .next (answerReq (moved s r x c e (w.testBit 8)) r o t (.done first old))) ∧
    (actOf e = 1 → out = .next (answerReq s r o t (.fault va (faultInfo true 1 c st t 15 e)))) ∧
    (actOf e = 2 → out = .next (answerReq s r o t (.fault va (faultInfo true 0 c st t (e / 2 ^ 12 % 16) e)))) ∧
    (actOf e = 5 → out = .next (answerReq s r o t (.fault va (faultInfo true 2 c st t 14 e))))

/-- 13 R208 to R218: what a transition does at the home of its object, by the ACT of its entry: nothing more; park its lane, with the park bit
set; a fault, with the object as it was; wake the parked lanes; post the launch entry that the payload names, in the store, else in the
context's spill ring, and where both are full a thread has FULL and an engine is held; or go on to a chained transition, whose object's
clear its first access starts (10 R174). Each is answered to whoever sent it with the status of R213; `answerReq` gives that answer, and
`sendWakes` the wake messages. An entry with REL makes the transition of a thread wait for what it releases. That a posted entry is copied
as it is, is log 36. 13 R216, R217, R218: a chained transition moves its own object, and the answer is the first transition's status; a
chained entry that faults or parks answers a fault marked as chained, and the second object is as it was. -/
def Obligations.StagedTransitionResults : Prop := StagedHomeResults ∧ ChainedTransitionResults

/-- 13 R214, R215, 10 R179, 18 R324: the ends of waits. A wake message returns the lanes that sleep on its object to the ready set, to
execute their `stx` again; a lane that found no place in the park table or no fault record tries again; a sleep that is over lets its
lane go on. -/
def Obligations.WaitEndResults : Prop :=
  ∀ (s : State),
    (∀ core k pa ctx e, s.wakes[k]? = some (core, some pa, ctx) → (∀ x ∈ s.wakes.take k, x.1 ≠ core) → (getCore s core).parks = [e] → e.pa = some pa → e.wait = [] →
      (∀ t ∈ e.mask, (thOf s e.wg t).wait = .park pa) →
      exec (.parkWake core k) s = .next (e.mask.foldl (fun s t => modTh s e.wg t (fun th => { th with wait := .none }))
        (modCore { s with wakes := s.wakes.eraseIdx k } core (fun c => { c with parks := [] })))) ∧
    (∀ w t, (getWg s w).status = .resident → (thOf s w t).wait = .parkRetry →
      exec (.parkTableRetry w t) s = .next (modTh s w t (fun th => { th with wait := .none }))) ∧
    (∀ w t, (getWg s w).status = .resident → (thOf s w t).wait = .faultRetry →
      exec (.faultRecordRetry w t) s = .next (modTh s w t (fun th => { th with wait := .none }))) ∧
    (∀ w t, (getWg s w).status = .resident → (thOf s w t).live = true → (thOf s w t).wait = .sleep 0 →
      exec (.sleepEnd w t) s = .next (modTh s w t (fun th =>
        { th.advance (seqLen s (getWg s w) th.seqM) with wait := .none, relAt := none })))

namespace Sys2Proof.Claims
open Sys2Proof.Machine

/-- The workgroup's barrier n. -/
abbrev bar (s : State) (n : Nat) : Barrier := getBar (cur s) n

/-- The state with barrier n of the bundle's workgroup replaced. -/
def setBar (s : State) (n : Nat) (b : Barrier) : State := onCur s (fun g => { g with bars := modAt g.bars n (fun _ => b) })

/-- The bit of a group in a bitmap. -/
def bitOf (k : Nat) : BitVec 16 := 1#16 <<< k

/-- Whether a phase meets its condition (14 R231). -/
abbrev phaseMet (b : Barrier) : Prop := b.g ≤ (List.range 16).countP (fun k => b.arr.getLsbD k) ∧ b.e = 0

/-- The barrier after its phase has completed (14 R231). -/
def phaseDone (b : Barrier) : Barrier := { b with ph := !b.ph, lf := b.flt, arr := 0, flt := false, wait := 0 }

/-- A thread whose barrier wait has ended; in `bsync` the arrival is no longer noted and the region closes (14 R233, 18 R301, R305). -/
def waitOver (s : State) (sync : Bool) (th : Thread) : Thread :=
  let x := { th.advance (seqLen s (cur s) th.seqM) with wait := .none, relAt := none }
  if sync then { x with arrived := none, irs := x.pos, moves := x.moves + 1 } else x

/-- The completion test at barrier n: a phase that meets its condition completes, and the live lanes of the groups recorded as waiting go
on (14 R231). -/
def phaseTest (s : State) (n : Nat) : State :=
  let b := bar s n
  if phaseMet b then
    onCur s (fun g => { g with
      bars := modAt g.bars n phaseDone
      threads := g.threads.mapIdx (fun t th =>
        if b.wait.getLsbD (t / 32) && th.live && th.kind != .absent && (th.wait == .barrier n false || th.wait == .barrier n true) then
          waitOver s (th.wait == .barrier n true) th else th) })
  else s

/-- A barrier instruction's group names barrier n, and the instruction acts (14 R232, R233). -/
def AtBarrier (h : Hdr) (s : State) (k n : Nat) (a : Opnd) (imm : Word) : Prop :=
  Rising s.bundle.lanes ∧ OneGroup h true s k ∧ n = rd s ((acting h true s).headD 0) .n32 a imm ∧ n < (cur s).hdr.bars ∧
    (cur s).bars.length = (cur s).hdr.bars ∧ s.bundle.wg < s.wgs.length ∧ k < 16

end Sys2Proof.Claims

/-- 14 R229 to R233: what the barrier instructions do in a group, where no check fails, no engine arrival is held, the current phase has no
fault, nothing is left to release, and no wait on copies is over: `binit` sets G; `barrive` arrives, and answers the parity in its form that has a D; `bwait` ends at
once when its parity is past, else it waits; `bsync` arrives and then waits on the parity it arrived in; `bexpect` moves E; and `bqry`
answers the barrier's word. A phase that meets its condition completes and its waiting groups go on. -/
def Obligations.BarrierResults : Prop :=
  ∀ (h : Hdr) (d a b : Opnd) (imm : Word) (s : State) (k n : Nat), AtBarrier h s k n a imm →
    let x := bar s n
    let v := rd s ((acting h true s).headD 0) .n32 b imm
    let arrivedAt := setBar s n { x with arr := x.arr ||| bitOf k }
    let waitsAt (t : State) (sync : Bool) : State :=
      mapLanes (setBar t n { bar t n with wait := (bar t n).wait ||| bitOf k }) (fun u th => if u ∈ s.bundle.lanes then
        { th.tick with wait := .barrier n sync } else th)
    (1 ≤ v → v ≤ (cur s).groups.length → x.arr = 0 → x.e = 0 → x.wait = 0 →
      exec (.binit h a b imm) s = .next (leaveAll false (setBar s n { x with g := v }))) ∧
    (x.arr.getLsbD k = false → x.flt = false → NothingOut s (acting h true s) 1 →
      exec (.barrive h a imm) s = .next (leaveAll true (phaseTest arrivedAt n)) ∧
      (isUni d = true → exec (.barrivePh h d a imm) s = .next (leaveAll true (phaseTest
        (gotAll h d (fun _ => val .b32 (if x.ph then 1 else 0)) arrivedAt) n))) ∧
      ((∀ u ∈ s.bundle.lanes, (lane s u).arrived = none) →
        let noted := mapLanes arrivedAt (fun u th => if u ∈ s.bundle.lanes then { th with arrived := some x.ph } else th)
        (phaseMet { x with arr := x.arr ||| bitOf k } → x.wait.getLsbD k = false →
          exec (.bsync h a imm) s = .next (leaveAll true (mapLanes (phaseTest noted n) (fun u th =>
            if u ∈ s.bundle.lanes then { th with arrived := none } else th)))) ∧
        (¬ phaseMet { x with arr := x.arr ||| bitOf k } → exec (.bsync h a imm) s = .next (waitsAt noted true)))) ∧
    (x.ph ≠ v.testBit 0 → x.lf = false → exec (.bwait h a b imm) s = .next (leaveAll false s)) ∧
    (x.ph = v.testBit 0 → exec (.bwait h a b imm) s = .next (waitsAt s false)) ∧
    (let e := x.e + (BitVec.ofNat 32 v).toInt;
      -512 ≤ e → e ≤ 511 → x.held = [] → x.flt = false → (∀ th ∈ (cur s).threads, th.wait.chans (cur s) = none) →
      exec (.bexpect h a b imm) s = .next (leaveAll true (phaseTest (setBar s n { x with e := e }) n))) ∧
    exec (.bqry h d a imm) s = .next (leaveAll false (gotAll h d (fun _ => val .b32
      ((if x.ph then 2 ^ 31 else 0) + (if x.flt then 2 ^ 30 else 0) + (x.g - 1) * 2 ^ 26 + (x.e % 2 ^ 10).toNat * 2 ^ 16 + x.arr.toNat))
      s))

namespace Sys2Proof.Claims
open Sys2Proof.Machine

/-- Trap 0x0E of a barrier or a queue (14 R234). -/
def misused (kind n reason : Nat) : Nat × DWord × DWord := (0x0E, at64 (kind * 2 ^ 16 + n % 256 * 2 ^ 8 + reason), 0)

/-- An instruction that acts once for a group meets a trap, by the operands of its lowest active lane: every lane of the group in the bundle takes it
(06 R100). -/
def GroupTakes (i : Instr) (h : Hdr) (helpers : Bool) (f : State → Nat → Option (Nat × DWord × DWord)) : Prop :=
  GroupRaisesIf i h helpers (fun s u c => f s u = some c)

end Sys2Proof.Claims

/-- 14 R233, R234: the misuses of barriers, the first check that fails, in every lane of the group in the bundle; and a wait that ends on a phase with a faulted copy or link
operation takes the trap of its record, 0x0D or 0x18 (log 108 names one more), with the record's fields. The number in %tinfo is its low 8
bits (log 52). -/
def Sys2Proof.Claims.BarrierTraps : Prop :=
  ∀ (h : Hdr) (d a b : Opnd) (imm : Word),
    let first (f : State → Nat → Nat → Option Nat) (s : State) (u : Nat) : Option (Nat × DWord × DWord) :=
      let n := rd s u .n32 a imm
      if n ≥ (cur s).hdr.bars then some (misused 0 n 1) else (f s u n).map (misused 0 n)
    let again (s : State) (u n : Nat) : Option Nat := if (bar s n).arr &&& bitOf (u / 32) ≠ 0 then some 4 else none
    GroupTakes (.binit h a b imm) h true (first (fun s u n =>
      let v := rd s u .n32 b imm
      if v < 1 ∨ v > (cur s).groups.length then some 2
      else if (bar s n).arr ≠ 0 ∨ (bar s n).e ≠ 0 ∨ (bar s n).wait ≠ 0 then some 3 else none)) ∧
    GroupTakes (.barrive h a imm) h true (first again) ∧
    GroupTakes (.barrivePh h d a imm) h true (first again) ∧
    GroupTakes (.bsync h a imm) h true (first (fun s u n => if (lane s (s.bundle.lanes.headD 0)).arrived = none then again s u n else none)) ∧
    GroupTakes (.bexpect h a b imm) h true (first (fun s u n =>
      let e := (bar s n).e + (BitVec.ofNat 32 (rd s u .n32 b imm)).toInt
      if e < -512 ∨ e > 511 then some 5 else none)) ∧
    GroupTakes (.bqry h d a imm) h true (first (fun _ _ _ => none)) ∧
    GroupTakes (.bwait h a b imm) h true (fun s u =>
      let n := rd s u .n32 a imm
      let x := bar s n
      if n ≥ (cur s).hdr.bars then some (misused 0 n 1)
      else if x.ph ≠ (rd s u .n32 b imm).testBit 0 ∧ x.lf = true then
        some (x.frec.cause, x.frec.tinfo, x.frec.taddr) else none)

namespace Sys2Proof.Claims
open Sys2Proof.Machine

/-- The workgroup's queue n. -/
abbrev que (s : State) (n : Nat) : Queue := getQueue (cur s) n

/-- The state with queue n of the bundle's workgroup replaced. -/
def setQue (s : State) (n : Nat) (q : Queue) : State := onCur s (fun g => { g with queues := modAt g.queues n (fun _ => q) })

/-- A queue instruction's group names queue n, which has a depth (14 R232, R236). -/
def AtQueue (h : Hdr) (helpers : Bool) (s : State) (k n : Nat) (a : Opnd) (imm : Word) : Prop :=
  Rising s.bundle.lanes ∧ OneGroup h helpers s k ∧ n = rd s ((acting h helpers s).headD 0) .n32 a imm ∧ n < (cur s).hdr.queues ∧
    (cur s).queues.length = (cur s).hdr.queues ∧ s.bundle.wg < s.wgs.length

/-- An allowance set (14 R235). -/
def allowing (q : Queue) (k n : Nat) : Queue := { q with allow := SMap.set 0 q.allow k n }

end Sys2Proof.Claims

/-- 14 R235, R236: what the queue instructions do in a group, where no check fails and nothing is left to release: `qinit` sets the depth
and clears the allowances; `qallow` sets one; `qpush` spends one and appends its handle, or waits for one; `qpop` and `qtry` remove the
head entry into D and give its allowance back; on an empty queue `qpop` waits and `qtry` answers 0. Here no other group waits at the
queue. -/
def Obligations.QueueResults : Prop :=
  ∀ (h : Hdr) (d a b c : Opnd) (imm : Word) (s : State) (k n : Nat),
    (AtQueue h true s k n a imm →
      let q := que s n
      let v (o : Opnd) (i : Word) : Nat := rd s ((acting h true s).headD 0) .n32 o i
      (1 ≤ v b imm → v b imm ≤ 64 → q.fifo = [] → q.pushW = [] → q.popW = [] →
        exec (.qinit h a b imm) s = .next (leaveAll false (setQue s n { q with depth := v b imm, allow := [] }))) ∧
      (imm = 0 → q.depth ≠ 0 → q.pushW = [] → v b 0 < (cur s).groups.length → v c 0 ≤ 64 →
        ((allowing q (v b 0) (v c 0)).allow.map Prod.snd).sum + q.fifo.length ≤ q.depth →
        exec (.qallow h a b c) s = .next (leaveAll false (setQue s n (allowing q (v b 0) (v c 0)))))) ∧
    (AtQueue h false s k n a imm →
      let q := que s n
      let al := acting h false s
      let x := rd64 s (al.headD 0) b
      let mine := SMap.get 0 q.allow k
      q.depth ≠ 0 → q.popW = [] → q.pushW = [] →
      (x ≠ 0 → 0 < mine → NothingOut s al 1 →
        exec (.qpush h a b imm) s = .next (leaveAll true (setQue s n { allowing q k (mine - 1) with fifo := q.fifo ++ [(x, k)] }))) ∧
      (x ≠ 0 → mine = 0 →
        exec (.qpush h a b imm) s = .next (mapLanes (setQue s n { q with pushW := [k] }) (fun u th =>
          if u ∈ s.bundle.lanes then { th with wait := .push n x } else th))) ∧
      (isUni d = true → ∀ y p rest, q.fifo = (y, p) :: rest →
        let t := leaveAll true (gotAll h d (fun _ => val .b64 y.toNat)
          (setQue s n { allowing q p (SMap.get 0 q.allow p + 1) with fifo := rest }))
        exec (.qpop h d a imm) s = .next t ∧ exec (.qtry h d a imm) s = .next t) ∧
      (isUni d = true → q.fifo = [] →
        exec (.qpop h d a imm) s = .next (mapLanes (setQue s n { q with popW := [k] }) (fun u th =>
          if u ∈ s.bundle.lanes then { th.tick with wait := .pop n d } else th)) ∧
        exec (.qtry h d a imm) s = .next (leaveAll false (gotAll h d (fun _ => val .b64 0) s))))

/-- 14 R234, R236: the misuses of queues, the first check that fails, in every lane of the group in the bundle. -/
def Sys2Proof.Claims.QueueTraps : Prop :=
  ∀ (h : Hdr) (d a b c : Opnd) (imm : Word),
    let first (imm : Word) (f : State → Nat → Nat → Option Nat) (s : State) (u : Nat) : Option (Nat × DWord × DWord) :=
      let n := rd s u .n32 a imm
      if n ≥ (cur s).hdr.queues then some (misused 1 n 1) else (f s u n).map (misused 1 n)
    let used (s : State) (n : Nat) : Option Nat := if (que s n).depth = 0 then some 6 else none
    GroupTakes (.qinit h a b imm) h true (first imm (fun s u n =>
      let v := rd s u .n32 b imm
      if v < 1 ∨ v > 64 then some 8
      else if (que s n).fifo ≠ [] ∨ (que s n).pushW ≠ [] ∨ (que s n).popW ≠ [] then some 7 else none)) ∧
    GroupTakes (.qallow h a b c) h true (first 0 (fun s u n =>
      let k := rd s u .n32 b 0
      let x := rd s u .n32 c 0
      match used s n with
      | some r => some r
      | none => if k ≥ (cur s).groups.length ∨ x > 64 ∨
          ((allowing (que s n) k x).allow.map Prod.snd).sum + (que s n).fifo.length > (que s n).depth then some 9 else none)) ∧
    GroupTakes (.qpush h a b imm) h false (first imm (fun s u n => match used s n with
      | some r => some r
      | none => if rd64 s u b = 0 then some 10 else none)) ∧
    GroupTakes (.qpop h d a imm) h false (first imm (fun s _ n => used s n)) ∧
    GroupTakes (.qtry h d a imm) h false (first imm (fun s _ n => used s n))

namespace Sys2Proof.Claims
open Sys2Proof.Machine

/-- Register j of the command block that an operand names, in a group (14 R239). -/
def blk (s : State) (k : Nat) (a : Opnd) (j : Nat) : Nat := ((getGroup (cur s) k).ru (regNum a + j)).toNat

/-- The command of a block: SRC, DST, LEN, CTL and COBJ, from the lowest register up (14 R239). -/
def cmdOf (s : State) (k : Nat) (a : Opnd) : Command :=
  { src := at64 (blk s k a 0 + blk s k a 1 * 2 ^ 32), dst := at64 (blk s k a 2 + blk s k a 3 * 2 ^ 32), len := blk s k a 4
    ctl := blk s k a 5, cobj := at64 (blk s k a 6 + blk s k a 7 * 2 ^ 32) }

/-- A well-formed command block (14 R239, R240). -/
abbrev CmdOk (c : Command) (tensor : Bool) : Prop :=
  c.ctl / 2 ^ 2 % 2 ^ 13 = 0 ∧ c.ctl / 2 ^ 29 < 6 ∧ (c.ctl.testBit 15 = false → c.src.toNat < 2 ^ 32) ∧
    (c.ctl.testBit 16 = false → c.dst.toNat < 2 ^ 32) ∧ (c.ctl.testBit 26 = false → c.cobj = 0) ∧
    (if tensor then c.len = 0 else c.len % 4 = 0 ∧ 4 ≤ c.len ∧ c.len ≤ 2 ^ 30)

/-- The first check of a plain copy that fails, from the form of its block on: its trap, as 14 R244 orders them. -/
def cpyTrap (g : Wg) (c : Command) : Option (Nat × DWord × DWord) :=
  if ¬ CmdOk c false then some (0x0C, 2, 0)
  else if c.ctl.testBit 21 = true ∧ c.ctl / 2 ^ 17 % 16 ≥ g.hdr.bars then some (0x0C, 3, 0)
  else if c.src.toNat % 4 ≠ 0 then some (0x04, 0, c.src)
  else if c.dst.toNat % 4 ≠ 0 then some (0x04, 0, c.dst)
  else if c.ctl.testBit 26 = true ∧ c.cobj.toNat % 16 ≠ 0 then some (0x04, 0, c.cobj)
  else if c.ctl.testBit 15 = false ∧ c.src.toNat + c.len > g.hdr.sdata then some (0x0A, 0x100, c.src)
  else if c.ctl.testBit 16 = false ∧ c.dst.toNat + c.len > g.hdr.sdata then some (0x0A, 0x200, c.dst)
  else none

/-- A group that may issue copies: the producer (05 R87, 14 R237). -/
abbrev Producer (s : State) (k : Nat) : Prop := k = (cur s).hdr.prodg ∧ (cur s).hdr.prodg ≠ 0xFF

/-- A state in which a copy that passes its checks is issued: a record is free, and nothing is left to release (14 R244). -/
def CopyReady (h : Hdr) (s : State) (k : Nat) : Prop :=
  Rising s.bundle.lanes ∧ OneGroup h false s k ∧ Producer s k ∧ copyRecordFree s (cur s).core = true ∧
    NothingOut s (acting h false s) 1

/-- The state after the issue of a copy: the issue pointer of its channel moves by its length, the ticket is its new value, and the copy
stands last (14 R244). -/
def copyIssued (h : Hdr) (d : Opnd) (s : State) (c : Command) (len : Nat) (desc : Option Desc) : State :=
  let ch := c.ctl % 4
  let ticket := (getChan (cur s) ch).ip + BitVec.ofNat 32 len
  leaveAll true (gotAll h d (fun _ => val .b32 ticket.toNat) (onCur s (fun g => { g with
    chans := modAt g.chans ch (fun x => { x with ip := ticket })
    copies := g.copies ++ [{ num := g.copyNum, chan := ch, ticket := ticket, len := len, ctl := BitVec.ofNat 32 c.ctl, src := c.src
                             dst := c.dst, cobj := c.cobj, desc := desc, chunk := 0, failed := none, relAt := 0, begun := false
                             moved := false, held := none }]
    copyNum := g.copyNum + 1 })))

/-- The lanes of the bundle wait (04 R62). -/
def waits (s : State) (w : Wait) : State := mapLanes s (fun u th => if u ∈ s.bundle.lanes then { th.tick with wait := w } else th)

/-- Whether pointer value p has reached t (14 R237). -/
abbrev hasReached (p t : Word) : Prop := (p - t).toNat < 2 ^ 31

/-- The fault of a channel of which a wait for t learns (14 R246). -/
def faultBelow (s : State) (ch : Nat) (t : Word) : Option FRec :=
  (getChan (cur s) ch).fault.bind (fun f => if hasReached f.1 t then none else some f.2)

/-- The workgroup's channel without its fault record. -/
def cleared (s : State) (ch : Nat) : State := onCur s (fun g => { g with chans := modAt g.chans ch (fun x => { x with fault := none }) })

end Sys2Proof.Claims

/-- 14 R237, R239, R240, R244: `cpy` and `cpyt` of the producer group, where no check fails, a record is free and nothing is left to
release: the copy stands last on its channel, and its ticket is the issue pointer moved by its length. A descriptor and the checks of a
tensor copy are the model's functions `toDesc` and `commandCheck`. -/
def Sys2Proof.Claims.CopyResults : Prop :=
  ∀ (h : Hdr) (d a b : Opnd) (imm : Word) (s : State) (k : Nat), isUni d = true → CopyReady h s k →
    let c := cmdOf s k a
    (cpyTrap (cur s) c = none → exec (.cpy h d a) s = .next (copyIssued h d s c c.len none)) ∧
    (∀ desc,
      let t := rd s ((acting h false s).headD 0) .n32 b imm
      t % 16 = 0 → t + 256 ≤ (cur s).hdr.sdata → spBad (cur s) t 256 = none → toDesc (spRead (cur s) t 256) = some desc →
      commandCheck (cur s) c (some desc) = none →
      exec (.cpyt h d a b imm) s = .next (copyIssued h d s c desc.length (some desc)))

/-- 14 R244, R248: the traps of `cpy` and `cpyt`, the first check that fails, in every lane of the group in the bundle; those of a tensor copy up to its descriptor. The order of the
checks of a tensor copy is log 53. -/
def Sys2Proof.Claims.CopyIssueTraps : Prop :=
  ∀ (h : Hdr) (d a b : Opnd) (imm : Word),
    GroupTakes (.cpy h d a) h false (fun s u =>
      if ¬ Producer s (u / 32) then some (0x0C, 1, 0) else cpyTrap (cur s) (cmdOf s (u / 32) a)) ∧
    GroupTakes (.cpyt h d a b imm) h false (fun s u =>
      let t := rd s u .n32 b imm
      if ¬ Producer s (u / 32) then some (0x0C, 1, 0)
      else if t % 16 ≠ 0 then some (0x04, 0, at64 t)
      else if t + 256 > (cur s).hdr.sdata then some (0x0A, 0x100, at64 t)
      else match spBad (cur s) t 256 with
        | some x => some (0x15, 0, at64 x)
        | none => if toDesc (spRead (cur s) t 256) = none then some (0x0C, 4, 0)
          else if ¬ CmdOk (cmdOf s (u / 32) a) true then some (0x0C, 2, 0) else none)

/-- 14 R237, R239, R240, R244: `cpy` and `cpyt` of the producer group, where no check fails, a record is free and nothing is left to release:
the copy stands last on its channel, and its ticket is the issue pointer moved by its length. A descriptor and the checks of a tensor copy
are the model's functions `toDesc` and `commandCheck`. 14 R244, R248: the traps of `cpy` and `cpyt`, the first check that fails, in every
lane of the group in the bundle; those of a tensor copy up to its descriptor. The order of the checks of a tensor copy is log 53. -/
def Obligations.CopyIssueResults : Prop := CopyResults ∧ CopyIssueTraps

/-- 14 R246, R248: `cpwp` reads the write pointer of a channel; `cpwait` goes on when the pointer has reached its target, else waits, and
`cpfence` when every copy issued on the channels of its mask has ended; each takes trap 0x0D for a fault below its target, whose
record is cleared, `cpfence` for the one of the lowest channel that has one (log 119). A channel above 3, and a target beyond the issue pointer, trap
0x0C. The number of a wait is the model's (log 6). -/
def Obligations.CopyWaitResults : Prop :=
  ∀ (h : Hdr) (d a b : Opnd) (imm : Word),
    (∀ s k, Rising s.bundle.lanes → OneGroup h true s k →
      let ch := rd s ((acting h true s).headD 0) .n32 a imm
      let t := BitVec.ofNat 32 (rd s ((acting h true s).headD 0) .n32 b imm)
      let m := rd s ((acting h true s).headD 0) .n32 a imm
      let mine := (cur s).copies.filter (fun c => m.testBit c.chan)
      (∀ c ∈ (cur s).copies, c.chan < 4) →
      (ch ≤ 3 → exec (.cpwp h d a imm) s = .next (leaveAll false (gotAll h d (fun _ =>
        val .b32 (getChan (cur s) ch).wp.toNat) s))) ∧
      (ch ≤ 3 → hasReached (getChan (cur s) ch).ip t →
        (hasReached (getChan (cur s) ch).wp t → faultBelow s ch t = none → exec (.cpwait h a b imm) s = .next (leaveAll false s)) ∧
        (¬ hasReached (getChan (cur s) ch).wp t → exec (.cpwait h a b imm) s =
          .next (waits (withFresh s (s.fresh + 1)) (.cpwait ch t s.fresh)))) ∧
      (mine = [] → (∀ c < 4, m.testBit c = true → faultBelow s c (getChan (cur s) c).ip = none) →
        exec (.cpfence h a imm) s = .next (leaveAll false s)) ∧
      (mine ≠ [] → exec (.cpfence h a imm) s =
        .next (waits (withFresh s (s.fresh + 1)) (.cpfence (m % 16) (mine.map Copy.num) s.fresh))) ∧
      (∀ f, (∀ v ∈ s.bundle.lanes, (lane s v).pend = [] → (lane s v).th = false) →
        let trapped (c : Nat) : State := mapLanes (cleared s c) (fun v th =>
          if v ∈ s.bundle.lanes then caught s v (0x0D, f.tinfo, f.taddr) th else th)
        (ch ≤ 3 → hasReached (getChan (cur s) ch).ip t → hasReached (getChan (cur s) ch).wp t → faultBelow s ch t = some f →
          exec (.cpwait h a b imm) s = .next (trapped ch)) ∧
        (∀ c < 4, mine = [] → m.testBit c = true → faultBelow s c (getChan (cur s) c).ip = some f →
          (∀ c' < c, m.testBit c' = true → faultBelow s c' (getChan (cur s) c').ip = none) →
          exec (.cpfence h a imm) s = .next (trapped c)))) ∧
    GroupTakes (.cpwp h d a imm) h true (fun s u => if rd s u .n32 a imm > 3 then some (0x0C, 7, 0) else none) ∧
    GroupTakes (.cpwait h a b imm) h true (fun s u =>
      let ch := rd s u .n32 a imm
      if ch > 3 then some (0x0C, 7, 0)
      else if ¬ hasReached (getChan (cur s) ch).ip (BitVec.ofNat 32 (rd s u .n32 b imm)) then some (0x0C, 6, 0) else none)

namespace Sys2Proof.Claims
open Sys2Proof.Machine

/-- The copy at the head of its channel, of a resident workgroup none of whose threads waits (14 R245). -/
def Heads (s : State) (w ch : Nat) (c : Copy) : Prop :=
  (getWg s w).status = .resident ∧ (∃ x, getCtx s (getWg s w).ctx = some x ∧ x.dead = false) ∧ (∀ th ∈ (getWg s w).threads, th.wait = .none) ∧
    (getWg s w).copies.find? (fun x => x.chan == ch) = some c ∧ c.chan = ch ∧ w < s.wgs.length

/-- The state with a workgroup's copy changed, and its channel. -/
def copyTo (s : State) (w : Nat) (c : Copy) (f : Copy → Copy) (k : Channel → Channel) : State :=
  modWg s w (fun g => { g with copies := g.copies.map (fun x => if x.num = c.num then f x else x), chans := modAt g.chans c.chan k })

/-- The reason for which a region of a context turns n bytes at a displacement from a handle away, by the checks in order; a copy's source
needs R, its destination W, and a completion object a staged region (14 R238, R247). -/
def turnedAway (x : Ctx) (hd : DWord) (o n : Nat) (wr obj : Bool) : Option Nat :=
  match SMap.find x.regions (hd.toNat / 2 ^ 44) with
  | none => some 1
  | some r =>
    let g := hd.toNat / 2 ^ 32 % 2 ^ 12
    if g = 0 ∨ g ≠ r.gen then some 2
    else if hd.toNat % 2 ^ 32 + o + n > r.len then some 3
    else if obj = false ∧ (if wr then r.w else r.r) = false then some 4
    else if r.staged ≠ obj then some 5 else none

/-- The fault record of a copy (14 R247). -/
def copyFault (c : Copy) (reason : Nat) (addr : DWord) : FRec :=
  { taddr := addr, tinfo := at64 (c.ticket.toNat * 2 ^ 32 + c.chan * 2 ^ 10 + reason), cause := 0x0D }

/-- The state in which channel ch of workgroup w is the latest that its core's streamer has served (14 R237). -/
def turned (s : State) (w ch : Nat) : State :=
  modCore s (getWg s w).core (fun x => { x with served := (w, ch) :: x.served })

/-- The state in which a copy has met a fault: its record, and the channel's, which takes it or sets MORE (14 R247). -/
def copyFaulted (s : State) (w : Nat) (c : Copy) (reason : Nat) (addr : DWord) : State :=
  copyTo s w c (fun x => { x with failed := some (copyFault c reason addr) }) (fun x => { x with fault := match x.fault with
    | some f => some (f.1, { f.2 with tinfo := f.2.tinfo ||| 2 ^ 8 })
    | none => some (c.ticket - BitVec.ofNat 32 c.len, copyFault c reason addr) })

end Sys2Proof.Claims

/-- 14 R237, R245, R247: a chunk of a plain copy from a region to scratchpad, on a channel that has not been served yet,
writes its bytes and, where it is not the last, moves the write pointer past them; one whose handle the region table turns away meets a copy
fault, and writes nothing. The delivered copy's completion sets the write pointer to the ticket (log 118) and frees the record, with an
arrival at its barrier where it asks for one; here no transition is asked for, nothing is left to drain, no reduction of the cluster is
held, and the arrival completes no phase. `coreMeets` counts the correctable errors that the read meets, and reads host memory for
the partition's function (01 R20, 22 R353); at a release at system scope a zero-length read follows (22 R354). A channel that was served does nothing
while another with work has not been served since. That a chunk is one step is log 54, the
address in a fault's record log 55, and that it goes through the core's buffer log 56. -/
def Obligations.CopyEventResults : Prop :=
  ∀ (s : State) (w ch : Nat) (c : Copy), Heads s w ch c →
    (∀ x ∈ workOf s (getWg s w).core, x ≠ (w, ch) → (w, ch) ∈ (getCore s (getWg s w).core).served →
      x ∉ (getCore s (getWg s w).core).served.takeWhile (· != (w, ch)) → exec (.copyChunk w ch) s = .next s) ∧
    (∀ x, getCtx s (getWg s w).ctx = some x → c.failed = none → 4096 * c.chunk < c.len → c.desc = none → c.ctl.getLsbD 15 = true →
      c.ctl.getLsbD 16 = false → SMap.wf 0 (getWg s w).data = true → (w, ch) ∉ (getCore s (getWg s w).core).served →
      getCombs s (clusterOf (getWg s w).core) = [] →
      let o := 4096 * c.chunk
      let n := min 4096 (c.len - o)
      let y := c.dst.toNat + o
      (∀ r, turnedAway x c.src o n false false = none → SMap.find x.regions (c.src.toNat / 2 ^ 44) = some r →
        let pa := r.base + c.src.toNat % 2 ^ 32 + o
        clearingAt s pa = false → clearingAt s (pa + n - 1) = false → coreBad s (getWg s w).core pa n = false →
        ∃ D, SMap.wf 0 D = true ∧
          (∀ z, SMap.get 0 D z = if y ≤ z ∧ z < y + n then coreByte s (getWg s w).core (pa + (z - y)) else SMap.get 0 (getWg s w).data z) ∧
          exec (.copyChunk w ch) s = .next (copyTo (modWg (coreMeets (turned s w ch) (getWg s w).core (getWg s w).part pa n) w (fun g =>
              { g with data := D, badd := leftBad g.badd [0] n (fun _ => y) })) w c
            (fun x => { x with chunk := x.chunk + 1, relAt := s.fresh })
            (fun x => if c.len ≤ 4096 * (c.chunk + 1) then x
              else { x with wp := c.ticket - BitVec.ofNat 32 (c.len - 4096 * (c.chunk + 1)) }))) ∧
      (∀ r, turnedAway x c.src o n false false = some r →
        exec (.copyChunk w ch) s = .next (copyFaulted (turned s w ch) w c r c.src))) ∧
    (c.failed = none → c.len ≤ 4096 * c.chunk → c.held = none → c.ctl.getLsbD 26 = false →
      (c.ctl.getLsbD 28 = true → 2 ≤ c.ctl.toNat / 2 ^ 29 → drained s (getWg s w).core c.relAt = true) →
      let rest : List Copy := (getWg s w).copies.filter (fun x => x.num != c.num)
      let met : State := if c.begun = false ∧ c.ctl.getLsbD 28 = true ∧ c.ctl.toNat / 2 ^ 29 = 5 then
        { s with dev := { s.dev with posted := s.dev.posted ++ [.read ((getWg s w).part + 1) 0 0] } } else s
      let t : State := modWg met w (fun g => { g with copies := rest, chans := modAt g.chans ch (fun x => { x with wp := c.ticket }) })
      let bn := c.ctl.toNat / 2 ^ 17 % 16
      let b := getBar (getWg s w) bn
      (∀ b' ∈ (getWg s w).bars, b'.held = []) →
      (c.ctl.getLsbD 21 = false → exec (.copyCompletion w ch) s = .next t) ∧
      (c.ctl.getLsbD 21 = true → -512 ≤ b.e - 1 → ¬ phaseMet { b with e := b.e - 1 } →
        exec (.copyCompletion w ch) s = .next (modBar t w bn (fun x => { x with e := x.e - 1 }))))

namespace Sys2Proof.Claims
open Sys2Proof.Machine

/-- The lanes of a group, as a mask, that keep an Anvil instruction from issuing: each that is not live, not real, or not active
(04 R68, 15 R254). -/
def missing (h : Hdr) (s : State) (k : Nat) : Nat :=
  (((List.range 32).filter (fun l => !activeIn h false (lane s (32 * k + l)))).map (fun l => 2 ^ l)).sum

/-- A whole group issues an Anvil instruction, and its workgroup holds the array `x` (15 R254). -/
def OnArray (h : Hdr) (s : State) (k : Nat) (x : Anvil) : Prop :=
  Rising s.bundle.lanes ∧ OneGroup h false s k ∧ missing h s k = 0 ∧ (cur s).anvil = some x ∧ s.bundle.wg < s.wgs.length

/-- The state in which an instruction of group k has been accepted by the array `x`: it stands last in the queue, with its arrival, and has done
nothing yet; `span` is the model's function for the data addresses that a command accesses (15 R252, log 58). -/
def queued (s : State) (k : Nat) (x : Anvil) (arv : Option Nat) (cmd : ACmd) : State :=
  onCur s (fun g => { g with anvil := some { x with
    queue := x.queue ++ [{ num := x.jobNum, grp := k, moves := groupMoves g k, arv := arv, cmd := cmd, span := cmd.span, got := [], wrote := 0
                           acted := false, errs := [] }]
    jobNum := x.jobNum + 1 } })

/-- The queue of the array `x` of workgroup w is `j` and then `js`; `j` does `cmd`, and has done nothing of it yet (15 R252). -/
def Begins (s : State) (w : Nat) (x : Anvil) (j : AJob) (js : List AJob) (cmd : ACmd) : Prop :=
  (getWg s w).anvil = some x ∧ x.wf = true ∧ x.queue = j :: js ∧ (∀ i ∈ js, i.num ≠ j.num) ∧ j.cmd = cmd ∧ j.acted = false ∧ j.got = [] ∧
    j.wrote = 0 ∧ w < s.wgs.length ∧ ∀ b ∈ (getWg s w).bars, b.held = []

/-- The state in which `j` has done its work without an error, and left the array as `y` (15 R252). -/
def worked (s : State) (w : Nat) (y : Anvil) (j : AJob) (js : List AJob) : State :=
  modWg s w (fun g => { g with anvil := some { y with queue := { j with acted := true, got := [], errs := [] } :: js } })

/-- A block format, by its code (15 R251). -/
abbrev blockFmt (f : Nat) : Prop := f < 3

/-- Magnitude bits of a block format, or bits of an integer one (15 R251). -/
def fmtBits (f : Nat) : Nat := if f = 0 then 2 else if f = 1 then 4 else if f = 2 then 7 else if f = 3 then 8 else 4

/-- Bytes of a tile of a format (03 R54, R55). -/
def tileSize (f : Nat) : Nat := if blockFmt f then 256 * (fmtBits f + 1) + 128 else 256 * fmtBits f

/-- The bit of plane p of a tile at a, of element k of a line (03 R54). -/
def tileAt (g : Wg) (a p line k : Nat) : Bool := (SMap.get 0 g.data (a + 256 * p + 2 * line + k / 8)).getLsbD (k % 8)

/-- Element k of a line of a tile at a, in halves of its unit for a block format (03 R54, R55, 15 R256). -/
def tileVal (g : Wg) (f a line k : Nat) : Int :=
  let n := fmtBits f
  let sum (p : Nat) : Int := ((List.range n).map (fun j => if tileAt g a (p + j) line k then (2 : Int) ^ j else 0)).sum
  if blockFmt f then
    let pe := (SMap.get 0 g.data (a + 256 * (n + 1) + line)).getLsbD (k / 2)
    (if tileAt g a 0 line k then -1 else 1) * sum 1 * (if pe then 1 else 2)
  else sum 0 - (if tileAt g a (n - 1) line k then 2 ^ n else 0)

/-- The exponent of a line of a tile whose exponent vector is at e (15 R255, R256). -/
def tileExp (g : Wg) (f e line : Nat) : Nat := if blockFmt f then (SMap.get 0 g.data (e + line)).toNat else 127

/-- The checks of a tile operand and of an arrival pass (15 R254). -/
def TileOk (s : State) (arv : Bool) (bar : BitVec 4) (f a e : Nat) : Prop :=
  (arv = true → bar.toNat < (cur s).hdr.bars) ∧ a % 256 = 0 ∧ a + tileSize f ≤ (cur s).hdr.sdata ∧
    (blockFmt f → e % 128 = 0 ∧ e + 128 ≤ (cur s).hdr.sdata)

/-- The barrier at which an instruction arrives. -/
def arrivedAt (arv : Bool) (bar : BitVec 4) : Option Nat := if arv then some bar.toNat else none

/-- An element of an accumulation (15 R258). -/
def accOf (x : Word) (p : Int) (ea eb : Nat) (k : Int) : Word :=
  let v := FV.ofBits .f32 false x.toNat
  match v with
  | .nan _ => 0x7FC00000
  | .inf _ => if ea = 0xFF ∨ eb = 0xFF then 0x7FC00000 else x
  | _ => if ea = 0xFF ∨ eb = 0xFF then 0x7FC00000
    else BitVec.ofNat 32 (sumOf .f32 { rm := .rne, ftz := false } [v, .num (decide (p < 0)) p.natAbs ((ea : Int) + eb - 254 + k)]).1

/-- The rectangle that an instruction names by a word, or the whole bank (15 R259). -/
def rectAt (s : State) (u : Nat) (sub : BitVec 4) (c : Opnd) : Rect :=
  let x := rd s u .n32 c 0
  if sub.getLsbD 1 then { row := x % 2 ^ 7, col := x / 2 ^ 8 % 2 ^ 7, h := x / 2 ^ 16 % 2 ^ 7 + 1, w := x / 2 ^ 24 % 2 ^ 7 + 1 }
  else { row := 0, col := 0, h := 128, w := 128 }

/-- A rectangle lies in the bank, and its word has no reserved bit (15 R259). -/
abbrev RectOk (s : State) (u : Nat) (sub : BitVec 4) (c : Opnd) : Prop :=
  sub.getLsbD 1 = true → (rd s u .n32 c 0).testBit 7 = false ∧ (rd s u .n32 c 0).testBit 15 = false ∧ (rd s u .n32 c 0).testBit 23 = false ∧
    (rd s u .n32 c 0).testBit 31 = false ∧ (rectAt s u sub c).row + (rectAt s u sub c).h ≤ 128 ∧
    (rectAt s u sub c).col + (rectAt s u sub c).w ≤ 128

/-- The word of the four-operand forms that holds operand C. -/
def cWord (c : Opnd) (imm : Word) : Prop := Opnd.ofBits (imm.extractLsb' 0 10) = some c

end Sys2Proof.Claims

/-- 15 R252, R254, R255, R256, R258, R260: the array instructions without memory or with tiles, where no check fails, the queue has a place and nothing is left
to release. Each is accepted, and goes on; the formats of `mcfg` hold for the instructions after it at once. When it is the oldest in the queue and
nothing of it has been done, it completes as one that has done its work (15 R252; when it does it is log 58): where no word of the data region and no element is
in error, `mcfg` empties the slots; `mldb` stages a tile; `mmb` writes exact sums of products and latches the exponents; `scacc` scales and
accumulates with one rounding; `mzero` clears a bank. -/
def Obligations.AnvilArithmeticResults : Prop :=
  (∀ (h : Hdr) (mod : BitVec 3) (sub bar : BitVec 4) (arv : Bool) (a b : Opnd) (imm : Word) (s : State) (k : Nat) (x : Anvil),
    OnArray h s k x → x.queue.length < 8 → NothingOut s s.bundle.lanes 1 →
    let v (o : Opnd) : Nat := rd s (32 * k) .n32 o imm
    exec (.mcfg h mod sub) s =
      .next (leaveAll true (queued s k { x with fa := sub.toNat, fb := mod.toNat } none (.config mod.toNat))) ∧
    exec (.mzero h sub) s = .next (leaveAll true (queued s k x none (.zero (sub.getLsbD 0)))) ∧
    (x.fb < 5 → TileOk s arv bar x.fb (v a) (v b) → exec (.mldb h bar arv sub a b imm) s =
      .next (leaveAll true (queued s k x (arrivedAt arv bar) (.stage (sub.getLsbD 0) x.fb (v a) (v b))))) ∧
    (x.fa < 5 → TileOk s arv bar x.fa (v a) (v b) → exec (.mmb h bar arv sub a b imm) s =
      .next (leaveAll arv (queued s k x (arrivedAt arv bar) (.multiply (sub.getLsbD 0) (sub.getLsbD 1) x.fa (v a) (v b))))) ∧
    exec (.scacc h sub a imm) s = .next (leaveAll true (queued s k x none
      (.accumulate (sub.getLsbD 0) (sub.getLsbD 1) (int s (32 * k) .i32 a imm))))) ∧
  ∀ (s : State) (w : Nat) (x : Anvil) (j : AJob) (js : List AJob) (n pb : Bool) (f a e : Nat) (scale : Int),
    let g := getWg s w
    let done (y : Anvil) : Prop := exec (.anvilInstructionDone w) s = exec (.anvilInstructionDone w) (worked s w y j js)
    (Begins s w x j js (.config f) → done { x with b0 := { fmt := f, elem := [], exp := [] }, b1 := { fmt := f, elem := [], exp := [] } }) ∧
    (Begins s w x j js (.zero n) → done (x.setC n { c := [], bad := [], logged := [] })) ∧
    (Begins s w x j js (.stage n f a e) → f < 5 → g.badd = [] →
      ∃ T : Tile, T.fmt = f ∧ (∀ line < 128, ∀ i < 16, SMap.get 0 T.elem (16 * line + i) = tileVal g f a line i) ∧
        (∀ line < 128, SMap.get 0 T.exp line = tileExp g f e line) ∧ done (x.setSlot n T)) ∧
    (Begins s w x j js (.multiply n pb f a e) → f < 5 → g.badd = [] →
      let T := x.slot n
      let ea (r : Nat) : Nat := tileExp g f e r
      let eb (c : Nat) : Nat := SMap.get 0 T.exp c
      ∃ P : PBank, P.bad = [] ∧ (∀ r < 128, SMap.get 0 P.ea r = ea r ∧ SMap.get 0 P.eb r = eb r) ∧
        (∀ r < 128, ∀ c < 128, SMap.get 0 P.p (128 * r + c) =
          ((List.range 16).map (fun i =>
            (if blockFmt f ∧ ea r = 0xFF then 0 else tileVal g f a r i) *
            (if blockFmt T.fmt ∧ eb c = 0xFF then 0 else SMap.get 0 T.elem (16 * c + i)))).sum) ∧ done (x.setP pb P)) ∧
    (Begins s w x j js (.accumulate pb n scale) →
      let p := x.pBank pb
      let c := x.cBank n;
      p.bad = [] → c.bad = [] →
      ∃ C : CBank, C.bad = [] ∧ C.logged = [] ∧
        (∀ i < 128, ∀ i' < 128, SMap.get 0 C.c (128 * i + i') = accOf (SMap.get 0 c.c (128 * i + i')) (SMap.get 0 p.p (128 * i + i'))
          (SMap.get 0 p.ea i) (SMap.get 0 p.eb i') scale) ∧ done (x.setC n C))

/-- 15 R252, R260, R261, R264: the loading and draining of a C bank, and the reading of the error log. `mldc` and `mdrain`, where no check fails,
the queue has a place and nothing is left to release, are accepted, and go on. When the oldest in the queue completes with nothing of it done
(log 58), where no word of the data region and no element is in error, `mldc` has loaded a rectangle and left the other elements; `mdrain` has written what `drainWrites`,
the model's function of R261, gives for its format (a block's scale before its payload: log 125), and as `.f32` the elements bit for bit where its rows do not overlap, and the bank is as it was. `merr` reads
an entry of the log, or 0, once the queue is empty, and waits until then; `merr.clr` clears the log. -/
def Sys2Proof.Claims.AnvilBankMoves : Prop :=
  (∀ (h : Hdr) (mod : BitVec 3) (sub bar : BitVec 4) (arv : Bool) (d a b c : Opnd) (imm : Word) (s : State) (k : Nat) (x : Anvil),
    OnArray h s k x →
    let g := cur s
    let v (o : Opnd) : Nat := rd s (32 * k) .n32 o imm
    let r := rectAt s (32 * k) sub c
    (x.queue.length < 8 → NothingOut s s.bundle.lanes 1 → (sub.getLsbD 1 = true → cWord c imm) → RectOk s (32 * k) sub c →
      (v a % 4 = 0 → v b % 4 = 0 → (∀ i < r.h, v a + i * v b + 4 * r.w ≤ g.hdr.sdata) →
        exec (.mldc h sub a b imm) s = .next (leaveAll true (queued s k x none (.load (sub.getLsbD 0) r (v a) (v b))))) ∧
      ((arv = true → bar.toNat < g.hdr.bars) →
        let drained := exec (.mdrain h bar mod arv sub a b imm) s =
          .next (leaveAll arv (queued s k x (arrivedAt arv bar) (.drain (sub.getLsbD 0) r mod.toNat (v a) (v b))))
        let z := if mod = 0 then 4 else 2
        (mod.toNat ≤ 1 → v a % z = 0 → v b % z = 0 → (∀ i < r.h, v a + i * v b + z * r.w ≤ g.hdr.sdata) → drained) ∧
        (2 ≤ mod.toNat → mod.toNat ≤ 4 → v a % 2 = 0 → r.col % 16 = 0 → r.w % 16 = 0 →
          v a + 2 * (r.h * (r.w / 16)) ≤ g.hdr.sdata →
          v b + (if mod = 2 then 6 else if mod = 3 then 10 else 16) * (r.h * (r.w / 16)) ≤ g.hdr.sdata → drained))) ∧
    (isUni d = true → x.queue = [] → exec (.merr h d a imm) s = .next (leaveAll false (gotAll h d (fun _ =>
      val .b64 (if v a < 4 then (x.log.getD (v a) 0).toNat else 0)) s))) ∧
    (x.queue = [] → exec (.merrClr h) s = .next (leaveAll true (onCur s (fun g => { g with anvil := some { x with merr := 0, log := [] } })))) ∧
    (x.queue ≠ [] → exec (.merr h d a imm) s = .next (mapLanes s (fun u th => if u ∈ s.bundle.lanes then { th with wait := .merr } else th)))) ∧
  ∀ (s : State) (w : Nat) (x : Anvil) (j : AJob) (js : List AJob) (n : Bool) (r : Rect) (out a b : Nat),
    let g := getWg s w
    let bank := x.cBank n
    let done (s' : State) (y : Anvil) : Prop := exec (.anvilInstructionDone w) s = exec (.anvilInstructionDone w) (worked s' w y j js)
    g.badd = [] → r.row + r.h ≤ 128 → r.col + r.w ≤ 128 → bank.bad = [] →
    (Begins s w x j js (.load n r a b) →
      ∃ C : CBank, C.bad = [] ∧ (∀ i < 128, ∀ i' < 128, SMap.get 0 C.c (128 * i + i') =
          if r.row ≤ i ∧ i < r.row + r.h ∧ r.col ≤ i' ∧ i' < r.col + r.w then
            BitVec.ofNat 32 (leOf (fun m => SMap.get 0 g.data (a + (i - r.row) * b + 4 * (i' - r.col) + m)) 4)
          else SMap.get 0 bank.c (128 * i + i')) ∧
        done s (x.setC n { C with logged := bank.logged.filter (fun m =>
          ¬ (r.row ≤ m / 128 ∧ m / 128 < r.row + r.h ∧ r.col ≤ m % 128 ∧ m % 128 < r.col + r.w)) })) ∧
    (Begins s w x j js (.drain n r out a b) →
      done (modWg s w (fun g => (drainWrites bank r out a b).foldl (fun g y => g.spWrite y.1 y.2) g)) x ∧
      (out = 0 → SMap.wf 0 g.data = true → 4 * r.w ≤ b →
        ∃ D, SMap.wf 0 D = true ∧
          (∀ y, SMap.get 0 D y =
            let i := (y - a) / b
            let m := (y - a) % b
            if a ≤ y ∧ i < r.h ∧ m < 4 * r.w then
              BitVec.ofNat 8 ((SMap.get 0 bank.c (128 * (r.row + i) + r.col + m / 4)).toNat / 2 ^ (8 * (m % 4)))
            else SMap.get 0 g.data y) ∧
          done (modWg s w (fun g => { g with data := D })) x))

namespace Sys2Proof.Claims
open Sys2Proof.Machine

/-- The lanes of the bundle lie in one group and meet one trap: each of them takes it, and nothing else happens (04 R68, 15 R254). -/
def GroupRaises (i : Instr) (f : State → Nat → Option (Nat × DWord × DWord)) : Prop :=
  ∀ s k c, Rising s.bundle.lanes → s.bundle.lanes ≠ [] →
    (∀ u ∈ s.bundle.lanes, grpOf u = k ∧ ((lane s u).pend = [] → (lane s u).th = false)) → f s k = some c →
    exec i s = .next (mapLanes s (fun v th => if v ∈ s.bundle.lanes then caught s v c th else th))

/-- The first checks of an Anvil instruction: its lanes, and the array (15 R254). -/
def arrayTrap (h : Hdr) (s : State) (k : Nat) (rest : Anvil → Option (Nat × DWord × DWord)) : Option (Nat × DWord × DWord) :=
  if missing h s k ≠ 0 then some (0x03, at64 (2 * 2 ^ 32 + missing h s k), 0)
  else match (cur s).anvil with
    | none => some (0x02, 0, 0)
    | some x => rest x

/-- The checks of a tile operand and of an arrival, the first that fails (15 R254). -/
def tileTrap (s : State) (arv : Bool) (bar : BitVec 4) (f a e : Nat) : Option (Nat × DWord × DWord) :=
  if arv = true ∧ bar.toNat ≥ (cur s).hdr.bars then some (misused 0 bar.toNat 1)
  else if a % 256 ≠ 0 then some (0x04, 1, at64 a)
  else if blockFmt f ∧ e % 128 ≠ 0 then some (0x04, 2, at64 e)
  else if a + tileSize f > (cur s).hdr.sdata then some (0x0A, 0x100, at64 a)
  else if blockFmt f ∧ e + 128 > (cur s).hdr.sdata then some (0x0A, 0x100, at64 e) else none

end Sys2Proof.Claims

/-- 15 R254, R259 to R261: the traps of the Anvil instructions, in every lane of the group, the first check that fails (among the alignments log 124): a lane that is missing, an array that the workgroup does not
hold, a barrier beyond BARS, operands out of alignment, a rectangle word that is malformed or, for a block format, not of whole blocks, and ranges
outside the data region. -/
def Sys2Proof.Claims.AnvilTraps : Prop :=
  ∀ (h : Hdr) (mod : BitVec 3) (sub bar : BitVec 4) (arv : Bool) (d a b c : Opnd) (imm : Word),
    let none' (s : State) (k : Nat) : Option (Nat × DWord × DWord) := arrayTrap h s k (fun _ => none)
    let v (s : State) (k : Nat) (o : Opnd) : Nat := rd s (32 * k) .n32 o imm
    let word (s : State) (k : Nat) : Nat := if sub.getLsbD 1 then rd s (32 * k) .n32 c 0 else 0
    let outside (s : State) (kind a b n h : Nat) : Option (Nat × DWord × DWord) :=
      ((List.range h).find? (fun i => a + i * b + n > (cur s).hdr.sdata)).map (fun i => (0x0A, at64 (256 * kind), at64 (a + i * b)))
    GroupRaises (.mcfg h mod sub) none' ∧ GroupRaises (.mzero h sub) none' ∧ GroupRaises (.scacc h sub a imm) none' ∧
    GroupRaises (.merr h d a imm) none' ∧ GroupRaises (.merrClr h) none' ∧
    ((sub.getLsbD 1 = true → cWord c imm) →
      GroupRaises (.mldc h sub a b imm) (fun s k => arrayTrap h s k (fun _ =>
        let r := rectAt s (32 * k) sub c
        if v s k a % 4 ≠ 0 then some (0x04, 3, at64 (v s k a))
        else if v s k b % 4 ≠ 0 then some (0x04, 3, at64 (v s k b))
        else if ¬ RectOk s (32 * k) sub c then some (0x04, 4, at64 (word s k))
        else outside s 1 (v s k a) (v s k b) (4 * r.w) r.h)) ∧
      (mod.toNat ≤ 4 → GroupRaises (.mdrain h bar mod arv sub a b imm) (fun s k => arrayTrap h s k (fun _ =>
        let r := rectAt s (32 * k) sub c
        let z := if mod = 0 then 4 else 2
        let blocks := r.h * (r.w / 16)
        if arv = true ∧ bar.toNat ≥ (cur s).hdr.bars then some (misused 0 bar.toNat 1)
        else if v s k a % z ≠ 0 then some (0x04, 3, at64 (v s k a))
        else if mod.toNat ≤ 1 ∧ v s k b % z ≠ 0 then some (0x04, 3, at64 (v s k b))
        else if ¬ RectOk s (32 * k) sub c ∨ (2 ≤ mod.toNat ∧ (r.col % 16 ≠ 0 ∨ r.w % 16 ≠ 0)) then some (0x04, 4, at64 (word s k))
        else if mod.toNat ≤ 1 then outside s 2 (v s k a) (v s k b) (z * r.w) r.h
        else if v s k a + 2 * blocks > (cur s).hdr.sdata then some (0x0A, 0x200, at64 (v s k a))
        else if v s k b + (if mod = 2 then 6 else if mod = 3 then 10 else 16) * blocks > (cur s).hdr.sdata then
          some (0x0A, 0x200, at64 (v s k b)) else none)))) ∧
    GroupRaises (.mldb h bar arv sub a b imm) (fun s k => arrayTrap h s k (fun x => if x.fb < 5 then
      tileTrap s arv bar x.fb (v s k a) (v s k b) else none)) ∧
    GroupRaises (.mmb h bar arv sub a b imm) (fun s k => arrayTrap h s k (fun x => if x.fa < 5 then
      tileTrap s arv bar x.fa (v s k a) (v s k b) else none))

/-- 14 R233, R234: the misuses of barriers, the first check that fails, in every lane of the group in the bundle; and a wait that ends on a
phase with a faulted copy or link operation takes the trap of its record, 0x0D or 0x18 (log 108 names one more), with the record's fields.
The number in %tinfo is its low 8 bits (log 52). 14 R234, R236: the misuses of queues, the first check that fails, in every lane of the
group in the bundle. 15 R254, R259 to R261: the traps of the Anvil instructions, in every lane of the group, the first check that fails
(among the alignments log 124): a lane that is missing, an array that the workgroup does not hold, a barrier beyond BARS, operands out of
alignment, a rectangle word that is malformed or, for a block format, not of whole blocks, and ranges outside the data region. -/
def Obligations.EngineTraps : Prop := BarrierTraps ∧ QueueTraps ∧ AnvilTraps

/-- 15 R252, R262, R265: the oldest array instruction, when it has done its work, completes and leaves the queue; each error it met sets its
flag in %merr and fills a place of the log, or sets OVF when the log is full; its arrival takes one from E of its barrier, here without the
end of a phase. The order of the errors in the log is log 59. -/
def Sys2Proof.Claims.AnvilCompletionResults : Prop :=
  ∀ (s : State) (w : Nat) (x : Anvil) (j : AJob) (js : List AJob),
    (getWg s w).status = .resident → (getWg s w).anvil = some x → x.queue = j :: js → (∀ i ∈ js, i.num ≠ j.num) → j.acted = true →
    w < s.wgs.length → (∀ b ∈ (getWg s w).bars, b.held = []) →
    let noted (x : Anvil) (e : DWord) : Anvil :=
      let kind := e.toNat / 2 ^ 61
      let flag : Word := if kind ≤ 1 then 1 else if kind ≤ 3 then 2 else 4
      if x.log.length < 4 then { x with merr := (x.merr ||| flag) + 16, log := x.log ++ [e] } else { x with merr := x.merr ||| flag ||| 128 }
    let done : State := modWg s w (fun g => { g with anvil := some { j.errs.foldl noted x with queue := js } })
    (j.arv = none → exec (.anvilInstructionDone w) s = .next done) ∧
    (∀ n, j.arv = some n →
      let b := getBar (getWg s w) n
      (-512 : Int) ≤ b.e - 1 → ¬ phaseMet { b with e := b.e - 1 } →
      exec (.anvilInstructionDone w) s = .next (modBar done w n (fun y => { y with e := y.e - 1 })))

/-- 15 R252, R260, R261, R264: the loading and draining of a C bank, and the reading of the error log. `mldc` and `mdrain`, where no check
fails, the queue has a place and nothing is left to release, are accepted, and go on. When the oldest in the queue completes with nothing of
it done (log 58), where no word of the data region and no element is in error, `mldc` has loaded a rectangle and left the other elements;
`mdrain` has written what `drainWrites`, the model's function of R261, gives for its format (a block's scale before its payload: log 125),
and as `.f32` the elements bit for bit where its rows do not overlap, and the bank is as it was. `merr` reads an entry of the log, or 0,
once the queue is empty, and waits until then; `merr.clr` clears the log. 15 R252, R262, R265: the oldest array instruction, when it has
done its work, completes and leaves the queue; each error it met sets its flag in %merr and fills a place of the log, or sets OVF when the
log is full; its arrival takes one from E of its barrier, here without the end of a phase. The order of the errors in the log is log 59. -/
def Obligations.AnvilBankResults : Prop := AnvilBankMoves ∧ AnvilCompletionResults

/-- 17 R296, R298: `tmset` sets %tmr of its workgroup; the lane of `enq`, where its address passes the checks and nothing is left to
release, puts the 128 bytes there into the partition's store, or answers 1 when the store is full or 2 when they are malformed (17 R276;
`malformed` is the model's function of that rule, `coreMeets` counts the correctable errors that the read meets); a timer that has run out gives every live lane a pending trap 0x10. The numbers of the
results are the model's (log 6). -/
def Obligations.LaunchInstructionResults : Prop :=
  ∀ (h : Hdr) (d a : Opnd) (imm : Word) (s : State),
    (∀ k, Rising s.bundle.lanes → OneGroup h true s k →
      exec (.tmset h a imm) s = .next (leaveAll false (onCur s (fun g =>
        { g with tmr := rd s ((acting h true s).headD 0) .n64 a imm })))) ∧
    (∀ u pa l, Sole h false s u →
      let va := (rd64 s u a).toNat
      Reaches s va { align := 128, rd := true, wr := false, ss := 0b0010 } pa l → NothingOut s [u] 4 → clearingAt s pa = false →
      coreBad s (cur s).core pa 128 = false →
      let raw : BitVec 1024 := BitVec.ofNat 1024 (leOf (fun j => coreByte s (cur s).core (pa + j)) 128)
      let p := (cur s).part
      let st := if malformed (getPart s p).cores raw then 2 else if (getPart s p).store.length ≥ 1024 then 1 else 0
      let s1 := coreMeets s (cur s).core p pa 128
      let t := if st = 0 then modPart s1 p (fun x => { x with store := x.store ++ [(raw, (cur s).ctx)] }) else s1
      exec (.enq h d a) s = .next (leaveAll false (withFresh (onActing h false t (fun _ th => { th with pend := th.pend ++
        [{ Pend.start h s.fresh .known (regWrites d [BitVec.ofNat 32 st]) 0 with closeTo := some (nextPos s u) }] })) (s.fresh + 1)))) ∧
    (∀ w, (getWg s w).tmrDue = true → exec (.timerExpiry w) s = .next (modWg s w (fun g => { g with
      tmrDue := false
      threads := g.threads.map (fun th =>
        if th.live = true ∧ ∀ x ∈ th.async, x.1 ≠ 0x10 then { th with async := th.async ++ [(0x10, 0)] } else th) })))

namespace Sys2Proof.Claims
open Sys2Proof.Machine

/-- The entries that take part in the demand test (17 R279, R280). -/
def inDemand (e : Entry) : Bool := e.status.isNone && !e.demoted

/-- What is left of an entry's budget (17 R280). -/
def leftOf (e : Entry) : Nat := e.budget - e.charge

/-- The demand test of an entry of deadline d and budget c at instant t (17 R279). -/
def Feasible (p : Part) (t d c : Nat) : Prop :=
  ∀ dk, (dk = d ∨ ∃ e ∈ p.entries, inDemand e = true ∧ e.d = dk ∧ d ≤ dk) →
    4 * ((((p.entries.filter (fun e => inDemand e && decide (e.d ≤ dk))).map leftOf).sum + c : Nat) : Int) ≤
      5 * (p.cores.length : Int) * ((dk : Int) - t - p.params.lbound)

/-- The state in which the checker has taken the head of the store: the lanes that sleep for a place are woken (13 R215). -/
def taken (s : State) (p : Nat) (rest : List (BitVec 1024 × Nat)) : State :=
  { modPart s p (fun x => { x with store := rest }) with
    wakes := s.wakes ++ (s.ctxs.filter (fun c => c.2.part == p)).flatMap (fun c => (getPart s p).cores.map (fun k => (k, none, c.1))) }

/-- The entry is refused with a code: it never runs, and its future, if it has one, takes the code (17 R281). -/
def RefusedWith (s t : State) (p ctx : Nat) (raw : BitVec 1024) (code : Nat) : Prop :=
  ((fieldsOf raw).cfut = 0 → exec (.admissionDecision p) s = .next t) ∧
  exec (.admissionDecision p) s = .next (completeFuture t p ctx raw code)

end Sys2Proof.Claims

/-- 17 R272, R277, R279 to R281, R292: the decision on the head of the store, where nothing else has an entry to present and no fold is due:
an entry of a killed context ends with 0x20; another is refused with the code of the first check that fails, or added to the list with its
deadline, its budget, the lowest free index and its admission order. `headerStatus` is the model's function of 05 R88, and `logAdmission`
does what the checker's reads do beside: it logs bad page-table entries, starts clears and counts corrected errors (10 R171, R174, 01 R20); a header in a
granule to be cleared reads as zeros (`zeroed`, log 10). Whose page tables are used is log 60, and the codes for
uncorrectable data log 61. -/
def Obligations.AdmissionResults : Prop :=
  ∀ (s : State) (p ctx : Nat) (raw : BitVec 1024) (rest : List (BitVec 1024 × Nat)),
    p < s.parts.length → (getPart s p).store = (raw, ctx) :: rest → (∀ x ∈ (getPart s p).slots, x.present = []) →
    (∀ c ∈ s.ctxs, c.2.part = p → c.2.migrants = []) → ((getPart s p).setup.isSome = true → dtime s / 1000 * 1000 ≤ (getPart s p).lastFold) →
    let killed := ∃ c, getCtx s ctx = some c ∧ c.dead = true
    let t := logAdmission (taken s p rest) p ctx raw
    let x := getPart s p
    let f := fieldsOf raw
    let now := dtime s
    let d := (if f.subrel then f.subt else now) + 1000 * f.deadline
    let hdr := headerOf ((readVirtNat t ctx (firstDie t p) f.kobj 64).getD 0)
    let open' := (x.entries.filter (fun e => e.status.isNone)).length
    (killed → RefusedWith s (taken s p rest) p ctx raw 0x20) ∧
    (¬ killed →
      (x.quiet = true → RefusedWith s t p ctx raw 0x16) ∧
      (x.quiet = false → malformed x.cores raw = true → RefusedWith s t p ctx raw 0x15) ∧
      (x.quiet = false → malformed x.cores raw = false →
        ((∀ pa l, checkAddr t ctx (firstDie t p) f.kobj (Need.plainRead 64) 0 ≠ .ok pa l) → RefusedWith s t p ctx raw 0x15) ∧
        ∀ pa l, checkAddr t ctx (firstDie t p) f.kobj (Need.plainRead 64) 0 = .ok pa l →
        (memBad t pa 64 = true → zeroed t l pa = false → RefusedWith s t p ctx raw 0x15) ∧
        (memBad t pa 64 = false ∨ zeroed t l pa = true → (∀ c, headerStatus t ctx (firstDie t p) f.kobj hdr = some c → RefusedWith s t p ctx raw c) ∧
        (headerStatus t ctx (firstDie t p) f.kobj hdr = none →
          let soon := f.deadline = 0 ∨ (d : Int) - now ≤ x.params.lbound
          let odd := f.budget = 0 ∨ 2 ^ 47 < f.budget
          (soon → RefusedWith s t p ctx raw 0x11) ∧
          (¬ soon → odd → RefusedWith s t p ctx raw 0x12) ∧
          (¬ soon → ¬ odd → 4096 ≤ open' → RefusedWith s t p ctx raw 0x13) ∧
          (¬ soon → ¬ odd → open' < 4096 → ¬ Feasible x now d f.budget → RefusedWith s t p ctx raw 0x10) ∧
          (¬ soon → ¬ odd → open' < 4096 → Feasible x now d f.budget →
            ∀ q, (∀ e ∈ x.entries, e.status = none → e.qe ≠ q) → (∀ j < q, ∃ e ∈ x.entries, e.status = none ∧ e.qe = j) → q < 4096 →
            let k := if f.pin ∧ 0 < f.clw then (min 8 f.grid + f.clw - 1) / f.clw else 0
            exec (.admissionDecision p) s = .next (modPart t p (fun x => { x with
              nextOrder := x.nextOrder + 1
              entries := x.entries ++ [{ qe := q, raw := raw, ctx := ctx, d := d, budget := f.budget, charge := 0, fresh := 0
                                         order := x.nextOrder, demoted := false, overrun := none, hdr := hdr, kernel := pa
                                         chip := { saved := [], lo := k, n := f.grid / f.clw - k }, dies := [], cls := []
                                         pinned := List.range k, ended := [], lastEnd := 0, status := none }] })))))))

namespace Sys2Proof.Claims
open Sys2Proof.Machine

/-- The order in which entries are offered cores (17 R283). -/
def Earlier (a b : Entry) : Prop :=
  (a.demoted = false ∧ b.demoted = true) ∨
  (a.demoted = b.demoted ∧ if a.demoted = true ∨ a.d = b.d then a.order < b.order else a.d < b.d)

/-- Whether k has the most clusters of some ranges, at least two, and is the lowest such (17 R284). -/
def Richest (m : List (Nat × Range)) (f : Nat → Prop) (k : Nat) : Prop :=
  f k ∧ 2 ≤ (rangeOf m k).len ∧ ∀ j, f j → (rangeOf m j).len ≤ (rangeOf m k).len ∧ (j < k → (rangeOf m j).len < (rangeOf m k).len)

/-- A range split: its back half, rounded down, goes to a thief (17 R284). -/
def stolen (m : List (Nat × Range)) (k thief : Nat) : List (Nat × Range) :=
  let r := rangeOf m k
  let x := r.cut (r.len - r.len / 2)
  SMap.set Range.empty (SMap.set Range.empty m k x.1) thief x.2

/-- Outcome o is `t`, where entry x gains a range in it that its granted cores of some core-clusters could take a cluster of, and else leaves
everything as it is (17 R284). -/
def Gains (s t : State) (p e : Nat) (x : Entry) (mine : Entry → Range) (cls : Nat → Prop) (o : Host.Outcome State Fault Refusal) : Prop :=
  let gained := ∃ y j cl, getEntry t p e = some y ∧ (mine y).first = some j ∧ cls cl ∧ canTake s p x j cl = true
  (gained → o = .next t) ∧ (¬ gained → o = .next s)

/-- A workgroup of one lane group after another as it is placed (04 R60, R61): every register, data byte, tag, barrier, queue and channel
as the rules give them. -/
def placed (p core kernel base sets n : Nat) (e : Entry) : Wg :=
  { status := .resident, part := p, ctx := e.ctx, qe := e.qe, order := e.order, wgid := n, clid := n % (fieldsOf e.raw).clw, core := core, kernel := kernel
    hdr := e.hdr, base := base, data := [], badd := [], tags := [], tbase := sets, badTags := [], copies := [], copyNum := 0, tmr := 0, tmrDue := false
    ctxcyc := 0, bundles := [], savedOwn := [], savedFaults := [], cutAt := none, anvil := if e.hdr.array then some Anvil.fresh else none
    threads := (List.range (32 * ((e.hdr.wgt + 31) / 32))).map (fun i =>
      let k : LaneKind := if i < e.hdr.wgt then .real
        else if e.hdr.help = true ∧ e.hdr.wgt % 4 ≠ 0 ∧ i < (e.hdr.wgt + 3) / 4 * 4 then .helper else .absent
      { Thread.none with kind := k, live := k != .absent, npc := BitVec.ofNat 32 e.hdr.entry
                         irs := BitVec.ofNat 32 (e.hdr.entry % 2 ^ 17) })
    groups := List.replicate ((e.hdr.wgt + 31) / 32) { u := [], badu := [] }
    bars := List.replicate e.hdr.bars { ph := false, g := (e.hdr.wgt + 31) / 32, arr := 0, e := 0, wait := 0, flt := false, lf := false
                                        frec := { taddr := 0, tinfo := 0, cause := 0x0D }, held := [] }
    queues := List.replicate e.hdr.queues { depth := 0, fifo := [], allow := [], pushW := [], popW := [] }
    chans := List.replicate 4 { ip := 0, wp := 0, fault := none } }

end Sys2Proof.Claims

/-- 17 R283, R284, 04 R60, R61, 18 R312: a free core goes to the earliest entry that can hold it; a distributor without clusters takes the
back half of the richest sibling's, or its parent's, where the entry's cores could take what it gets; a cluster of one workgroup is placed
on a granted core with room, its registers as R60 gives them, or restored there if it was saved, and the entry's cores without more to do
are free. Room on a core, what the distributors hand on, who is to place a cluster, which workgroups are an entry's and when a grant ends are the model's `roomFor`,
`makeRoom`, `ofEntry`, `freeSets`, `handDie`, `handCluster`, `takeCluster`, `canTake` and `endGrants`. These carry logs 64 to 66. -/
def Obligations.PlacementResults : Prop :=
  ∀ (s : State),
    (∀ core p e, (getCore s core).grant = none → wgsOn s core = [] → partOfDie s (core / 32) = some p →
      e ∈ (getPart s p).entries → canHold s p e core = true →
      (∀ x ∈ (getPart s p).entries, canHold s p x core = true → x = e ∨ Earlier e x) →
      exec (.coreGrant core) s = .next (handCluster (handDie (modCore s core (fun c =>
        { c with grant := some (p, e.qe), preq := false, windowEnd := none })) p e.qe (core / 32)) p e.qe (core / 4))) ∧
    (∀ p e x thief, getEntry s p e = some x →
      (SMap.wf Range.empty x.dies = true → (rangeOf x.dies thief).len = 0 →
        let out (t : State) : Prop :=
          Gains s t p e x (fun y => rangeOf y.dies thief) (fun cl => cl / 8 = thief) (exec (.distributorSteal p e 0 thief) s)
        (∀ k, Richest x.dies (fun _ => True) k → out (modEntry s p e (fun x => { x with dies := stolen x.dies k thief }))) ∧
        ((∀ k, (rangeOf x.dies k).len < 2) → out (handDie s p e thief))) ∧
      (SMap.wf Range.empty x.cls = true → (rangeOf x.cls thief).len = 0 →
        let out (t : State) : Prop :=
          Gains s t p e x (fun y => rangeOf y.cls thief) (fun cl => cl = thief) (exec (.distributorSteal p e 1 thief) s)
        (∀ k, Richest x.cls (fun j => j / 8 = thief / 8) k → out (modEntry s p e (fun x => { x with cls := stolen x.cls k thief }))) ∧
        ((∀ k, k / 8 = thief / 8 → (rangeOf x.cls k).len < 2) → out (handCluster s p e thief)))) ∧
    (∀ p e x c j s1 t base, getEntry s p e = some x → x.overrun = none → (∀ k, getCtx s x.ctx = some k → k.quiet = false) →
      (getCore s c).grant = some (p, e) → (getCore s c).preq = false → (fieldsOf x.raw).clw = 1 → takeCluster s p x j (c / 4) = some s1 →
      (∀ v < s.wgs.length, ((getWg s v).status = .resident ∨ (getWg s v).status = .cutting) → ofEntry s p e (getWg s v) = true →
        (getWg s v).wgid = j → (getWg s v).core / 4 = c / 4) →
      makeRoom s1 c x.ctx (fieldsOf x.raw).kobj x.kernel x.hdr = some (t, base) →
      let sets := (freeSets s1 c x.hdr.tsets).getD 0
      (savedOf s p x j = [] → pinAllows (fieldsOf x.raw) j c = true → roomFor s1 c x.hdr x.hdr.array = true →
        let u := { t with wgs := t.wgs ++ [placed p c x.kernel base sets j x] }
        exec (.workgroupPlacement p e j [c]) s = .next (endGrants u (heldCores u p e))) ∧
      (∀ w, savedOf s p x j = [w] → pinAllows (fieldsOf x.raw) (getWg s w).wgid c = true → (getWg s w).savedOwn = [] →
        (∀ l ∈ s.links, l.wg ≠ w) → (∀ th ∈ (getWg s w).threads, th.wait = .none ∧ (th.live = true → th.th = true ∨ th.async = [])) →
        (∀ q ∈ (getWg s w).queues, q.popW = []) → roomFor s1 c x.hdr (getWg s w).anvil.isSome = true →
        let u := modWg t w (fun g => { g with
          status := .resident, core := c, base := base, tbase := (freeSets t c g.hdr.tsets).getD 0, savedFaults := []
          threads := g.threads.map (fun th => if th.rewound then { th.goPos th.irs with rewound := false } else th) })
        exec (.workgroupPlacement p e j [c]) s = .next (endGrants u (heldCores u p e))))

/-- 04 R79, 17 R278, R290: a workgroup whose last lane has exited and whose accesses are all acknowledged ends, and with the last of the
grid its entry, with status 0 at its deadline or before and 1 after it, or 0x20 where KOM = 1 (17 R289, R292); an ended entry's future takes
its status when its accesses are acknowledged and its cuts over, after the zero-length read of a release at system scope (11 R195, 22 R354). The return of resources and grants is the model's `dropWg` and `endGrants`; `startClear`
starts the clear of an unscrubbed granule (10 R174), and `engineWaits` says whether the transition waits at its home slice. That the
completion uses the first die's tables is log 60, and when the index is free log 63. -/
def Obligations.EntryEndResults : Prop :=
  ∀ (s : State),
    (∀ w e, (getWg s w).status = .resident → (∀ th ∈ (getWg s w).threads, th.live = false) → wgQuiet s w = true →
      let g := getWg s w
      let t := modEntry (dropWg s w) g.part g.qe (fun e => { e with ended := insNat e.ended g.wgid, lastEnd := dtime s })
      getEntry t g.part g.qe = some e → e.overrun = none →
      (e.ended.length ≠ (fieldsOf e.raw).grid →
        exec (.workgroupEnd w) s = .next (endGrants t (insNat (heldCores t g.part g.qe) g.core))) ∧
      (e.ended.length = (fieldsOf e.raw).grid →
        exec (.workgroupEnd w) s = .next (endGrants (modEntry t g.part g.qe (fun e => { e with
          status := some (if dtime s ≤ e.d then 0 else if (fieldsOf e.raw).kom then 0x20 else 1)
          chip := Range.empty, dies := [], cls := [], pinned := [] })) (heldCores t g.part g.qe)))) ∧
    (∀ p k e st, (getPart s p).entries.find? (fun x => x.order == k && x.status.isSome) = some e → e.status = some st →
      entryQuiet s p e = true →
      let gone := modPart s p (fun y => { y with entries := y.entries.filter (fun z => z.order != k) })
      let t : State := { gone with dev := { gone.dev with posted := gone.dev.posted ++ [.read (p + 1) 0 0] } }
      let f := fieldsOf e.raw
      let o (pa : Nat) (l : Leaf) : Obj :=
        { ctx := e.ctx, part := p, die := (getPart s p).dies.headD 0, pa := pa, va := f.cfut, prop := l.prop, via := none }
      (f.cfut = 0 → exec (.entryCompletion p k) s = .next t) ∧
      (f.cfut ≠ 0 → cleanFor t e.ctx ((getPart s p).dies.headD 0) f.cfut s.fresh = true → ∀ pa l, checkAddr t e.ctx ((getPart s p).dies.headD 0) f.cfut (stagedNeed true true 0b1111) s.fresh = .ok pa l →
        ∀ v, engineWaits (startClear t l.uns pa) (o pa l) f.ctrans = (v, false) →
        ∀ r a b, transition v (o pa l) f.ctrans (at64 st) .engine = (r, .done a b) → exec (.entryCompletion p k) s = .next r))

namespace Sys2Proof.Claims
open Sys2Proof.Machine

/-- The Bellows takes core `core` back for entry e: e can hold it, and its holder f has a later deadline; e has a workgroup pinned there, or no
core that e could use is free, and f is the last of the holders of those cores (17 R285). -/
def TakenFor (s : State) (p core : Nat) (e f : Entry) : Prop :=
  core ∈ (getPart s p).cores ∧ e ∈ (getPart s p).entries ∧ e.status = none ∧ canHold s p e core = true ∧ holderOf s p core = some f ∧
    (if f.demoted then e.demoted = false else e.demoted = false ∧ e.d < f.d) ∧
    (Bound.pin core ∈ bounds s p e ∨ ∀ c ∈ (getPart s p).cores, couldUse s p e c = true →
      ((getCore s c).grant ≠ none ∨ wgsOn s c ≠ []) ∧ ∀ x, holderOf s p c = some x → x = f ∨ Earlier x f)

/-- A workgroup that stands alone: on its core, in its cluster, and with no group waiting at a barrier or a queue, and no live buffer of
its cluster; its entry has not ended, nor overrun with OVC = 1. -/
def Alone (s : State) (w : Nat) : Prop :=
  SMap.wf Core.empty s.cores = true ∧ wgsOn s (getWg s w).core = [w] ∧
    (∃ e, entryOf s (getWg s w) = some e ∧ e.overrun = none) ∧
    (∀ v < s.wgs.length, (getWg s v).status ≠ .ended → ownerOf (getWg s v) = ownerOf (getWg s w) → v = w) ∧ (∀ b ∈ (getWg s w).bars, b.wait = 0) ∧
    (∀ q ∈ (getWg s w).queues, q.pushW = [] ∧ q.popW = []) ∧ ∀ i < 64, (getOwn s (clusterOf (getWg s w).core) i).live = false

/-- The state with workgroup w saved, each thread as `f` says: its array instructions that have not acted are discarded, its core holds it no
more, the grant of its core ends, and its cluster is in its entry's range again, or one of its pinned ones (15 R267, 17 R285, R286, 18 R311). -/
def savedWith (s : State) (w : Nat) (f : Nat → Thread → Thread) : State :=
  let g := getWg s w
  modCore (modEntry (modWg s w (fun g => { g with
      status := .saved, bundles := [], cutAt := none, savedOwn := [], savedFaults := [], anvil := g.anvil.map Anvil.saved
      threads := g.threads.mapIdx f })) g.part g.qe (fun e =>
        let j := g.wgid / (fieldsOf e.raw).clw
        if j < (fieldsOf e.raw).pinClusters then { e with pinned := insNat e.pinned j }
        else { e with chip := { e.chip with saved := insNat e.chip.saved j } }))
    g.core (fun c => if c.grant = some (g.part, g.qe) then
      { c with parks := c.parks.filter (fun e => e.wg != w), grant := none, preq := false, windowEnd := none }
    else { c with parks := c.parks.filter (fun e => e.wg != w) })

/-- An entry with KOM = 1 whose deadline has come, but for one that ends with its last workgroup at that instant (17 R289, R292). -/
def KillDue (s : State) (p : Nat) (e : Entry) : Prop :=
  (fieldsOf e.raw).kom = true ∧ e.d ≤ dtime s ∧ ¬ (e.d = dtime s ∧ endsNow s p e = true)

end Sys2Proof.Claims

/-- 17 R285, R286, 18 R307, R308, R310, R311: a polite request sets %preq and opens the window, or frees a core on which its holder has no
workgroup, and is withdrawn when the core is no longer wanted; at the end of the window a workgroup is cut. A workgroup all of whose live
lanes are stopped or asleep is saved, and its threads restart where they stopped; one whose cut has drained is saved with the threads
rewound whose results or array instructions it discards. `coreWanted`, `wgDrained`, `finishBundles` and `finishing` are the model's
functions of R285 and R308, `Anvil.saved` of 15 R267; the workgroup here stands alone. One whose entry has ended meanwhile, or overran with OVC = 1, is
not saved when its cut is over: it stops as the model's `stopAs` says (17 R288, R292). Which waits permit a polite save is log 67, and what
a freeze keeps and discards log 68. -/
def Obligations.PreemptionResults : Prop :=
  ∀ (s : State),
    (∀ p core e f, (getCore s core).preq = false → TakenFor s p core e f →
      let t := modCore s core (fun c => { c with preq := true, windowEnd := some (dtime s + (getPart s p).params.polite) })
      let on := ∃ w ∈ wgsOn s core, ofEntry s p f.qe (getWg s w) = true
      (on → exec (.coreTakeBack p core) s = .next t) ∧
      (¬ on → exec (.coreTakeBack p core) s = .next (modCore t core (fun c =>
        { c with grant := none, preq := false, windowEnd := none })))) ∧
    (∀ p i core w e, (getCore s core).grant = some (p, i) → (getCore s core).preq = true → (getCore s core).windowEnd = some e →
      coreWanted s p core = false → wgsOn s core = [w] →
      exec (.politeWithdrawal core) s = .next (modWg (modCore s core (fun c => { c with preq := false, windowEnd := none })) w (fun g =>
        { g with threads := g.threads.map (fun th => { th with stopped := false }) }))) ∧
    (∀ core w e, (getCore s core).windowEnd = some e → e ≤ dtime s → wgsOn s core = [w] → matesOf s w (· == .resident) = [w] →
      let t := modCore s core (fun c => { c with windowEnd := none })
      exec (.politeWindowEnd core) s = .next (modWg t w (fun g =>
        { g with status := .cutting, cutAt := some s.cyc, bundles := finishBundles t g }))) ∧
    (∀ w, Alone s w →
      ((getWg s w).status = .resident → (getCore s (getWg s w).core).preq = true → wgDrained s w true = true →
        (∀ th ∈ (getWg s w).threads, th.pend = [] ∧ th.due = none ∧ ((∃ n, th.wait = .sleep n) ∨ th.wait = .rebundle ∨
          (th.wait = .none ∧ (th.live = true → th.stopped = true)))) →
        exec (.politeSave w) s = .next (savedWith s w (fun _ th => { th with
          rewound := false, held := none, gather := none, freed := false, stopped := false, relAt := none, order := [] }))) ∧
      ((getWg s w).status = .cutting → wgDrained s w false = true → (∀ u < (getWg s w).threads.length, finishing s (getWg s w) u = false) →
        (∀ th ∈ (getWg s w).threads, th.due = none ∧ (∀ q ∈ th.pend, q.closeTo = none) ∧ ((∃ n, th.wait = .sleep n) ∨ th.wait = .rebundle ∨ th.wait = .none)) →
        let back (u : Nat) (th : Thread) : Prop :=
          th.pend ≠ [] ∨ ∃ x, (getWg s w).anvil = some x ∧ ∃ j ∈ x.queue, j.grp = u / 32 ∧ j.acted = false
        ∀ b : Nat → Bool, (∀ u < (getWg s w).threads.length, b u = true ↔ back u (getTh (getWg s w) u)) →
        exec (.freeze w) s = .next (savedWith s w (fun u th => { th with
          rewound := b u, pend := [], early := if b u then [] else th.early, wait := if b u then .none else th.wait, held := none
          gather := none, freed := false, stopped := false, relAt := none, order := [] })))) ∧
    (∀ w, (entryOf s (getWg s w) = none ∨ ∃ e t, entryOf s (getWg s w) = some e ∧ e.overrun = some t) →
      (getWg s w).status = .cutting → wgDrained s w false = true → (∀ u < (getWg s w).threads.length, finishing s (getWg s w) u = false) →
      (∀ th ∈ (getWg s w).threads, th.live = true → ∀ q ∈ th.pend, q.closeTo = none) →
      exec (.freeze w) s = .next (endGrants (stopAs false s w) [(getWg s w).core]))

/-- 17 R280, R288, R289, R292, 18 R308, R315: a fold adds the cycles counted to every charge; an entry at or over its budget is demoted, or
with OVC = 1 left its handlers' time, and every live lane of its workgroup has trap 0x0F pending, unless its kill is due. The resident
workgroups of an entry whose handlers' time is over are cut, and when none of its workgroups is left it ends with status 0x02; one with KOM = 1 ends at
its deadline with 0x20: it keeps no range and no grant, and every workgroup of it stops but one that is being cut. A context is killed when a cut misses the timeout, or on request: its entries end, then its pending launches, and
then its handles are revoked. When a grant ends, that a workgroup ends now, how some stop, and that a killed context's writes are over, are the model's
`endGrants`, `endsNow`, `stopAll` and `killQuiet`. What becomes of work that is under way is log 72, and when pending traps are taken log 70. -/
def Obligations.BudgetAndKillResults : Prop :=
  ∀ (s : State),
    (∀ p, p < s.parts.length → (getPart s p).lastFold < dtime s / 1000 * 1000 →
      let t := modPart s p (fun x => { x with
        lastFold := dtime s / 1000 * 1000
        entries := x.entries.map (fun e => { e with charge := e.charge + e.fresh, fresh := 0 }) })
      let overs := (getPart t p).entries.filter (fun e =>
        e.status.isNone && !e.demoted && e.overrun.isNone && decide (e.budget ≤ e.charge))
      let trapped (w : Nat) (info : DWord) : State := modWg t w (fun g => { g with threads := g.threads.map (fun th =>
        if th.live = true ∧ ∀ x ∈ th.async, x.1 ≠ 0x0F then { th with async := th.async ++ [(0x0F, info)] } else th) })
      (overs = [] → exec (.budgetFold p) s = .next t) ∧
      (∀ e, overs = [e] → KillDue t p e → exec (.budgetFold p) s = .next (stopEntry t p e.qe 0x20)) ∧
      (∀ e w, overs = [e] → ¬ KillDue t p e → wgsOf s p e.qe (fun x => x != .ended) = [w] →
        ((fieldsOf e.raw).ovc = false →
          exec (.budgetFold p) s = .next (modEntry (trapped w 0) p e.qe (fun x => { x with demoted := true }))) ∧
        ((fieldsOf e.raw).ovc = true → (getWg s w).status = .resident →
          exec (.budgetFold p) s = .next (endGrants (modEntry (trapped w 1) p e.qe (fun x => { x with overrun := some (dtime s) }))
            (heldCores s p e.qe))))) ∧
    (∀ p e x, getEntry s p e = some x →
      (∀ t, x.overrun = some t →
        (wgsOf s p e (fun x => x != .ended) = [] →
          (KillDue s p x → exec (.overrunWindowExpiry p e) s = .next (endEntry s p e 0x20)) ∧
          (¬ KillDue s p x → exec (.overrunWindowExpiry p e) s = .next (endEntry s p e 0x02))) ∧
        (∀ w, wgsOf s p e (fun x => x != .ended) = [w] → matesOf s w (· == .resident) = [w] → t + (getPart s p).params.polite ≤ dtime s →
          exec (.overrunWindowExpiry p e) s = .next (modWg s w (fun g =>
            { g with status := .cutting, cutAt := some s.cyc, bundles := finishBundles s g })))) ∧
      (KillDue s p x → exec (.deadlineKill p e) s = .next (stopEntry s p e 0x20)) ∧
      ∀ st, (∀ w, ofEntry s p e (getWg s w) = true → ((getWg s w).status = .resident ∨ (getWg s w).status = .saved) →
          (getWg (stopEntry s p e st) w).status = .ended) ∧
        (getPart (stopEntry s p e st) p).entries = (getPart s p).entries.map (fun y => if y.qe = e ∧ y.status = none then
          { y with status := some st, chip := Range.empty, dies := [], cls := [], pinned := [] } else y) ∧
        (SMap.wf Core.empty s.cores = true → ∀ c ∈ (getPart s p).cores, (getCore (stopEntry s p e st) c).grant ≠ some (p, e))) ∧
    (∀ w t, (getWg s w).status = .cutting → (getWg s w).cutAt = some t →
      5 * (getPart s (getWg s w).part).params.killTimeout ≤ 4 * (s.cyc - t) →
      exec (.killTimeout w) s = .next (killContext s (getWg s w).ctx)) ∧
    (∀ c x, getCtx s c = some x →
      (x.dead = false →
        let t := modCtx s c (fun x => { x with dead := true })
        let ws := (List.range s.wgs.length).filter (fun w =>
          (getWg s w).ctx == c && (getWg s w).part == x.part && (getWg s w).status != .ended)
        exec (.contextKill c) s = .next (killContext s c) ∧
        ((∀ e ∈ (getPart s x.part).entries, e.ctx = c → e.status ≠ none) → killContext s c = stopAll t ws) ∧ (ws = [] → stopAll t ws = t) ∧
        (∀ e, (getPart s x.part).entries.filter (fun e => e.ctx == c && e.status.isNone) = [e] →
          killContext s c = stopEntry (stopAll t ws) x.part e.qe 0x20)) ∧
      (x.dead = true → x.revoked = false → killQuiet s x.part c = true →
        (pendingOf s x.part c ≠ [] → (∀ r ∈ pendingOf s x.part c, (fieldsOf r).cfut = 0) →
          exec (.contextKill c) s = .next (modCtx (modPart s x.part (fun y => { y with store := y.store.filter (fun e => e.2 != c) })) c
            (fun y => { y with spill := [], migrants := [] }))) ∧
        (pendingOf s x.part c = [] → exec (.contextKill c) s = .next (modCtx s c (fun y => { y with
          revoked := true
          regions := y.regions.map (fun r => (r.1, { r.2 with gen := if r.2.gen = 4095 then 1 else r.2.gen + 1 })) })))))

namespace Sys2Proof.Claims
open Sys2Proof.Machine

/-- A thread that is held at its meet target, outside a sequence: at an index, or at a `dispatch` with its guest position (04 R70). -/
def AtTarget (s : State) (g : Wg) (th : Thread) : Prop :=
  th.ready = true ∧ th.freed = false ∧ th.seqS = false ∧
    ((th.meet.toNat / 2 ^ 62 = 1 ∧ th.npc.toNat = th.meet.toNat % 2 ^ 62 ∧ fetch s g th ≠ .past) ∨
     (th.meet.toNat / 2 ^ 62 = 2 ∧ (∃ r, fetch s g th = .word r ∧ r.opc = 0x00B) ∧ th.gpc.toNat % 2 ^ 62 = th.meet.toNat % 2 ^ 62))

/-- Thread u is of the meeting set of thread t (04 R70). -/
def MeetsWith (g : Wg) (t u : Nat) : Prop :=
  u / 32 = t / 32 ∧ (getTh g u).live = true ∧ (getTh g u).kind ≠ .absent ∧ (getTh g u).meet = (getTh g t).meet

/-- Thread u is a held thread of the meeting set of thread t (04 R70). -/
def HeldWith (s : State) (g : Wg) (t u : Nat) : Prop := MeetsWith g t u ∧ AtTarget s g (getTh g u)

/-- The threads of a workgroup after the sleeps of no cycles have ended, as they do when a period begins (18 R324). -/
def awoken (s : State) (w : Nat) : State :=
  modWg s w (fun g => { g with threads := g.threads.map (fun th =>
    if th.live && th.wait == .rebundle then { th.advance (seqLen s g th.seqM) with wait := .none, relAt := none } else th) })

/-- Two threads stand at one position, with one key of the kernel's policy (04 R63). -/
def Together (s : State) (g : Wg) (t u : Nat) : Prop :=
  (getTh g t).pos = (getTh g u).pos ∧ (g.hdr.policy = 1 → (getTh g t).gpc = (getTh g u).gpc) ∧
    (g.hdr.policy = 2 → dispatchIndex s g t = dispatchIndex s g u)

/-- A bundle of some threads: at most 32 of them, ascending, at one position, with one key (04 R63); a group that stands there with one key is
not split (04 R65). -/
def Bundled (s : State) (g : Wg) (ts ls : List Nat) : Prop :=
  ls ≠ [] ∧ ls.length ≤ 32 ∧ Rising ls ∧ ∀ t ∈ ls, (∀ u ∈ ls, Together s g t u) ∧
    ∀ u ∈ ts, u / 32 = t / 32 → Together s g t u → u ∈ ls

end Sys2Proof.Claims

/-- 04 R63, R70, R73: a rebuild partitions the ready threads that are not gathered into bundles, here where no thread has a meet target and
none stands at a collective; the sleeps of no cycles end first (18 R324). The held threads of a set are released when H periods have passed since a
thread of it was first held, 64 where the header gives 0, and the others may form a set anew; a thread gathered for G periods is released. That the counts begin in the period in which a thread is first held or gathered is the
model's reading, and so is that a rebuild does not split a group (R65). Those readings are logs 47 and 49. -/
def Obligations.BundlerResults : Prop :=
  ∀ (s : State) (w : Nat), (getWg s w).status = .resident → w < s.wgs.length →
    (let s' := awoken s w
      let g := getWg s' w
      ∀ (parts : List (List Nat)) (gather : List Nat),
      (∀ th ∈ g.threads, th.meet = 0 ∧ th.gather = none) →
      (∀ th ∈ g.threads, ∀ r, fetch s' g th = .word r → collectiveOp r.opc.toNat = false) →
      (∀ t ∈ gather, g.hdr.policy = 2 ∧ 0 < g.hdr.gather ∧ (getTh g t).ready = true ∧ (getTh g t).freed = false ∧ (getTh g t).seqS = false ∧
        ∃ r, fetch s' g (getTh g t) = .word r ∧ r.opc = 0x00B) →
      let ts := (List.range g.threads.length).filter (fun t => (getTh g t).ready && !gather.contains t)
      (∀ ls ∈ parts, Bundled s' g ts ls) → parts.flatten.Perm ts →
      exec (.rebundle w parts gather) s = .next (modWg s' w (fun g => { g with
        bundles := parts
        threads := g.threads.mapIdx (fun t th => { th with held := none, gather := if t ∈ gather then some 0 else none }) }))) ∧
    let g := getWg s w
    (∀ t u n, t < g.threads.length → HeldWith s g t t → MeetsWith g t u → (getTh g u).held = some n →
      (if g.hdr.hold = 0 then 64 else g.hdr.hold) ≤ n + 1 →
      ∃ t', exec (.holdLimitExpiry w t) s = .next t' ∧ (∀ v, HeldWith s g t v →
          thOf t' w v = { getTh g v with freed := true, meet := 0, held := none }) ∧
        (∀ v, ¬ HeldWith s g t v → MeetsWith g t v → thOf t' w v = { getTh g v with held := none }) ∧
        (∀ v, ¬ MeetsWith g t v → thOf t' w v = getTh g v) ∧ { t' with wgs := [] } = { s with wgs := [] } ∧
        (getWg t' w).threads.length = g.threads.length ∧ { getWg t' w with threads := [] } = { g with threads := [] } ∧
        t'.wgs.length = s.wgs.length ∧ ∀ v, v ≠ w → getWg t' v = getWg s v) ∧
    (∀ t n, (getTh g t).gather = some n → g.hdr.gather ≤ n + 1 →
      exec (.gatherWindowExpiry w t) s = .next (modTh s w t (fun th => { th with gather := none, freed := true })))

namespace Sys2Proof.Claims
open Sys2Proof.Machine

/-- The line's bytes rewrite the whole of a 32-byte word (log 17). -/
def rewritten (l : Line) (w : Nat) : Bool := (List.range 32).all (fun k => l.bytes.any (fun x => l.pa + x.1 == 32 * w + k))

end Sys2Proof.Claims

/-- 10 R173, R174, R177, 11 R187, R200, 01 R20: a line begins to drain; a drained line is written to its point of coherence, and leaves the
buffer; a combining entry performs its reduction, and a corrected error that it meets is counted; a clear makes its granule zero and clears its bit; the scrubber corrects a word and
counts it for its die. Here the line has one copy, its page is not logged, and nothing older overlaps it or is ordered before it (11 R188). -/
def Obligations.BufferResults : Prop :=
  ∀ (s : State) (core k : Nat),
    (∀ l, (getCore s core).lines[k]? = some l →
      exec (.wcbLineDrain core k) s = .next (modCore s core (fun c => { c with lines := c.lines.set k { l with draining := true } })) ∧
      (l.draining = true → l.repl = [] → l.done = [] → l.prop = false → l.ripe s core = true → clearingAt s l.pa = false → l.pa / 2 ^ 50 ≠ 2 →
        (l.bytes.map Prod.fst).Nodup → (∀ x ∈ l.bytes, x.1 < 128) → Memory.wf s.mem = true →
        (∀ j, k < j → ∀ x, (getCore s core).lines[j]? = some x → x.overlaps l.pa 128 = false) →
        (∀ e ∈ getCombs s (core / 4), overlap e.pa (e.ty.width / 8) l.pa 128 = false) →
        ∃ M, Memory.wf M = true ∧
          (∀ a, SMap.get Config.memDefault M a = match l.bytes.find? (fun x => l.pa + x.1 == a) with
            | some x => x.2
            | none => memByte s a) ∧
          exec (.storePerform core k 0) s = .next (modCore { s with mem := M, badMem := s.badMem.filter (fun w => !rewritten l w) } core (fun c =>
            { c with lines := c.lines.filter (fun x => x.stamp != l.stamp) })))) ∧
    (∀ cl e, (getCombs s cl)[k]? = some e → e.op ≤ 5 → clearingAt s e.pa = false → memBad s e.pa (e.ty.width / 8) = false →
      (∀ x ∈ e.who, x.prop = false) → exec (.combiningEntrySend cl k) s = .next (memWrite
        (countReads (setCombs s cl ((getCombs s cl).filter (fun x => x.pa != e.pa || x.op != e.op || x.ty != e.ty))) e.pa (e.ty.width / 8)) e.pa (e.ty.width / 8)
        (atomNew e.op e.ty (memRead s e.pa (e.ty.width / 8)) e.val.toNat 0))) ∧
    (∀ g, g ∈ s.clearing → Memory.wf s.mem = true →
      ∃ M U, exec (.granuleClearDone g) s = .next { s with
          mem := M, unsEx := U, clearing := s.clearing.filter (fun x => x != g)
          badMem := s.badMem.filter (fun x => x / 2048 != g), fixMem := s.fixMem.filter (fun x => x / 2048 != g) } ∧
        Memory.wf M = true ∧ (∀ a, SMap.get Config.memDefault M a = if a / 65536 = g then 0 else memByte s a) ∧
        ∀ x, unscrubbed { s with unsEx := U } x = if x = g then false else unscrubbed s x) ∧
    (∀ pa, pa / 2 ^ 50 = 0 → pa / 32 ∈ s.fixMem →
      exec (.patrolScrub pa) s = .next (modDev { s with fixMem := s.fixMem.filter (fun x => x != pa / 32) } (fun d => { d with
        corrected := SMap.set 0 d.corrected (pa / (96 * 2 ^ 30)) (SMap.get 0 d.corrected (pa / (96 * 2 ^ 30)) + 1) })))

namespace Sys2Proof.Claims
open Sys2Proof.Machine

/-- A fault record of a core, by its number (10 R179). -/
def HasRecord (s : State) (core r : Nat) (x : FaultRec) : Prop := (getCore s core).faults.find? (fun y => y.num == r) = some x

/-- Whether a thread is parked in the fault record of a number. -/
def parkedIn (r : Nat) (th : Thread) : Bool :=
  th.live && (match th.wait with | .fault n _ _ => n == r | _ => false)

/-- Bit 63, V, of the leaf that a record names. -/
def leafValid (s : State) (x : FaultRec) : Bool := (memRead s x.leaf 8).testBit 63

/-- The state without a core's fault record. -/
def unrecorded (s : State) (core r : Nat) : State :=
  modCore s core (fun c => { c with faults := c.faults.filter (fun y => y.num != r) })

end Sys2Proof.Claims

/-- 10 R172, R174, R179, 21 R346: an entry that the monitor changes is written, and until its invalidation the old one may be used too;
freed granules become unscrubbed. When the page of a fault record is mapped, every thread parked in it tries again; when it is not mapped
after 10 ms, a parked thread takes trap 0x05 with reason 8. The monitor's service copies the page, from host memory or the partition's far
memory, to HBM and makes its leaf valid there. `copyMem` is the model's copy of memory, `readFrom` its read of the source, `trapNow` the entry to a trap after the windows have ended (02 R27), and where far memory stands is its choice (log 104).
That an entry has one open change at a time is log 9, and that the service copies the page log 80. -/
def Obligations.TranslationResults : Prop :=
  ∀ (s : State),
    (∀ p pa v freed, pa % 8 = 0 → pa < 384 * 2 ^ 30 → (∀ e ∈ s.stale, ¬ (e.1 = p ∧ e.2.1 = pa)) →
      exec (.pageTableEntryChange p pa v freed) s = .next (freed.foldl (fun t g => setUnscrubbed t g true)
        (memWrite { s with stale := s.stale ++ [(p, pa, at64 (memRead s pa 8))] } pa 8 v.toNat))) ∧
    (∀ k, exec (.translationInvalidate k) s = .next { s with stale := s.stale.eraseIdx k }) ∧
    (∀ core r x, HasRecord s core r x →
      (leafValid s x = true → staleEntry s (partOfCtx s x.ctx) x.leaf = none →
        exec (.pageMappedWake core r) s = .next { unrecorded s core r with wgs := s.wgs.map (fun g => { g with
          threads := g.threads.map (fun th => if parkedIn r th then { th with wait := .none } else th) }) }) ∧
      (leafValid s x = false → x.at0 + 10000000 ≤ dtime s → ∀ w t va wr,
        (∀ v u, parkedIn r (thOf s v u) = true ↔ v = w ∧ u = t) →
        (thOf s w t).wait = .fault r va wr →
        exec (.faultTimeout core r) s = .next (trapNow (modTh (unrecorded s core r) w t (fun th => { th with wait := .none })) w t 0x05
          (at64 (x.level * 4096 + (if wr then 256 else 0) + 8)) (at64 va))) ∧
      (let e := memRead s x.leaf 8
        let p := partOfCtx s x.ctx
        leafValid s x = false →
        (e / 2 ^ 52 % 16 = 2 ∨ (e / 2 ^ 52 % 16 = 1 ∧ inFar s p (e / 2 ^ 16 % 2 ^ 36 * 65536) x.size = true)) → staleEntry s p x.leaf = none →
        ∀ pa, pa % x.size = 0 → inHbm s p pa x.size = true →
        let t := copyMem (readFrom s p (e / 2 ^ 16 % 2 ^ 36 * 65536) x.size) (e / 2 ^ 16 % 2 ^ 36 * 65536) pa x.size
        exec (.monitorServiceFault core r pa) s = .next (memWrite
          { t with stale := t.stale ++ [(p, x.leaf, at64 (memRead t x.leaf 8))] } x.leaf 8 (2 ^ 63 + e / 2 ^ 56 % 2 ^ 7 * 2 ^ 56 + pa))))

namespace Sys2Proof.Claims
open Sys2Proof.Machine

/-- The first 48 bytes of a queue's control block (21 R337). -/
def qcbOf (s : State) (u : UQueue) : Nat := memRead s u.qcb 48

/-- A field of a control block: its low bit and its width. -/
def fieldAt (x lo n : Nat) : Nat := x / 2 ^ lo % 2 ^ n

/-- The same with a field replaced. -/
def putAt (x lo n v : Nat) : Nat := x - fieldAt x lo n * 2 ^ lo + v % 2 ^ n * 2 ^ lo

/-- The slot's queue, which has no error, while the slot is not paused (21 R341, R348). -/
def Serves (s : State) (p k q : Nat) (y : Slot) (u : UQueue) : Prop :=
  (getPart s p).slots[k]? = some y ∧ p < s.parts.length ∧ y.queue = some q ∧ y.paused = false ∧ (∀ x, s.dev.update = some x → x.1 < 3) ∧
    SMap.find (getPart s p).queues q = some u ∧ u.paged = none ∧ fieldAt y.qcb 124 4 = 0

/-- The n bytes that a slot reads at an address of its queue's context, or that it cannot read them (21 R341), with no corrected error to count on the way
(01 R20). -/
def slotSees (s : State) (p : Nat) (y : Slot) (va n : Nat) (ss : BitVec 4) : Xlat → Prop := fun r =>
  checkAddr s (fieldAt y.qcb 88 20) ((getPart s p).dies.headD 0) va { align := n, rd := true, wr := false, ss := ss } s.fresh = r ∧
    cleanFor s (fieldAt y.qcb 88 20) ((getPart s p).dies.headD 0) va s.fresh = true

/-- A page whose bytes a slot can read. -/
def Readable (s : State) (pa n : Nat) (l : Leaf) : Prop :=
  l.uns = false ∧ clearingAt s pa = false ∧ memBad s pa n = false

/-- The state in which a slot has begun to read its queue's write index: the pending bit is clear (21 R341). -/
def unpended (s : State) (p q : Nat) : State := modPart s p (fun x => { x with pending := x.pending.filter (fun j => j != q) })

/-- A queue in error: the slot fetches no more (21 R339). -/
def inError (s : State) (p k : Nat) (u : UQueue) (e : Nat) : State :=
  memWrite (modPart s p (fun x => { x with slots := modAt x.slots k (fun y => { y with inLoop := false, qcb := putAt y.qcb 124 4 e }) }))
    u.qcb 48 (putAt (qcbOf s u) 124 4 e)

/-- The scheduler firmware makes mapping passes: it has started, and no live update has stopped it (21 R348). -/
def FirmwareRuns (s : State) : Prop := s.dev.phase = 6 ∧ ∀ x, s.dev.update = some x → x.1 < 3

/-- The mapping pass is due, and no slot holds a copied entry (21 R342, R343). -/
def PassDue (s : State) (p : Nat) : Prop :=
  FirmwareRuns s ∧ (getPart s p).setup ≠ none ∧ (∀ y ∈ (getPart s p).slots, y.present = []) ∧
    ((getPart s p).kicked = true ∨ (getPart s p).lastPass + 100000 ≤ dtime s) ∧ p < s.parts.length

/-- Nothing is to be reported in a pass, and the work of each queue has been seen: no double trap is outstanding, every pending number is a
queue's, no mapped queue has an error. -/
def Clean (s : State) (p : Nat) : Prop :=
  (getPart s p).doubles = [] ∧ (∀ q ∈ (getPart s p).pending, getQ s p q ≠ none) ∧
    (∀ k q u, (getSlot s p k).queue = some q → getQ s p q = some u → fieldAt (getSlot s p k).qcb 124 4 = 0) ∧
    (∀ e ∈ (getPart s p).queues, slotOf s p e.1 = none → hasWork s p e.1 e.2 = true → e.2.seen ≠ none)

/-- The slot that gives its queue up among those that pass a test: the lowest HPRI, among equals the higher number (21 R342). -/
def Victim (s : State) (p : Nat) (f : Nat → UQueue → Prop) (k : Nat) : Prop :=
  ∃ q u, k < 16 ∧ (getSlot s p k).queue = some q ∧ getQ s p q = some u ∧ f q u ∧
    ∀ j q' u', j < 16 → j ≠ k → (getSlot s p j).queue = some q' → getQ s p q' = some u' → f q' u' →
      fieldAt (getSlot s p k).qcb 300 4 < fieldAt (getSlot s p j).qcb 300 4 ∨
        (fieldAt (getSlot s p k).qcb 300 4 = fieldAt (getSlot s p j).qcb 300 4 ∧ q' < q)

/-- The state after a pass: it counts from now, a restart is over, and the state table and HSTATE follow (21 R347 to R349). -/
def passed (s t : State) (p : Nat) : State :=
  noteHearth (noteTable (modPart t p (fun x => { x with lastPass := dtime s, kicked := false, restarting := false })) p)

end Sys2Proof.Claims

/-- 21 R337, R339 to R341: a kick sets its queue's pending bit and its LACT, and interrupts the firmware when the queue has no slot; reserved
bits make it nothing. A slot clears the bit, reads the write index, and copies the entries up to it in turn; an overrun sets ERR to 1, an address
that cannot be read sets it to 2. `readFrom` counts the correctable errors that a read meets, and
asks the host for what lies there (01 R20, 22 R353). What the steps leave in the save area is a free value (`Config.slotArea`, log 109), and where the LACT of an
unmapped queue stands is the model's choice (log 74). -/
def Obligations.SlotResults : Prop :=
  ∀ (s : State) (p : Nat),
    (∀ v : Word, (getPart s p).setup ≠ none →
      (2 ^ 12 ≤ v.toNat → exec (.kick p v) s = .next s) ∧
      (v.toNat < 2 ^ 12 →
        let t := modPart s p (fun x => { x with pending := insNat x.pending v.toNat, kicked := true })
        (∀ k, slotOf s p v.toNat = some k → exec (.kick p v) s = .next (modPart s p (fun x => { x with
          pending := insNat x.pending v.toNat, slots := modAt x.slots k (fun y => { y with lact := at64 (dtime s) }) }))) ∧
        (slotOf s p v.toNat = none → (getQ s p v.toNat = none → exec (.kick p v) s = .next t) ∧
          ∀ u, getQ s p v.toNat = some u → let a := u.paged.getD u.qcb
            exec (.kick p v) s = .next (memWrite t a 48 (putAt (memRead s a 48) 320 64 (dtime s)))))) ∧
    (∀ k q y u, Serves s p k q y u →
      let x := y.qcb
      let r := y.ridx.toNat
      (y.inLoop = false → q ∈ (getPart s p).pending ∨ y.ridx ≠ u.lastW →
        (∀ pa l, slotSees s p y (fieldAt x 128 64) 8 0b1110 (.ok pa l) → Readable s pa 8 l →
          let w := memRead s pa 8
          let t := readFrom (unpended s p q) p pa 8
          (r ≤ w → w ≤ r + 2 ^ fieldAt x 72 4 →
            exec (.slotFetch p k) s = .next (modPart t p (fun x => { x with
              queues := SMap.put x.queues q { u with lastW := at64 w }
              slots := modAt x.slots k (fun y => { y with inLoop := true, area := Config.slotArea s.tick }) }))) ∧
          (w < r ∨ r + 2 ^ fieldAt x 72 4 < w → exec (.slotFetch p k) s = .next (inError t p k u 1))) ∧
        (∀ c i, slotSees s p y (fieldAt x 128 64) 8 0b1110 (.trap c i) →
          exec (.slotFetch p k) s = .next (inError (unpended s p q) p k u 2))) ∧
      (y.inLoop = true → y.ridx = u.lastW → exec (.slotFetch p k) s = .next (modPart s p (fun x =>
        { x with slots := modAt x.slots k (fun y => { y with inLoop := false }) }))) ∧
      (y.inLoop = true → y.ridx ≠ u.lastW → y.present = [] →
        let va := fieldAt x 0 64 + 128 * (r % 2 ^ fieldAt x 72 4)
        (∀ pa l, slotSees s p y va 128 0b1010 (.ok pa l) → Readable s pa 128 l →
          exec (.slotFetch p k) s = .next (modPart (readFrom s p pa 128) p (fun x => { x with slots := modAt x.slots k (fun y => { y with
            area := Config.slotArea s.tick, ridx := y.ridx + 1, lact := at64 (dtime s), present := [BitVec.ofNat 1024 (memRead s pa 128)] }) }))) ∧
        (∀ c i, slotSees s p y va 128 0b1010 (.trap c i) → exec (.slotFetch p k) s = .next (inError s p k u 2))))

/-- 21 R342, R343: a mapping pass with one unmapped queue to place, and nothing to report, gives it the lowest free slot; else the slot of
the mapped queue with the lowest HPRI among those without work; else among those mapped for the eligible time, if that HPRI is below its
effective priority; else no slot. A map takes the queue's indices, sets MAPPED, SLOT and HPRI, and clears AGE. AGE rises by one for each
step. An unmap, `unmapSlot`, writes RIDX, LACT and the save area back, reads WIDX once more, sets the pending bit again where it differs, clears MAPPED, and
frees the slot. `noteTable` and `noteHearth` those of the state table and HSTATE (logs 78, 109).
Which free slot a queue takes, the tie among equal HPRI, and that a pass is one step are the model's choice (log 76). -/
def Obligations.MappingResults : Prop :=
  ∀ (s : State) (p : Nat),
    (PassDue s p → Clean s p →
      (passQueues s p = [] → exec (.mappingPass p) s = .next (passed s s p)) ∧
      (∀ q u, passQueues s p = [q] → getQ s p q = some u →
        let busy (j : Nat) (x : UQueue) : Prop := hasWork s p j x = true
        let eligible (_ : Nat) (x : UQueue) : Prop := ∃ t, x.mapped = some t ∧ t + (getPart s p).params.eligible ≤ dtime s
        let full := ∀ j < 16, (getSlot s p j).queue ≠ none
        (∀ k < 16, (∀ j < k, (getSlot s p j).queue ≠ none) → (getSlot s p k).queue = none →
          exec (.mappingPass p) s = .next (passed s (mapSlot s p k q) p)) ∧
        (full → ∀ k, Victim s p (fun j x => ¬ busy j x) k →
          exec (.mappingPass p) s = .next (passed s (mapSlot (unmapSlot s p k) p k q) p)) ∧
        (full → (∀ j < 16, ∀ n x, (getSlot s p j).queue = some n → getQ s p n = some x → busy n x) →
          (∀ k n x, Victim s p eligible k → (getSlot s p k).queue = some n → getQ s p n = some x →
            (fieldAt (getSlot s p k).qcb 300 4 < effPrio s u →
              exec (.mappingPass p) s = .next (passed s (mapSlot (unmapSlot s p k) p k q) p)) ∧
            (effPrio s u ≤ fieldAt (getSlot s p k).qcb 300 4 → exec (.mappingPass p) s = .next (passed s s p))) ∧
          ((∀ j < 16, ∀ n x, (getSlot s p j).queue = some n → getQ s p n = some x → ¬ eligible n x) →
            exec (.mappingPass p) s = .next (passed s s p))))) ∧
    (∀ k q u, getQ s p q = some u → u.paged = none → k < (getPart s p).slots.length → k < 16 → p < s.parts.length → Memory.wf s.mem = true →
      let t := mapSlot s p k q
      let x := qcbOf s u
      getSlot t p k = { queue := some q, paused := (getCtx s (fieldAt x 88 20)).any Ctx.quiet || (getPart s p).quiet, inLoop := false
                        qcb := qcbOf t u, area := BitVec.ofNat 32768 (memRead s (u.qcb + 256) 4096), ridx := at64 (fieldAt x 192 64)
                        lact := at64 (fieldAt x 320 64), present := [] } ∧
      qcbOf t u = x - fieldAt x 288 5 * 2 ^ 288 - fieldAt x 300 8 * 2 ^ 300 + (2 * k + 1) * 2 ^ 288 +
        min 15 (fieldAt x 76 4 + fieldAt x 304 4) * 2 ^ 300) ∧
    (∀ k q u, k < (getPart s p).slots.length → p < s.parts.length → Memory.wf s.mem = true → (getSlot s p k).queue = some q →
      getQ s p q = some u → u.paged = none →
      let y := getSlot s p k
      let t := unmapSlot s p k
      let x := putAt (putAt (qcbOf s u) 192 64 y.ridx.toNat) 320 64 y.lact.toNat
      let s1 := memWrite s u.qcb 48 x
      ∀ pa l, slotSees s1 p y (fieldAt y.qcb 128 64) 8 0b1110 (.ok pa l) → Readable s1 pa 8 l →
        qcbOf t u = putAt x 288 1 0 ∧ memRead t (u.qcb + 256) 4096 = y.area.toNat ∧ getSlot t p k = Slot.free ∧
          (∀ j, j ∈ (getPart t p).pending ↔ j ∈ (getPart s p).pending ∨ (j = q ∧ memRead s1 pa 8 ≠ y.ridx.toNat)) ∧
          ∃ v, getQ t p q = some v ∧ v.mapped = none ∧ v.unmapped = dtime s ∧ v.qcb = u.qcb ∧ v.paged = none ∧ v.lastW = at64 (memRead s1 pa 8)) ∧
    (∀ q u t, FirmwareRuns s → (getPart s p).restarting = false → getQ s p q = some u → u.seen = some t → slotOf s p q = none → hasWork s p q u = true → u.paged = none →
      t + (getPart s p).params.ageStep ≤ dtime s →
      let x := qcbOf s u
      let a := fieldAt x 304 4
      exec (.queueAgeStep p q) s = .next (modPart (memWrite s u.qcb 48 (x - a * 2 ^ 304 + min 15 (a + 1) * 2 ^ 304)) p (fun y =>
        { y with queues := SMap.put y.queues q { u with seen := some (t + (getPart s p).params.ageStep) } })))

/-- 21 R337, R344, R346: a queue that has stayed unmapped for the delay has its control block, with its save area behind it (log 109),
copied to far memory, and back after a kick; the driver's queue has the control block of its fields, and a queue that is destroyed leaves
its slot. A call for the control block of another partition's context does nothing. `copyMem` and `unmapSlot` are the model's functions, and
`noteTable` lets the state table follow (R348, log 78). That the delay counts anew from a page-in is log 77. -/
def Obligations.QueueControlResults : Prop :=
  ∀ (s : State) (p q : Nat),
    (∀ u far, FirmwareRuns s → (getPart s p).restarting = false → getQ s p q = some u → slotOf s p q = none →
      let mine (x : Nat) : Prop := ∃ c, getCtx s (fieldAt x 88 20) = some c ∧ c.part = p
      (u.paged = none → far % 256 = 0 → inFar s p far 4352 = true → u.unmapped + (getPart s p).params.pageOut ≤ dtime s →
        (mine (qcbOf s u) → exec (.qcbPageOut p q far) s = .next (noteTable (modPart (copyMem s u.qcb far 4352) p (fun y =>
          { y with queues := SMap.put y.queues q { u with paged := some far } })) p)) ∧
        (¬ mine (qcbOf s u) → exec (.qcbPageOut p q far) s = .next s)) ∧
      (u.paged = some far → q ∈ (getPart s p).pending →
        (mine (memRead s far 48) → exec (.qcbPageIn p q) s = .next (noteTable (modPart (copyMem s far u.qcb 4352) p (fun y =>
          { y with queues := SMap.put y.queues q { u with paged := none, unmapped := dtime s } })) p)) ∧
        (¬ mine (memRead s far 48) → exec (.qcbPageIn p q) s = .next s))) ∧
    (∀ (c : QueueSpec) (x : Ctx), q < 4096 → c.qcb % 256 = 0 → inHbm s p c.qcb 4352 = true → getCtx s c.ctx = some x → x.part = p →
      1 ≤ c.logn → c.logn ≤ 12 → c.prio ≤ 15 → c.base.toNat % 128 = 0 → c.wptr.toNat % 8 = 0 → slotOf s p q = none → c.ctx < 2 ^ 20 →
      let v := c.base.toNat + c.logn * 2 ^ 72 + c.prio * 2 ^ 76 + c.ctx * 2 ^ 88 + c.wptr.toNat * 2 ^ 128
      let u : UQueue := { qcb := c.qcb, paged := none, seen := none, mapped := none, unmapped := dtime s, lastW := 0 }
      exec (.queueCreate p q c) s = .next (noteTable (modPart (memWrite s c.qcb 256 v) p (fun y =>
        { y with queues := SMap.put y.queues q u })) p)) ∧
    (slotOf s p q = none →
      exec (.queueDestroy p q) s = .next (noteTable (modPart s p (fun y => { y with queues := SMap.del y.queues q })) p)) ∧
    (∀ k, slotOf s p q = some k → (getSlot s p k).present = [] →
      exec (.queueDestroy p q) s = .next (noteTable (modPart (unmapSlot s p k) p (fun y => { y with queues := SMap.del y.queues q })) p))

namespace Sys2Proof.Claims
open Sys2Proof.Machine

/-- The state with every partition changed, by its number. -/
def eachPart (s : State) (f : Nat → Part → Part) : State := { s with parts := s.parts.mapIdx f }

/-- The state with the device's registers changed. -/
def withDev (s : State) (d : Dev) : State := { s with dev := d }

/-- A state table of a partition as R348 lists it. -/
def IsTable (s : State) (p : Nat) (f : FwTable) : Prop :=
  f.version = s.dev.stver ∧ f.qcbs = (getPart s p).queues.map (fun e => (e.1, e.2.qcb, e.2.paged)) ∧
    f.slots = (getPart s p).slots.map Slot.queue ∧ f.params = (getPart s p).params ∧ f.doubles = (getPart s p).doubles ∧
    ∀ r, r ∈ f.faults ↔ (∃ c ∈ (getPart s p).cores, r ∈ (getCore s c).faults) ∨
      ∃ g ∈ s.wgs, g.part = p ∧ g.status = .saved ∧ r ∈ g.savedFaults

/-- The state in which the firmware has written a state table: it stands in the global memory that the partition has for it, laid out by
`Config.stateTable` (log 78). -/
def tabled (s : State) (p : Nat) (f : FwTable) : State :=
  modPart (match (getPart s p).setup with
    | some c => memWrite s c.table c.tableLen (Config.stateTable f.words)
    | none => s) p (fun x => { x with table := some f })

/-- The device takes a warm reset: held after a trip, once no die reads 95 degrees or more; else from phase 2 on, but not where phase 2 holds it
(01 R15, R16, R18). -/
def TakesReset (d : Dev) : Prop :=
  (d.tripped = true ∧ d.hot = false) ∨
    (d.tripped = false ∧ 2 ≤ d.phase ∧ (d.phase = 2 → d.sigFail = false ∧ ¬ (d.hfailA = true ∧ d.hfailB = true)))

/-- The certificates of the attestation keys after some resets: of each key by each identity key (22 R361). -/
def certificates (n : Nat) : List (List Byte) :=
  [Config.ecdsaKey n, Config.lmsKey n].flatMap (fun k => [Config.ecdsaCertify k, Config.lmsCertify k])

/-- The ranges of a partition's parameters (17 R272, 18 R307, R308, 21 R342, R344). -/
def InRange (x : PartParams) : Prop :=
  53000 ≤ x.lbound ∧ x.lbound ≤ 1000000 ∧ x.polite + 53000 ≤ x.lbound ∧ x.polite ≤ 100000 ∧ 4000 ≤ x.killTimeout ∧ x.killTimeout ≤ 100000 ∧
    50000 ≤ x.eligible ∧ x.eligible ≤ 10000000 ∧ 50000 ≤ x.ageStep ∧ x.ageStep ≤ 10000000 ∧ 1000000 ≤ x.pageOut ∧ x.pageOut ≤ 10000000000

/-- The step of a live update that comes next (21 R348). -/
def UpdateDue (s : State) (stage : Nat) : Prop :=
  s.dev.phase = 6 ∧ s.dev.hfailA = false ∧ s.dev.hfailB = false ∧
    ((s.dev.update = none ∧ stage = 1) ∨ ∃ u, s.dev.update = some u ∧ stage = u.1 + 1)

/-- A die's highest temperature in a sample. -/
def tempOf (x : Sample) (k : Nat) : Nat := x.dieTemp.getD k 0

/-- A sample of four compute dies. -/
def FourDies (x : Sample) : Prop := x.dieTemp.length = 4 ∧ x.dieVolt.length = 4

/-- Some temperature of a sample is at least n; some voltage is off by more than n tenths of a percent. -/
def hotter (x : Sample) (n : Nat) : Prop := n ≤ x.ioTemp ∨ ∃ k ∈ x.dieTemp, n ≤ k
def offBy (x : Sample) (n : Nat) : Prop := n < x.ioVolt ∨ ∃ k ∈ x.dieVolt, n < k

/-- The device after it trips: no partition, context, workgroup or core holds anything, the cause is recorded, and the host is told; memory is
what the killed entries have left (01 R18). `endAll` and `performAll` are the model's functions of the ends. -/
def Tripped (s t : State) (cause : Nat) : Prop :=
  let u := [0, 1, 2, 3].foldl endAll (performAll s)
  t.dev = { u.dev with
    phase := 0, tripc := cause, tripped := true, acth := 0, update := none, sigFail := false, mailbox := Recovery.reset
    interrupts := u.dev.interrupts ++ [(0, 0)] } ∧
  t.wgs = [] ∧ t.ctxs = [] ∧ t.cores = [] ∧ t.owns = [] ∧ t.reqs = [] ∧ t.links = [] ∧ t.streams = [] ∧ t.cyc = s.cyc ∧ t.mem = u.mem ∧
  (∀ x ∈ t.parts, ∃ e, x = Part.empty e)

/-- The machine after a reset, with given registers and clock: all else is clear, but host and far memory, which stand outside the device (log
24), and the epochs are new (22 R364). -/
def Cleared (s t : State) (d : Dev) (cyc : Nat) : Prop :=
  ∃ e : Nat → Nat, (∀ k, 0 < e k ∧ e k < 2 ^ 16) ∧ t = { State.reset with
    dev := d, cyc := cyc, mem := s.mem.filter (fun c => decide (2 ^ 50 ≤ c.1)), badMem := s.badMem.filter (fun w => decide (2 ^ 45 ≤ w))
    fixMem := s.fixMem.filter (fun w => decide (2 ^ 45 ≤ w)), parts := [Part.empty (e 0), Part.empty (e 1), Part.empty (e 2), Part.empty (e 3)]
    sched := s.sched, tick := s.tick, fresh := s.fresh + 4 }

end Sys2Proof.Claims

/-- 21 R346 to R349: the firmware writes its state table; the watchdog restarts it from its last table, with an event and a scan of the
pending vector; the monitor sets parameters that lie in their ranges, and the table follows. A live update goes through its six steps; a
step before the fifth that fails aborts it. HSTATE says restarting, updating or running. `postEvent` writes a report's record, of which the
model keeps the report itself (log 103). The order of the steps, and that a failed Hearth stops an update, are the model's reading (log 79). The layout of the table, that it follows a write of
the parameters at once, and what a restart forgets until its next pass, are log 78. -/
def Sys2Proof.Claims.FirmwareResults : Prop :=
  ∀ (s : State), s.parts.length = 4 →
    let isUp (p : Nat) : Bool := (getPart s p).setup.isSome
    let hearth (updating : Bool) : Nat := if s.parts.any Part.restarting then 2 else if updating then 1 else 0
    (∀ p, isUp p = true →
      (∀ r, (getPart (postEvent s p r) p).events = (getPart s p).events ++ [r] ∧
        (postEvent s p r).dev.interrupts = s.dev.interrupts ++ [(p + 1, 1)]) ∧
      (s.dev.phase = 6 → (getPart s p).restarting = false →
        ∃ f : FwTable, IsTable s p f ∧ exec (.stateTableWrite p) s = .next (tabled s p f)) ∧
      (s.dev.phase = 6 → (∀ u, s.dev.update = some u → u.1 < 3) →
        let out (r : State) : Prop := exec (.watchdogExpiry p) s = .next
          (let t := modPart (postEvent r p .watchdog) p (fun x => { x with kicked := true, restarting := true })
           withDev t { t.dev with hstate := 2 })
        ((getPart s p).table = none → out s) ∧
        ∀ f, (getPart s p).table = some f → out (modPart s p (fun x => { x with
          params := f.params
          queues := x.queues.filterMap (fun e => match f.qcbs.find? (fun y => y.1 == e.1) with
            | some y => some (e.1, { e.2 with qcb := y.2.1, paged := y.2.2, seen := none })
            | none => none) }))) ∧
      (∀ x, (InRange x → ∃ f : FwTable, IsTable (modPart s p (fun y => { y with params := x })) p f ∧
          exec (.monitorSetParams p x) s = .next (tabled (modPart s p (fun y => { y with params := x })) p f)) ∧
        (¬ InRange x → exec (.monitorSetParams p x) s = .next s))) ∧
    (∀ stage fw st, UpdateDue s stage → fw < 2 ^ 16 → st < 2 ^ 8 →
      let v := (s.dev.update.map Prod.snd).getD (fw, st)
      (stage < 5 → exec (.liveUpdate stage fw st false) s = .next
        (let t := ([0, 1, 2, 3].filter isUp).foldl (fun t p => postEvent t p (.aborted stage)) s
         withDev t { t.dev with update := none, hstate := hearth false })) ∧
      (∀ ok, ok = true ∨ 5 ≤ stage →
        let d := { s.dev with update := some (stage, v), hstate := hearth true }
        (stage ≤ 3 → exec (.liveUpdate stage fw st ok) s = .next (withDev s d)) ∧
        (stage = 4 → ∃ f : Nat → FwTable, (∀ p, isUp p = true → IsTable s p (f p)) ∧ exec (.liveUpdate stage fw st ok) s = .next
          (withDev (([0, 1, 2, 3].filter isUp).foldl (fun t p => tabled t p (f p)) s) d)) ∧
        (stage = 5 → exec (.liveUpdate stage fw st ok) s = .next (withDev s { d with acth := 3 - s.dev.acth, fwver := v.1, stver := v.2 })) ∧
        (stage = 6 → exec (.liveUpdate stage fw st ok) s = .next (withDev
          (eachPart s (fun p x => { x with kicked := isUp p || x.kicked })) { s.dev with update := none, hstate := hearth false }))))

/-- 18 R316: the monitor applies a write to a debug register of a context; reserved bits are written 0. The numbers of the registers are the
event's (log 82). -/
def Sys2Proof.Claims.DebugRegisterResults : Prop :=
  ∀ (s : State) (c : Nat) (x : Ctx) (v : DWord), getCtx s c = some x →
    let put (x : Ctx) : State := { s with ctxs := SMap.put s.ctxs c x }
    exec (.debugWrite c 0 v) s = .next (put { x with dctl := v &&& 0xF0F }) ∧
    exec (.debugWrite c 1 v) s = .next (put { x with swg := v &&& 0xFFFFFFFF }) ∧
    ∀ n < 8,
      exec (.debugWrite c (2 + n) v) s = .next (put { x with nbpa := SMap.set 0 x.nbpa n (v &&& 0x80000000FFFFFFFF) }) ∧
      exec (.debugWrite c (10 + n) v) s = .next (put { x with nbpk := SMap.set 0 x.nbpk n (v &&& 0x00FFFFFFFFFFFFC0) }) ∧
      exec (.debugWrite c (18 + n) v) s = .next (put { x with gbp := SMap.set 0 x.gbp n (v &&& 0xBFFFFFFFFFFFFFFF) })

/-- 21 R346 to R349: the firmware writes its state table; the watchdog restarts it from its last table, with an event and a scan of the pending
vector; the monitor sets parameters that lie in their ranges, and the table follows. A live update goes through its six steps; a step before
the fifth that fails aborts it. HSTATE says restarting, updating or running. `postEvent` writes a report's record, of which the model keeps
the report itself (log 103). The order of the steps, and that a failed Hearth stops an update, are the model's reading (log 79). The layout
of the table, that it follows a write of the parameters at once, and what a restart forgets until its next pass, are log 78. 18 R316: the
monitor applies a write to a debug register of a context; reserved bits are written 0. The numbers of the registers are the event's (log
82). -/
def Obligations.FirmwareAndDebugResults : Prop := FirmwareResults ∧ DebugRegisterResults

/-- 01 R14 to R16, R18, 21 R349, 22 R361: what the resets clear and keep, when a warm reset is taken, and what each phase of bring-up
leaves. The image's signatures, the training and the voltages come from outside the model. That a voltage setting of 0 stands for one that has not been made,
and the voltages 0 of a cold reset, are log 3. That far and host memory stay at a reset is log
24, when a warm reset is taken log 25, and the outcomes that are free are log 31. -/
def Obligations.ResetAndBringUpResults : Prop :=
  ∀ s : State,
    (∃ t, exec .coldReset s = .next t ∧ Cleared s t { Dev.reset with
      keyGen := s.dev.keyGen + 1, certs := certificates (s.dev.keyGen + 1) } 0) ∧
    (TakesReset s.dev → ∃ t, exec .warmReset s = .next t ∧ Cleared s t { Dev.reset with
      phase := 2, tripc := s.dev.tripc, volts := s.dev.volts, hfailA := s.dev.hfailA, hfailB := s.dev.hfailB
      keyGen := s.dev.keyGen + 1, certs := certificates (s.dev.keyGen + 1) } s.cyc) ∧
    (¬ TakesReset s.dev → exec .warmReset s = .next s) ∧
    (s.dev.tripped = false → ∀ (ok : Bool) (volts : List Nat),
      let go (d : Dev) : Prop := exec (.bringUpPhase ok volts) s = .next (withDev s d)
      let d := s.dev
      (d.phase = 0 → go { d with phase := 1 }) ∧
      (d.phase = 1 → go { d with phase := 2 }) ∧
      (d.phase = 2 → d.hfailA = true → d.hfailB = true → go d) ∧
      (d.phase = 2 → d.hfailA = false ∨ d.hfailB = false →
        (d.mailbox.state = 4 → go { d with phase := 3, sigFail := false }) ∧
        (d.mailbox.state ≠ 4 → d.sigFail = true → go d) ∧
        (d.mailbox.state ≠ 4 → d.sigFail = false → ok = true → go { d with phase := 3 }) ∧
        (d.mailbox.state ≠ 4 → d.sigFail = false → ok = false →
          go { d with sigFail := true, mailbox := { Recovery.reset with state := 1 } })) ∧
      (d.phase = 3 → (∃ v ∈ d.volts, v ≠ 0) → go { d with phase := 4 }) ∧
      (d.phase = 3 → (∀ v ∈ d.volts, v = 0) → volts.length = 4 → (∀ v ∈ volts, v ≠ 0) → go { d with phase := 4, volts := volts }) ∧
      (d.phase = 4 → d.fail = false → go (if ok then { d with phase := 5 } else { d with fail := true })) ∧
      (d.phase = 4 → d.fail = true → go d) ∧
      (d.phase = 5 → ∃ f v, f < 2 ^ 16 ∧ v < 2 ^ 8 ∧ exec (.bringUpPhase ok volts) s = .next { s with
        unsAll := true, unsEx := []
        dev := { d with phase := 6, acth := if d.hfailA then 2 else 1, fwver := f, stver := v } }) ∧
      (6 ≤ d.phase → go d))

/-- 01 R17 to R20, 21 R349: a sample sets the warning bits and tells the host of a warning; beyond the limits, or when the reference clock
or the memory of a Hearth fails, the device trips. Which of several causes is recorded is log 25, HSTATE after the failure of a Hearth's
memory log 27, and what a trip performs and ends, said by the model's `trip`, logs 26 and 110. -/
def Obligations.MonitorAndTripResults : Prop :=
  ∀ s : State, s.dev.tripped = false →
    (∀ x, FourDies x → 3 ≤ s.dev.phase →
      (¬ hotter x 105 → ¬ offBy x 60 → x.power ≤ 2200 → ∃ d, exec (.monitorSample x) s = .next (withDev s d) ∧
        (hotter x d.maxt ∧ (∀ n, hotter x n → n ≤ d.maxt)) ∧ (d.hot = true ↔ hotter x 95) ∧
        (∀ k < 4, d.twarn.getLsbD k = (s.dev.twarn.getLsbD k || decide (95 ≤ tempOf x k))) ∧
        d.twio = (s.dev.twio || decide (95 ≤ x.ioTemp)) ∧ (d.vwarn = true ↔ s.dev.vwarn = true ∨ offBy x 30) ∧
        d.pwarn = (s.dev.pwarn || decide (2000 < x.power)) ∧
        (hotter x 95 ∨ offBy x 30 ∨ 2000 < x.power → d.interrupts = s.dev.interrupts ++ [(0, 0)]) ∧
        (¬ hotter x 95 → ¬ offBy x 30 → x.power ≤ 2000 → d.interrupts = s.dev.interrupts) ∧
        { d with maxt := s.dev.maxt, hot := s.dev.hot, twarn := s.dev.twarn, twio := s.dev.twio, vwarn := s.dev.vwarn, pwarn := s.dev.pwarn
                 interrupts := s.dev.interrupts } = s.dev) ∧
      (hotter x 105 ∨ offBy x 60 ∨ 2200 < x.power → ∃ t, exec (.monitorSample x) s = .next t ∧ t.dev.phase = 0 ∧ t.dev.tripped = true ∧
        (t.dev.tripc = 1 ∧ hotter x 105 ∨ t.dev.tripc = 2 ∧ offBy x 60 ∨ t.dev.tripc = 3 ∧ 2200 < x.power))) ∧
    (1 ≤ s.dev.phase → ∃ t, exec .refClockLoss s = .next t ∧ Tripped s t 4) ∧
    (2 ≤ s.dev.phase → ∀ b, ∃ t u, exec (.hearthMemoryError b) s = .next u ∧ Tripped s t 5 ∧
      u = withDev t { t.dev with hstate := 3, hfailA := t.dev.hfailA || !b, hfailB := t.dev.hfailB || b }) ∧
    (s.dev.phase < 2 → ∀ b, exec (.hearthMemoryError b) s = .next s)

namespace Sys2Proof.Claims
open Sys2Proof.Machine

/-- A request to host (2) or far memory (1) that is not answered, or whose data are bad, as an event (22 R354, R357). -/
def failedAccess (space w t k : Nat) : Instr := if space = 2 then .hostCompletionTimeout w t k else .farRequestTimeout w t k

/-- The mailbox is active: the device is held in phase 2 (22 R355). -/
def Mailbox (s : State) : Prop := s.dev.phase = 2 ∧ s.dev.sigFail = true

/-- The state with the mailbox changed. -/
def withMailbox (s : State) (m : Recovery) : State := { s with dev := { s.dev with mailbox := m } }

/-- The piece at ROFS of length RLEN is well formed (22 R356). -/
def PieceOk (m : Recovery) : Prop :=
  m.rofs.toNat % 4 = 0 ∧ m.rlen.toNat % 4 = 0 ∧ 4 ≤ m.rlen.toNat ∧ m.rlen.toNat ≤ 2048 ∧ m.rofs.toNat + m.rlen.toNat ≤ 4 * 2 ^ 20

/-- The length of the image is well formed (22 R356). -/
def LengthOk (m : Recovery) : Prop := m.rtot.toNat % 4 = 0 ∧ 4 ≤ m.rtot.toNat ∧ m.rtot.toNat ≤ 4 * 2 ^ 20

/-- The image that is verified: the first RTOT bytes of the buffer (22 R355). -/
def uploaded (m : Recovery) : List Byte := (List.range m.rtot.toNat).map (SMap.get 0 m.image)

end Sys2Proof.Claims

/-- 22 R355, R356: the commands of the recovery mailbox, the copying of a piece, and the verification, while the mailbox is active; else
nothing happens. A malformed header discards the image as a bad signature does: the model's reading. The order of the checks, and that a
command in another state does nothing, are log 81. -/
def Sys2Proof.Claims.RecoveryResults : Prop :=
  ∀ (s : State),
    (¬ Mailbox s → ∀ i, i ∈ [Instr.piece, .start, .abort, .recoveryPieceCopied, .recoveryVerifyDone] → exec i s = .next s) ∧
    (Mailbox s →
      let m := s.dev.mailbox
      let go (i : Instr) (n : Recovery) : Prop := exec i s = .next (withMailbox s n)
      (m.state = 1 → PieceOk m → go .piece { m with state := 2, err := 0 }) ∧
      (m.state = 1 → ¬ PieceOk m → go .piece { m with state := 5, err := 1 }) ∧
      (m.state = 1 → LengthOk m → go .start { m with state := 3, err := 0 }) ∧
      (m.state = 1 → ¬ LengthOk m → go .start { m with state := 5, err := 2 }) ∧
      go .abort { m with state := 1, err := 0, image := [] } ∧
      (m.state = 2 → PieceOk m → go .recoveryPieceCopied { m with
        state := 1, image := SMap.setMany 0 m.image m.rofs.toNat ((List.range m.rlen.toNat).map (SMap.get 0 m.window)) }) ∧
      (m.state = 3 →
        let x := uploaded m
        let failed (e : Nat) : Recovery := { m with state := 5, err := e, image := [] }
        go .recoveryVerifyDone
          (if Config.imageHeaderOk x = false then failed 5 else if Config.ecdsaOk x = false then failed 3
           else if Config.lmsOk x = false then failed 4 else { m with state := 4, err := 0 })))

/-- 01 R15, R18, R19, 21 R340, 22 R353, R355, R356: what a write to each register of the device control page does, while the functions answer:
from phase 1 on, and while the device is held after a trip. PKG_STS clears the warning bits written as ones;
RCTL is a command; the other mailbox registers and the window hold what is written, while the mailbox is active; any other offset has no
writable register. The KICK page of a partition reads as 0. -/
def Sys2Proof.Claims.RegisterWriteResults : Prop :=
  ∀ (s : State) (v : Word),
    let m := s.dev.mailbox
    let wr (ofs : Nat) := exec (.registerWrite ofs v) s
    let answers := 1 ≤ s.dev.phase ∨ s.dev.tripped = true
    (¬ answers → ∀ ofs fn, wr ofs = .next s ∧ readPage s fn ofs = none) ∧
    (answers →
    (∀ ofs fn, readPage s (fn + 1) ofs = some 0) ∧
    (∃ d, wr 0x40 = .next (withDev s d) ∧ (∀ k < 4, d.twarn.getLsbD k = (s.dev.twarn.getLsbD k && !v.getLsbD (20 + k))) ∧
      d.twio = (s.dev.twio && !v.getLsbD 19) ∧ d.vwarn = (s.dev.vwarn && !v.getLsbD 18) ∧ d.pwarn = (s.dev.pwarn && !v.getLsbD 17) ∧
      { d with twarn := s.dev.twarn, twio := s.dev.twio, vwarn := s.dev.vwarn, pwarn := s.dev.pwarn } = s.dev) ∧
    (v.toNat % 4 = 0 → wr 0x700 = .next s) ∧ (v.toNat % 4 = 1 → wr 0x700 = exec .piece s) ∧
    (v.toNat % 4 = 2 → wr 0x700 = exec .start s) ∧ (v.toNat % 4 = 3 → wr 0x700 = exec .abort s) ∧
    (Mailbox s →
      wr 0x708 = .next (withMailbox s { m with rofs := v }) ∧ wr 0x70C = .next (withMailbox s { m with rlen := v &&& 0xFFF }) ∧
      wr 0x710 = .next (withMailbox s { m with rtot := v }) ∧
      ∀ k < 512, wr (0x800 + 4 * k) = .next (withMailbox s { m with
        window := SMap.setMany 0 m.window (4 * k) ((List.range 4).map (fun j => v.extractLsb' (8 * j) 8)) })) ∧
    (∀ ofs, ofs ≠ 0x40 → ofs ≠ 0x700 → ¬ Mailbox s → wr ofs = .next s) ∧
    (∀ ofs, ofs ∉ [0x40, 0x700, 0x708, 0x70C, 0x710] → ¬ (0x800 ≤ ofs ∧ ofs < 0x1000 ∧ ofs % 4 = 0) → wr ofs = .next s))

/-- 22 R355, R356: the commands of the recovery mailbox, the copying of a piece, and the verification, while the mailbox is active; else nothing
happens. A malformed header discards the image as a bad signature does: the model's reading. The order of the checks, and that a command in
another state does nothing, are log 81. 01 R15, R18, R19, 21 R340, 22 R353, R355, R356: what a write to each register of the device control
page does, while the functions answer: from phase 1 on, and while the device is held after a trip. PKG_STS clears the warning bits written
as ones; RCTL is a command; the other mailbox registers and the window hold what is written, while the mailbox is active; any other offset
has no writable register. The KICK page of a partition reads as 0. -/
def Obligations.RecoveryAndRegisterResults : Prop := RecoveryResults ∧ RegisterWriteResults

/-- 22 R354, R357: a load from host or far memory that is not answered in time, or whose data are poisoned, completes with uncorrectable
data, which its consumer meets (02 R27); so does an atomic, and whether it was performed is open; to host memory it was a request of its
partition's function (22 R353, R354), as the load is, whose errors `coreMeets` counts. The bytes that its register then holds are those that memory holds: the model's choice (log 39). Here no
other lane shares the result. -/
def Sys2Proof.Claims.FailedAccessResults : Prop :=
  ∀ (s : State) (space w t k : Nat) (p : Pend), space = 1 ∨ space = 2 → (thOf s w t).pend[k]? = some p →
    (∀ q ∈ (thOf s w t).pend, q.tok = p.tok → q = p) → (∀ v, v ≠ t → ∀ q ∈ (thOf s w v).pend, q.tok ≠ p.tok) →
    let known (u : State) (ws : List RegWrite) : State := modTh u w t (fun th => { th with pend := th.pend.map (fun q =>
      if q.tok = p.tok then { q with src := .known, acq := 0, bad := p.bad, writes := ws } else q) })
    (∀ pa ty d, p.src = .load pa ty d false → pa / 2 ^ 50 = space → getCombs s (clusterOf (getWg s w).core) = [] →
      exec (failedAccess space w t k) s = .next
        (known (coreMeets s (getWg s w).core (getWg s w).part pa (ty.width / 8))
        (regWrites d (extTy ty (leOf (fun j => coreByte s (getWg s w).core (pa + j)) (ty.width / 8)))))) ∧
    (∀ id ty d c r op ty' x e, p.src = .req id ty d c → r.id = id → s.reqs.find? (fun q => q.id == id) = some r →
      r.pa / 2 ^ 50 = space → r.wg = w → r.kind = .atom op ty' false [(t, p.tok, x, e)] →
      let n := ty'.width / 8
      let old := memRead s r.pa n
      let done : State := { s with
        reqs := s.reqs.filter (fun q => q.id ≠ id)
        dev := if space = 2 then { s.dev with posted := s.dev.posted ++ [.atomic (r.part + 1) r.pa op ty' x e] } else s.dev }
      ∃ b : Bool, exec (failedAccess space w t k) s = .next (known
        (if b then memWrite done r.pa n (atomNew op ty' old x.toNat e.toNat) else done) (regWrites d (extTy ty old))))

/-- 11 R198, R199, R186: a request is performed at its home indivisibly: the location takes its lanes' operations in order, each lane receives
the value it met, and the request is gone; a reduction answers nothing. In host memory the lanes' operations are one request of the
partition's function, an `.add` of all of them (R199, 22 R354), and a correctable error met is counted (01 R20). Here no buffered reduction
of the cluster is held, the word is good, and its page is not logged. 02 R26, R27, 06 R100, 11 R186: a result that is known is written: its
registers and flags, and %irs for a region-closing one; where its window has not ended yet it is kept, to stand again at the window's end; a
load that has not read yet reads its bytes through the core's buffer, and its result is then known. Here no other lane shares the result, no
other result of the thread goes to its registers, no `stx` that is not answered stands before a uniform register (log 126), and no other
load of the thread waits; `coreMeets` counts the errors that the read corrects, and reads host memory for the partition's function (01 R20,
22 R353). 22 R354, R357: a load from host or far memory that is not answered in time, or whose data are poisoned, completes with
uncorrectable data, which its consumer meets (02 R27); so does an atomic, and whether it was performed is open; to host memory it was a
request of its partition's function (22 R353, R354), as the load is, whose errors `coreMeets` counts. The bytes that its register then holds
are those that memory holds: the model's choice (log 39). Here no other lane shares the result. -/
def Obligations.AtomicAndAwaitedResults : Prop := AtomicAtHomeResult ∧ LongLatencyResult ∧ FailedAccessResults

namespace Sys2Proof.Claims
open Sys2Proof.Machine

/-- A set-up that the monitor may make beside the other partitions', with an event ring in host memory (the ring's naming: log 103), and with room
for the state table in the HBM of one of its dies (its place: log 78) (21 R348, 22 R350, R351, R357). -/
def Allowed (s : State) (p : Nat) (c : PartSetup) : Prop :=
  c.dies ∈ [[0], [1], [2], [3], [0, 1], [2, 3], [0, 1, 2, 3]] ∧ c.weights.length = 4 ∧ (∀ w ∈ c.weights, 1 ≤ w ∧ w ≤ 15) ∧
    (∀ u ∈ c.far, u < 4096) ∧ (∀ n, c.udpPort = some n → n < 2 ^ 16) ∧
    0 < c.tableLen ∧ c.table / (96 * 2 ^ 30) ∈ c.dies ∧ (c.table + c.tableLen - 1) / (96 * 2 ^ 30) = c.table / (96 * 2 ^ 30) ∧
    (c.ringLen = 0 ∨ (c.ring % 32 = 0 ∧ c.ring / 2 ^ 50 = 2 ∧ (c.ring + 32 * c.ringLen - 1) / 2 ^ 50 = 2)) ∧
    ∀ q < 4, q ≠ p → ∀ o, (getPart s q).setup = some o → (∀ d ∈ c.dies, d ∉ o.dies) ∧ ∀ u ∈ c.far, u ∉ o.far

/-- No context belongs to a partition. -/
def NoContext (s : State) (p : Nat) : Prop := ∀ c ∈ s.ctxs, c.2.part ≠ p

/-- The state after the last stage of a partition's reset, by its set-up, a new epoch, and the granules that differ from the rule (22 R352). -/
def resetDone (s : State) (p : Nat) (c : PartSetup) (epoch : Nat) (ex : List Nat) : State :=
  let ofCluster (k : Nat) : Nat := k / 8
  let x := getPart s p
  let own (k : Nat) : Bool := (getCtx s k).any (fun y => y.part == p)
  let far (pa : Nat) : Bool := pa / 2 ^ 50 == 1 && c.far.contains (pa % 2 ^ 50 / 2 ^ 30)
  { s with
    mem := s.mem.filter (fun e => !far e.1), badMem := s.badMem.filter (fun w => !far (32 * w)), unsEx := ex
    clearing := s.clearing.filter (fun g => !c.dies.contains (g / (96 * 2 ^ 14)))
    cores := s.cores.filter (fun e => !c.dies.contains (e.1 / 32)), owns := s.owns.filter (fun e => !c.dies.contains (ofCluster (e.1 / 64)))
    combs := s.combs.filter (fun e => !c.dies.contains (ofCluster e.1)), streams := s.streams.filter (fun e => e.part != p)
    stale := s.stale.filter (fun e => e.1 != p), wakes := s.wakes.filter (fun e => !c.dies.contains (e.1 / 32))
    ctxs := s.ctxs.filter (fun e => e.2.part != p)
    dev := { s.dev with
      migrated := s.dev.migrated.filter (fun e => !own e.1), images := s.dev.images.filter (fun i => !own i.ctx) }
    fresh := s.fresh + 1
    parts := s.parts.set p { Part.empty epoch with setup := some c, lastFold := x.lastFold } }

/-- A context as the monitor creates it (13 R209, 18 R316). -/
def newContext (p : Nat) (roots : List Nat) (dlog ring : Nat) : Ctx :=
  { part := p, roots := roots, classes := [], regions := [], exports := [], dctl := 0, swg := 0, nbpa := [], nbpk := [], gbp := [], spill := []
    migrants := [], dlog := dlog, dring := ring, quiet := false, dead := false, revoked := false }

/-- A context replaced. -/
def putCtx (s : State) (c : Nat) (x : Ctx) : State := { s with ctxs := SMap.put s.ctxs c x }

/-- The log of a context emptied (22 R358). -/
def logEmptied (s : State) (x : Ctx) : State := memWrite s (x.dlog + 8) 8 (memRead s x.dlog 8)

/-- OVF of a context's log cleared (22 R358). -/
def ovfCleared (s : State) (x : Ctx) : State := memWrite s (x.dlog + 16) 1 (memRead s (x.dlog + 16) 1 / 2 * 2)

/-- The step of a context's migration that has been done. -/
def migrating (s : State) (c stage : Nat) : State := withDev s { s.dev with migrated := SMap.set 0 s.dev.migrated c stage }

/-- Nothing of a context of partition p is on its way: no workgroup is on a core, no request or link operation is outstanding, and no entry waits
for its completion (22 R359 step 3). -/
def Still (s : State) (p c : Nat) : Prop :=
  (∀ g ∈ s.wgs, g.ctx = c → g.part = p → g.onCore = false) ∧ (∀ r ∈ s.reqs, ¬ (r.ctx = c ∧ r.part = p)) ∧
    (∀ l ∈ s.links, ¬ ((getWg s l.wg).ctx = c ∧ (getWg s l.wg).part = p)) ∧ ∀ e ∈ (getPart s p).entries, e.ctx = c → e.status = none

/-- What has been copied of a context so far; what is copied replaces it. -/
def soFar (s : State) (c : Nat) : CtxImage := (s.dev.images.find? (fun i => i.ctx == c)).getD
  { ctx := c, classes := [], regions := [], exports := [], queues := [], pages := [], migrants := [], pending := [] }
def imaged (s : State) (i : CtxImage) : State :=
  withDev s { s.dev with images := s.dev.images.filter (fun j => j.ctx != i.ctx) ++ [i] }

/-- A page as it is copied from where its contents stand, address a: its bytes, and its words with uncorrectable errors; what is to be cleared
reads as zeros (10 R174). -/
def pageAt (s : State) (y : Nat × Nat × Nat) (a : Nat) : CtxPage :=
  let uns := (memRead s y.2.2 8).testBit 57
  let shown (pa : Nat) : Bool := decide (a ≤ pa ∧ pa < a + y.2.1) && !(uns && unscrubbed s (pa / 65536)) && !clearingAt s pa
  { va := y.1, size := y.2.1, cells := (s.mem.filter (fun e => shown e.1)).map (fun e => (e.1 - a, e.2))
    bad := (s.badMem.filter (fun w => shown (32 * w))).map (fun w => w - a / 32) }

/-- A page that a context's log names, or, while OVF is set, one that is writable (22 R358). -/
def Logged (s : State) (x : Ctx) (y : Nat × Nat × Nat) : Prop :=
  (∃ k < min 65536 ((memRead s x.dlog 8 + 2 ^ 64 - memRead s (x.dlog + 8) 8) % 2 ^ 64),
      let g := memRead s (x.dring + 8 * ((memRead s (x.dlog + 8) 8 + k) % 65536)) 8 % 2 ^ 40
      y.1 ≤ 65536 * g ∧ 65536 * g < y.1 + y.2.1) ∨
    ((memRead s (x.dlog + 16) 1).testBit 0 = true ∧ (memRead s y.2.2 8).testBit 61 = true)

/-- What a round leaves: the first copies every page, a later one those that the log names, and the log is emptied. What host memory holds, and a
page that has no contents, is not copied (22 R359 steps 2, 4). Here the tables map at most one page. -/
def Round (s : State) (c : Nat) (x : Ctx) (first : Bool) (t : State) : Prop :=
  (pagesOf s x = [] ∨ (∃ y, pagesOf s x = [y] ∧ contentsAt (memRead s y.2.2 8) = none) → t = logEmptied s x) ∧
    ∀ y a, pagesOf s x = [y] → contentsAt (memRead s y.2.2 8) = some a →
      (first = true ∨ Logged s x y → t = logEmptied (imaged (countReads s a y.2.1)
        { soFar s c with pages := (soFar s c).pages.filter (fun z => z.va != y.1) ++ [pageAt s y a] }) x) ∧
      (first = false → ¬ Logged s x y → t = logEmptied s x)

/-- What is copied of a context: its tables, its queues with their control blocks and save areas, its entries with what is left of their
deadlines and budgets and their saved workgroups, and its pending launches (22 R359 step 5); its pages have been copied. -/
def copied (s : State) (c : Nat) (x : Ctx) : CtxImage :=
  let p := getPart s x.part
  { ctx := c, classes := x.classes, regions := x.regions, exports := x.exports
    queues := (p.queues.filter (fun e => fieldAt (qcbOf s e.2) 88 20 == c)).map (fun e =>
      (e.1, e.2.qcb, memRead s (e.2.paged.getD e.2.qcb) 4352))
    pages := (soFar s c).pages
    migrants := (p.entries.filter (fun e => e.ctx == c)).map (fun e =>
      { raw := BitVec.ofNat 1024 (putAt e.raw.toNat 256 64 (leftOf e)), d := e.d - dtime s, ended := e.ended, lastEnd := e.lastEnd
        wgs := (wgsOf s x.part e.qe (· == .saved)).map (getWg s) }) ++ x.migrants.map (fun m => { m with d := m.d - dtime s })
    pending := (p.store.filter (fun e => e.2 == c)).map Prod.fst ++ x.spill }

/-- An image is on its device no more. -/
def unimaged (s : State) (c : Nat) : State := withDev s { s.dev with images := s.dev.images.filter (fun i => i.ctx != c) }

end Sys2Proof.Claims

/-- 22 R350 to R352, R362: the monitor sets up a partition, and writes its peer table; a reset of a partition quiesces it and kills its
contexts, and when they are gone clears what the old tenant could write: every granule of its HBM reads as zeros until it is cleared. Where
far memory stands, and that a partition's streams go with it, are the model's (logs 104, 105). What a reset keeps is log 83. -/
def Sys2Proof.Claims.PartitionResults : Prop :=
  ∀ (s : State) (p : Nat), p < 4 → s.parts.length = 4 →
    (∀ c, s.dev.phase = 6 → NoContext s p → (getPart s p).quiet = false →
      (Allowed s p c → exec (.partitionSetup p c) s = .next (modPart s p (fun x => { x with setup := some c }))) ∧
      (¬ Allowed s p c → exec (.partitionSetup p c) s = .next s)) ∧
    (∀ c, (getPart s p).setup = some c →
      (∀ dev < 2 ^ 20,
        exec (.peerTableWrite p dev none) s = .next (modPart s p (fun x => { x with peers := SMap.del x.peers dev })) ∧
        ∀ e, let new := SMap.put (getPart s p).peers dev e
          (new.length ≤ 4096 → exec (.peerTableWrite p dev (some e)) s = .next (modPart s p (fun x => { x with peers := new }))) ∧
          (4096 < new.length → exec (.peerTableWrite p dev (some e)) s = .next s)) ∧
      ((getPart s p).quiet = false → exec (.partitionReset p) s = .next
        (((s.ctxs.filter (fun e => e.2.part = p ∧ e.2.dead = false)).map Prod.fst).foldl killContext
          (modPart s p (fun x => { x with quiet := true, slots := x.slots.map (fun y => { y with paused := true }) })))) ∧
      ((getPart s p).quiet = true → (∀ e ∈ s.ctxs, e.2.part = p → e.2.revoked = true) → (getPart s p).entries = [] →
        (getPart s p).store = [] → (∀ r ∈ s.reqs, r.part ≠ p) → (∀ l ∈ s.links, (getWg s l.wg).part ≠ p) →
        ∃ epoch ex, 0 < epoch ∧ epoch < 2 ^ 16 ∧ exec (.partitionReset p) s = .next (resetDone s p c epoch ex) ∧
          ∀ g < 4 * 96 * 2 ^ 14, unscrubbed { s with unsEx := ex } g = (c.dies.contains (g / (96 * 2 ^ 14)) || unscrubbed s g)))

/-- 10 R170, 13 R209, 14 R238, 22 R358, R365: the monitor creates a context with one root for each die of its partition, registers and
revokes regions, and writes export tables. That the creation writes no memory is log 84, and the generations of regions log 85. -/
def Sys2Proof.Claims.ContextResults : Prop :=
  ∀ (s : State) (c : Nat),
    (∀ p roots dlog ring, p < 4 → c < 2 ^ 20 → (getPart s p).setup ≠ none → (getPart s p).quiet = false → getCtx s c = none →
      roots.length = (getPart s p).dies.length → (∀ r ∈ roots, r % 65536 = 0 ∧ inHbm s p r 65536 = true) →
      dlog % 64 = 0 → ring % 8 = 0 → inHbm s p dlog 64 = true → inHbm s p ring (8 * 65536) = true →
      exec (.contextCreate p c roots dlog ring) s = .next (putCtx s c (newContext p roots dlog ring))) ∧
    (∀ x, getCtx s c = some x → ∀ idx,
      (∀ rg : Region, idx < 2 ^ 20 → rg.base % 65536 = 0 → rg.len % 65536 = 0 → 0 < rg.len → paOk rg.base = true →
        paOk (rg.base + rg.len - 1) = true →
        let gen := match SMap.find x.regions idx with | some r => r.gen | none => 1
        exec (.regionRegister c idx rg) s = .next (putCtx s c { x with regions := SMap.put x.regions idx { rg with gen := gen } })) ∧
      (∀ r, SMap.find x.regions idx = some r → exec (.regionRevoke c idx) s = .next
        (putCtx s c { x with regions := SMap.put x.regions idx { r with gen := nextGen r.gen } })) ∧
      (idx < 4096 →
        (∀ e, exec (.exportTableWrite c idx (some e)) s = .next (putCtx s c { x with exports := SMap.put x.exports idx e })) ∧
        exec (.exportTableWrite c idx none) s = .next (putCtx s c { x with exports := SMap.del x.exports idx })))

/-- 22 R350 to R352, R362: the monitor sets up a partition, and writes its peer table; a reset of a partition quiesces it and kills its
contexts, and when they are gone clears what the old tenant could write: every granule of its HBM reads as zeros until it is cleared. Where
far memory stands, and that a partition's streams go with it, are the model's (logs 104, 105). What a reset keeps is log 83. 10 R170, 13
R209, 14 R238, 22 R358, R365: the monitor creates a context with one root for each die of its partition, registers and revokes regions, and
writes export tables. That the creation writes no memory is log 84, and the generations of regions log 85. -/
def Obligations.PartitionAndContextResults : Prop := PartitionResults ∧ ContextResults

/-- 22 R360, R361: the body of an attestation report, by its fields, and the count of reports that a tree has signed. The
signatures and the images that are no upload are free values; which byte of a digest stands lowest is log 87. -/
def Sys2Proof.Claims.AttestationResults : Prop :=
  ∀ (s : State) (p : Nat) (c : PartSetup) (nonce : List Byte), p < 4 → (getPart s p).setup = some c → c.dies.Nodup → (∀ d ∈ c.dies, d < 4) →
    s.dev.phase = 6 → nonce.length = 48 →
    (32768 ≤ s.dev.signed → exec (.attestationReport p nonce) s = .next s) ∧
    (s.dev.signed < 32768 → ∃ body ecdsa lms, body.length = 256 ∧ ecdsa.length = 96 ∧ lms.length = 2668 ∧
      exec (.attestationReport p nonce) s = .next (withDev s { s.dev with
        signed := s.dev.signed + 1, reports := s.dev.reports ++ [body ++ ecdsa ++ lms] }) ∧
      let x := leVal body
      fieldAt x 0 16 = 0x5A52 ∧ fieldAt x 16 16 = 1 ∧ (∀ d < 4, fieldAt x (32 + d) 1 = if d ∈ c.dies then 1 else 0) ∧ fieldAt x 36 2 = p ∧
        fieldAt x 38 26 = 0 ∧ fieldAt x 64 64 = dtime s % 2 ^ 64 ∧ fieldAt x 128 384 = leVal nonce ∧
        fieldAt x 512 384 = leVal (sha384 Config.identityKeys) ∧ fieldAt x 896 384 = leVal (sha384 (monitorNow s.dev)) ∧
        fieldAt x 1280 384 = leVal (sha384 (Config.schedImage s.dev.fwver)) ∧
        fieldAt x 1664 384 = leVal (sha384 (Config.partConfig c (getPart s p).params))) ∧
    (s.dev.mailbox.state = 4 → monitorNow s.dev = uploaded s.dev.mailbox)

/-- 22 R358, R359: the steps of the migration of a context on the device that it leaves: PROP is set and the log emptied; rounds copy pages
and drain the log; the slots pause and the ladder begins; what follows waits until nothing of it is on its way; then the rest is copied, and in the
end its entries, queues and exports are gone. On the target it takes its pages and tables, and its entries are presented again with what is left of
their deadlines. Here at most one page is writable, no queue is mapped, and the context has no saved workgroup at the end. `pagesOf`, `contentsAt`
and `placesOf` are the model's readings of the tables, `arrives` what comes from elsewhere. The images, which pages a round copies, and that QCBs
keep their addresses, are the model's (log 111), which keeps the state table current (log 78). -/
def Sys2Proof.Claims.MigrationResults : Prop :=
  ∀ (s : State) (c : Nat) (x : Ctx), getCtx s c = some x → x.dead = false →
    let did := SMap.get 0 s.dev.migrated c
    let p := x.part
    let leaves := (x.roots.flatMap (writableLeaves s)).eraseDups
    let marked := { x with regions := x.regions.map (fun r => (r.1, { r.2 with prop := true })) }
    let saved := ∃ g ∈ s.wgs, g.ctx = c ∧ g.part = p ∧ g.status = .saved
    (did = 0 → leaves = [] →
      exec (.contextMigration c 1) s = .next (ovfCleared (logEmptied (putCtx (migrating s c 1) c marked) x) x)) ∧
    (∀ pa, did = 0 → leaves = [pa] → staleEntry s p pa = none → memRead s pa 8 / 2 ^ 58 % 2 = 0 →
      exec (.contextMigration c 1) s = .next (ovfCleared (logEmptied (putCtx
        (changeEntry (migrating s c 1) p pa (at64 (memRead s pa 8 + 2 ^ 58))) c marked) x) x)) ∧
    (did = 1 ∨ did = 2 → ∃ t, exec (.contextMigration c 2) s = .next t ∧ Round (migrating s c 2) c x (decide (did = 1)) t) ∧
    (did = 2 → (∀ g ∈ s.wgs, g.onCore = true → g.ctx ≠ c) →
      exec (.contextMigration c 3) s = .next (((getPart s p).entries.filter (fun e => e.ctx == c)).foldl
        (fun t e => endGrants t (heldCores t p e.qe))
        (modPart (putCtx (migrating s c 3) c { x with quiet := true }) p (fun y => { y with
          slots := y.slots.map (fun z => { z with paused := z.paused || (z.queue.isSome && fieldAt z.qcb 88 20 == c) }) })))) ∧
    (did = 3 → Still s p c → ∃ t, exec (.contextMigration c 4) s = .next t ∧ Round (migrating s c 4) c x false t) ∧
    (did = 4 → Still s p c → (∀ l ∈ s.links, (getWg s l.wg).ctx ≠ c) → (∀ e ∈ queuesOf s p c, slotOf s p e.1 = none) →
      exec (.contextMigration c 5) s = .next
        (imaged (migrating s c 5) (copied s c x))) ∧
    (did = 5 → Still s p c → ¬ saved → exec (.contextMigration c 6) s = .next (noteTable
      (let t := modPart (migrating s c 6) p (fun y => { y with
          entries := y.entries.filter (fun e => e.ctx != c), store := y.store.filter (fun e => e.2 != c)
          queues := y.queues.filter (fun e => !((queuesOf s p c).map Prod.fst).contains e.1) })
       { t with ctxs := SMap.del t.ctxs c, dev := { t.dev with migrated := SMap.del t.dev.migrated c } }) p)) ∧
    (did = 3 ∨ did = 4 ∨ did = 5 → ¬ Still s p c → exec (.contextMigration c (did + 1)) s = .next s) ∧
    (did = 0 → x.quiet = false → arrives s c x = none → exec (.contextMigration c 7) s = .next s) ∧
    (∀ i, did = 0 → x.quiet = false → arrives s c x = some i →
      let y := { x with
        classes := i.classes, regions := i.regions, exports := i.exports, spill := i.pending
        migrants := i.migrants.map (fun m => { m with d := dtime s + m.d }) }
      let u : State := { s with fresh := s.fresh + 1 }
      (i.pages = [] → i.queues = [] → exec (.contextMigration c 7) s = .next (noteTable (unimaged (putCtx u c y) c) p)) ∧
      (∀ pg pa, i.pages = [pg] → pg.size = 65536 → placesOf u x pg.va = [pa] → i.queues = [] → (∀ e ∈ pg.cells, e.1 < 65536) →
        (∀ w ∈ pg.bad, w < 2048) →
        exec (.contextMigration c 7) s = .next (noteTable (unimaged (putCtx (putGranule u pa pg.cells pg.bad) c y) c) p)) ∧
      ∀ q qcb v, i.pages = [] → i.queues = [(q, qcb, v)] → inHbm s p qcb 4352 = true → getQ s p q = none → p < s.parts.length →
        exec (.contextMigration c 7) s = .next (noteTable (unimaged (modPart (memWrite (putCtx u c y) qcb 4352 v) p (fun z => { z with
          queues := SMap.put z.queues q { qcb := qcb, paged := none, seen := none, mapped := none, unmapped := dtime s, lastW := 0 }
          pending := insNat z.pending q })) c) p)) ∧
    (∀ pa cells bad, pa % 65536 = 0 → SMap.wf Config.memDefault s.mem = true → SMap.wf Config.memDefault cells = true →
      (∀ e ∈ cells, e.1 < 65536) → ∀ a, memByte (putGranule s pa cells bad) a =
        if pa ≤ a ∧ a < pa + 65536 then SMap.get Config.memDefault cells (a - pa) else memByte s a) ∧
    (∀ (m : Migrant) (t : Nat), fieldAt (m.present t).toNat 128 32 = (m.d - t + 999) / 1000 % 2 ^ 32 ∧
      (m.present t).getLsbD 167 = false ∧
      ∀ k < 1024, ¬ (128 ≤ k ∧ k < 160) → k ≠ 167 → (m.present t).getLsbD k = m.raw.getLsbD k)

/-- 22 R360, R361: the body of an attestation report, by its fields, and the count of reports that a tree has signed. The signatures and the
images that are no upload are free values; which byte of a digest stands lowest is log 87. 22 R358, R359: the steps of the migration of a
context on the device that it leaves: PROP is set and the log emptied; rounds copy pages and drain the log; the slots pause and the ladder
begins; what follows waits until nothing of it is on its way; then the rest is copied, and in the end its entries, queues and exports are
gone. On the target it takes its pages and tables, and its entries are presented again with what is left of their deadlines. Here at most
one page is writable, no queue is mapped, and the context has no saved workgroup at the end. `pagesOf`, `contentsAt` and `placesOf` are the
model's readings of the tables, `arrives` what comes from elsewhere. The images, which pages a round copies, and that QCBs keep their
addresses, are the model's (log 111), which keeps the state table current (log 78). -/
def Obligations.AttestationAndMigrationResults : Prop := AttestationResults ∧ MigrationResults

namespace Sys2Proof.Claims
open Sys2Proof.Machine

/-- A well-formed command block of a link instruction: operation 0 `xput`, 1 `xget`, 2 `xatom`, 3 `xstx` (22 R366). -/
abbrev LinkCmdOk (op : Nat) (c : Command) : Prop :=
  c.ctl / 2 ^ 2 % 2 ^ 13 = 0 ∧ c.ctl / 2 ^ 29 < 6 ∧ c.ctl.testBit 21 = true ∧ c.ctl.testBit (if op = 0 then 16 else 15) = true ∧
    (c.ctl.testBit (if op = 0 then 15 else 16) = false → (if op = 0 then c.src else c.dst).toNat < 2 ^ 32) ∧
    (c.ctl.testBit 26 = false → c.cobj = 0) ∧ (if op ≤ 1 then c.len % 4 = 0 ∧ 4 ≤ c.len ∧ c.len ≤ 2 ^ 30 else c.len = 0)

/-- The first check of a link instruction that fails; n is the size of the local operand, al its alignment (22 R368). -/
def linkTrap (g : Wg) (op n al : Nat) (c : Command) : Option (Nat × DWord × DWord) :=
  let loc := if op = 0 then c.src else c.dst
  if ¬ LinkCmdOk op c then some (0x0C, 2, 0)
  else if c.ctl / 2 ^ 17 % 16 ≥ g.hdr.bars then some (0x0C, 3, 0)
  else if loc.toNat % al ≠ 0 then some (0x04, 0, loc)
  else if c.ctl.testBit 26 = true ∧ c.cobj.toNat % 16 ≠ 0 then some (0x04, 0, c.cobj)
  else if c.ctl.testBit (if op = 0 then 15 else 16) = false ∧ loc.toNat + n > g.hdr.sdata then
    some (0x0A, if op = 0 then 0x100 else 0x200, loc)
  else none

/-- Sizes and alignments of the local operand (22 R366). -/
def linkSize (op : Nat) (ty : Ty) (c : Command) : Nat := if op ≤ 1 then c.len else if op = 2 then ty.width / 8 else 16
def linkAlign (op : Nat) (ty : Ty) : Nat := if op ≤ 1 then 4 else if op = 2 then ty.width / 8 else 16

/-- The state after a link instruction appends its operation to its stream (22 R368). -/
def linkIssued (s : State) (c : Command) (op sub ord scope : Nat) (ty : Ty) (x : DWord × DWord) : State :=
  let g := cur s
  let die := g.core / 32
  let rem := if op = 0 then c.dst else c.src
  let st := streamOf s g.part (rem.toNat / 2 ^ 44) (c.ctl % 4) true
  let l : LinkOp :=
    { num := s.fresh, op := op, wg := s.bundle.wg, die := die, dev := rem.toNat / 2 ^ 44, ch := c.ctl % 4, opsn := st.opsn
      ctl := BitVec.ofNat 32 c.ctl, len := c.len, loc := if op = 0 then c.src else c.dst, rem := rem, cobj := c.cobj, sub := sub
      ty := ty.code.toNat, ord := ord, scope := scope, data := x.1, data2 := x.2, chunk := 0, got := 0, failed := none
      answered := false, cancelled := false, result := [], relAt := 0, performed := false, held := none }
  let t := putStream s { st with opsn := (st.opsn + 1) % 2 ^ 32 }
  leaveAll true { t with links := s.links ++ [l], fresh := s.fresh + 1 }

/-- A state in which a link instruction that passes its checks is issued: a record of the die is free, and nothing is left to release. -/
def LinkReady (h : Hdr) (s : State) (k : Nat) : Prop :=
  Rising s.bundle.lanes ∧ OneGroup h false s k ∧ Producer s k ∧ (s.links.filter (fun l => l.die = (cur s).core / 32)).length < 1024 ∧
    NothingOut s (acting h false s) 3

/-- What a link instruction does when it is issued, and where it traps; `n` and `al` are the size and alignment of its local operand. -/
def Links (i : Instr) (h : Hdr) (a : Opnd) (op sub ord scope : Nat) (ty : Ty) (x : State → Nat → DWord × DWord) : Prop :=
  (∀ s k, LinkReady h s k → linkTrap (cur s) op (linkSize op ty (cmdOf s k a)) (linkAlign op ty) (cmdOf s k a) = none →
    exec i s = .next (linkIssued s (cmdOf s k a) op sub ord scope ty (x s ((acting h false s).headD 0)))) ∧
  (∀ s k, Rising s.bundle.lanes → OneGroup h false s k → Producer s k →
    linkTrap (cur s) op (linkSize op ty (cmdOf s k a)) (linkAlign op ty) (cmdOf s k a) = none →
    1024 ≤ (s.links.filter (fun l => l.die = (cur s).core / 32)).length → exec i s = .next (mapLanes s (fun v th => if v ∈ s.bundle.lanes then { th with wait := .linkRec } else th))) ∧
  Raises i h false (fun s u =>
    let c := cmdOf s (u / 32) a
    if ¬ Producer s (u / 32) then some (0x0C, 1, 0) else linkTrap (cur s) op (linkSize op ty c) (linkAlign op ty) c)

/-- The packet that carries a link operation's next chunk (22 R363, R364). -/
def requestPacket (s : State) (l : LinkOp) (st : Stream) (n : Nat) (bs : List Byte) : Packet :=
  { ver := 1, type := 0, srcDev := Config.deviceId.toNat, dstDev := l.dev, sEpoch := (getPart s (getWg s l.wg).part).epoch
    dEpoch := st.dEpoch, ch := l.ch, op := l.op, last := decide (l.chunk + 1 = n), retx := false, dir := 0, psn := st.snd.next
    opsn := l.opsn, chunk := l.chunk, exp := l.rem.toNat / 2 ^ 32 % 2 ^ 12
    offset := (l.rem.toNat % 2 ^ 32 + 4096 * l.chunk) % 2 ^ 32, sub := l.sub, ty := if l.op = 2 then l.ty else 0, ord := l.ord
    scope := l.scope, reason := 0, credit := 0, rz := 0, icrc := 0, data := bs }

/-- A packet as it leaves a die's port: with its check, a source port by a hash that is open, the partition's destination port, and the peer's
addressing (22 R362, R363). -/
def datagram (s : State) (die part : Nat) (p : Packet) : Datagram :=
  { die := die, srcPort := 0xC000 + (Config.portHash p.srcDev p.dstDev p.ch).toNat
    dstPort := match (getPart s part).setup with | some c => c.udpPort.getD 0xB5E4 | none => 0xB5E4
    peer := SMap.find (getPart s part).peers p.dstDev, pkt := { p with icrc := crc32c (p.header ++ p.data) } }

/-- The state in which a new packet of a stream leaves: it is unacknowledged, and the timers start with the first such (22 R364). -/
def sentNew (s : State) (die : Nat) (st : Stream) (p : Packet) : State :=
  let idle := st.snd.unacked.isEmpty
  let t := putStream s { st with snd := { st.snd with
    next := (st.snd.next + 1) % 2 ^ 32, unacked := st.snd.unacked ++ [(die, p)]
    since := if idle then dtime s else st.snd.since, last := if idle then dtime s else st.snd.last } }
  withDev t { s.dev with sent := s.dev.sent ++ [datagram s die st.part p] }

/-- The state with a link operation changed, by its number. -/
def toLink (s : State) (l : LinkOp) (f : LinkOp → LinkOp) : State :=
  { s with links := s.links.map (fun m => if m.num = l.num then f m else m) }

/-- The state in which a chunk of a link operation has left: it is charged to the entry of its workgroup; what a packet is charged as is open (17
R287). -/
def chunkSent (s : State) (l : LinkOp) (st : Stream) (n : Nat) (bs : List Byte) : State :=
  modPart (sentNew (toLink s l (fun m => { m with chunk := m.chunk + 1 })) l.die st (requestPacket s l st n bs)) (getWg s l.wg).part
    (fun x => { x with entries := x.entries.map (fun e => if e.order = (getWg s l.wg).order ∧ e.status = none then
      { e with fresh := e.fresh + (Config.packetBytes bs.length + 63) / 64 } else e) })

/-- A link operation of a resident workgroup whose context lives. -/
def LinkAt (s : State) (die k : Nat) (l : LinkOp) : Prop :=
  s.links.find? (fun m => m.num == k && m.die == die) = some l ∧ l.num = k ∧ l.die = die ∧ l.cancelled = false ∧ (getWg s l.wg).status = .resident ∧
    (∃ x, getCtx s (getWg s l.wg).ctx = some x ∧ x.dead = false) ∧
    ∀ m ∈ s.links, m.num = k → m = l

end Sys2Proof.Claims

/-- 22 R366 to R368: `xput`, `xget`, `xatom` and `xstx` of the producer group append their operation to its stream, wait while the die has no
free record, and trap on the first check that fails. -/
def Sys2Proof.Claims.LinkIssueResults : Prop :=
  ∀ (h : Hdr) (ty : Ty) (sub : BitVec 4) (a b : Opnd) (mw : MemW),
    Links (.xput h a) h a 0 0 0 0 .b32 (fun _ _ => (0, 0)) ∧
    Links (.xget h a) h a 1 0 0 0 .b32 (fun _ _ => (0, 0)) ∧
    Links (.xatom h ty sub a b mw) h a 2 sub.toNat mw.ord.toNat mw.scope.toNat ty (fun s u => atomArgs s u sub.toNat ty b) ∧
    Links (.xstx h sub a b mw) h a 3 sub.toNat mw.ord.toNat mw.scope.toNat .b32 (fun s u => (at64 (rd s u .b64 b 0), 0))

/-- 22 R364, R369, R372: a link operation whose turn it is sends its next chunk, where its device is a peer and its stream has credit: an
`xput` from scratchpad its bytes, an `xget` zeros as many as it asks for (the model's choice: the spec gives its requests no data), an
`xatom` its data. An `xatom` or `xstx` waits while 256 of its stream are unanswered (22 R370), which `awaiting` counts. A device that is no
peer ends it with reason 1. An answered operation arrives at its barrier, with its fault if it has one; a release at system scope has had its
zero-length read (22 R354). Here it asks for no transition, and the arrival completes no phase. That an atomic which its place does not take is reported as trap 0x06 is the model's reading (log 108). The
payloads are log 89, and when the data region is read log 94. -/
def Sys2Proof.Claims.LinkProgressResults : Prop :=
  ∀ (s : State) (die k : Nat) (l : LinkOp), LinkAt s die k l →
    let g := getWg s l.wg
    let st := streamOf s g.part l.dev l.ch true
    let peer := SMap.find (getPart s g.part).peers l.dev
    (l.answered = false → (∀ m ∈ s.links, m.num < k → (getWg s m.wg).part = g.part → m.dev = l.dev → m.ch = l.ch →
        m.answered = true ∨ m.cancelled = true ∨ (if m.op ≤ 1 then (m.len + 4095) / 4096 else 1) ≤ m.chunk) →
      let n := if l.op ≤ 1 then (l.len + 4095) / 4096 else 1
      let z := min 4096 (l.len - 4096 * l.chunk)
      l.chunk < n →
      (peer = none → exec (.linkChunkSend die k) s = .next (toLink s l (fun m => { m with
        answered := true, relAt := s.fresh, failed := some (m.failed.getD 1) }))) ∧
      (peer ≠ none → psnBefore st.snd.credit st.snd.next = true → exec (.linkChunkSend die k) s = .next s) ∧
      (peer ≠ none → psnBefore st.snd.credit st.snd.next = false →
        (∀ y, l.op = 0 → l.ctl.getLsbD 15 = false → y = l.loc.toNat + 4096 * l.chunk → spBad g y z = none →
          exec (.linkChunkSend die k) s = .next (chunkSent s l st n ((List.range z).map (fun j => SMap.get 0 g.data (y + j))))) ∧
        (l.op = 1 → exec (.linkChunkSend die k) s = .next (chunkSent s l st n (List.replicate z 0))) ∧
        (2 ≤ l.op → 256 ≤ awaiting s l st → exec (.linkChunkSend die k) s = .next s) ∧
        (∀ ty, l.op = 2 → awaiting s l st < 256 → Ty.ofCode (BitVec.ofNat 4 l.ty) = some ty →
          let old := if l.sub = 7 then leBytes (ty.width / 8) l.data2.toNat else []
          exec (.linkChunkSend die k) s = .next (chunkSent s l st n (old ++ leBytes (ty.width / 8) l.data.toNat))) ∧
        (l.op = 3 → awaiting s l st < 256 → exec (.linkChunkSend die k) s = .next (chunkSent s l st n (leBytes 8 l.data.toNat))))) ∧
    (l.answered = true → l.held = none → l.ctl.getLsbD 26 = false → (∀ b ∈ g.bars, b.held = []) →
      (l.ctl.getLsbD 28 = true → 2 ≤ l.ctl.toNat / 2 ^ 29 → drained s g.core l.relAt = true) →
      let bn := l.ctl.toNat / 2 ^ 17 % 16
      let b := getBar g bn
      let rest : List LinkOp := s.links.filter (fun m => m.num != k)
      let info (r : Nat) : FRec :=
        { taddr := l.rem, cause := if r = 0x0A then 0x06 else 0x18
          tinfo := at64 (if r = 0x0A then 0x10A else l.dev * 2 ^ 44 + l.rem.toNat / 2 ^ 32 % 2 ^ 12 * 2 ^ 32 + l.ch * 2 ^ 10 + l.op * 2 ^ 8 + r) }
      let done : State := if l.performed = false ∧ l.ctl.getLsbD 28 = true ∧ l.ctl.toNat / 2 ^ 29 = 5 then
        withDev s { s.dev with posted := s.dev.posted ++ [.read (g.part + 1) 0 0] } else s
      (-512 : Int) ≤ b.e - 1 → ¬ phaseMet { b with e := b.e - 1 } →
      exec (.linkChunkSend die k) s = .next (modBar { done with links := rest } l.wg bn (fun x => { x with
        e := x.e - 1, flt := x.flt || l.failed.isSome
        frec := match l.failed with | some r => if x.flt then x.frec else info r | none => x.frec })))

/-- 22 R366 to R368: `xput`, `xget`, `xatom` and `xstx` of the producer group append their operation to its stream, wait while the die has no
free record, and trap on the first check that fails. 22 R364, R369, R372: a link operation whose turn it is sends its next chunk, where its
device is a peer and its stream has credit: an `xput` from scratchpad its bytes, an `xget` zeros as many as it asks for (the model's choice:
the spec gives its requests no data), an `xatom` its data. An `xatom` or `xstx` waits while 256 of its stream are unanswered (22 R370),
which `awaiting` counts. A device that is no peer ends it with reason 1. An answered operation arrives at its barrier, with its fault if it
has one; a release at system scope has had its zero-length read (22 R354). Here it asks for no transition, and the arrival completes no
phase. That an atomic which its place does not take is reported as trap 0x06 is the model's reading (log 108). The payloads are log 89, and
when the data region is read log 94. -/
def Obligations.LinkIssueAndProgressResults : Prop := LinkIssueResults ∧ LinkProgressResults

namespace Sys2Proof.Claims
open Sys2Proof.Machine

/-- The event in which a packet of a type arrives. -/
def received (type die : Nat) (p : Packet) : Instr :=
  if type = 0 then .linkReqReceived die p else if type = 1 then .linkRespReceived die p
  else if type = 2 then .linkAckReceived die p else .linkNakReceived die p

/-- A packet that a receiver does not discard: of its type, its reserved bits 0, its check CRC-32C of header and data (22 R363). -/
def Sound (type : Nat) (p : Packet) : Prop := p.ver = 1 ∧ p.type = type ∧ p.rz = 0 ∧ p.icrc = crc32c (p.header ++ p.data)

/-- The receiver's epoch in a packet is the present one, or the first packet's 0 (22 R364). -/
def EpochOk (s : State) (part : Nat) (p : Packet) : Prop := p.dEpoch = (getPart s part).epoch ∨ (p.dEpoch = 0 ∧ p.psn = 0)

/-- The stream of a packet as its receiver has it once it has seen the sender's epoch: of a new epoch, the stream starts again (22 R364; which
half of it starts again at an issuer is log 105). -/
def epochSeen (s : State) (part : Nat) (p : Packet) (out : Bool) : Stream :=
  let st := streamOf s part p.srcDev p.ch out
  if st.dEpoch = p.sEpoch then st
  else if out then { st with dEpoch := p.sEpoch, rcv := { st.rcv with expect := 0, owed := 0 } }
  else { Stream.fresh part p.srcDev p.ch out (dtime s) with dEpoch := p.sEpoch }

/-- A packet of a stream, but for what its type gives it (22 R363). -/
def barePacket (s : State) (st : Stream) (type : Nat) : Packet :=
  { ver := 1, type := type, srcDev := Config.deviceId.toNat, dstDev := st.dev, sEpoch := (getPart s st.part).epoch, dEpoch := st.dEpoch
    ch := st.ch, op := 0, last := false, retx := false, dir := 0, psn := 0, opsn := 0, chunk := 0, exp := 0, offset := 0, sub := 0
    ty := 0, ord := 0, scope := 0, reason := 0, credit := 0, rz := 0, icrc := 0, data := [] }

/-- A packet leaves by a die's port. -/
def sending (s : State) (die part : Nat) (p : Packet) : State :=
  withDev s { s.dev with sent := s.dev.sent ++ [datagram s die part p] }

/-- The last in-order number that a stream has received. -/
def inOrder (st : Stream) : Nat := (st.rcv.expect + 2 ^ 32 - 1) % 2 ^ 32

/-- A NAK of a stream (22 R364). -/
def nakOf (s : State) (st : Stream) (dir reason : Nat) : Packet :=
  { barePacket s st 3 with dir := dir, psn := inOrder st, reason := reason, credit := st.rcv.credit }

/-- A stream whose packets have been acknowledged, with a limit g above the next number, or the old limit where that is later (22 R364). -/
def owingNone (st : Stream) (g : Nat) : Stream :=
  let c := (st.rcv.expect + g) % 2 ^ 32
  { st with rcv := { st.rcv with owed := 0, credit := if psnBefore st.rcv.credit c = true then c else st.rcv.credit } }

/-- The state in which a stream's packets have been acknowledged (22 R364). -/
def acknowledged (s : State) (die : Nat) (st : Stream) (g : Nat) : State :=
  let st := owingNone st g
  sending (putStream s st) die st.part
    { barePacket s st 2 with dir := if st.out then 1 else 0, psn := inOrder st, credit := st.rcv.credit }

/-- A request of a new epoch of its source: the transitions of the old stream that home slices hold answer no one (22 R364). -/
def forgotten (s : State) (part : Nat) (p : Packet) : State :=
  if (streamOf s part p.srcDev p.ch false).dEpoch = p.sEpoch then s
  else { s with reqs := s.reqs.map (fun r => match r.origin with
    | .remote _ v c _ => if r.part = part ∧ v = p.srcDev ∧ c = p.ch then { r with origin := .none } else r
    | _ => r) }

/-- A stream that has accepted one more packet (22 R364). -/
def tookOne (s : State) (st : Stream) : Stream :=
  { st with rcv := { st.rcv with
    expect := (st.rcv.expect + 1) % 2 ^ 32, owed := st.rcv.owed + 1, since := if st.rcv.owed = 0 then dtime s else st.rcv.since } }

/-- The answer to a request (22 R364). -/
def answerTo (s : State) (st : Stream) (p : Packet) (reason : Nat) (bs : List Byte) : Packet :=
  { barePacket s st 1 with op := p.op, opsn := p.opsn, chunk := p.chunk, reason := reason, data := bs, psn := st.snd.next }

/-- A request that can be accepted and answered: the next of its stream, with credit for its answer, nothing before it unperformed, and no granule
being cleared. -/
def NextRequest (s : State) (part die : Nat) (p : Packet) (st : Stream) : Prop :=
  partOfDie s die = some part ∧ Sound 0 p ∧ EpochOk s part p ∧ epochSeen s part p false = st ∧ p.psn = st.rcv.expect ∧ st.rcv.owed < 15 ∧
    psnBefore st.snd.credit st.snd.next = false ∧ s.clearing = [] ∧
    ∀ r ∈ s.reqs, ∀ d v c o, r.origin = .remote d v c o → ¬ (r.part = part ∧ v = p.srcDev ∧ c = p.ch)

/-- The right that an export entry must give an operation (22 R365). -/
def mayUse (e : ExportEntry) (op : Nat) : Bool := if op = 0 then e.w else if op = 1 then e.r else if op = 2 then e.a else e.s

/-- The reason for which an export entry of a context turns a request for n bytes away; none where it is performed. Which comes first of several,
and reason 0x0A, are the model's choice (22 R365, R369, R372; 10 R173; 11 R199; log 108). -/
def requestRefused (x : Ctx) (e : ExportEntry) (p : Packet) (n : Nat) : Option Nat :=
  match turnedAway x (at64 e.handle) p.offset n (p.op = 0 ∨ p.op = 2) (p.op = 3) with
  | some r => some (if r = 1 then 2 else if r = 5 ∧ mayUse e p.op = false then 4 else r)
  | none =>
    let r := (SMap.find x.regions (e.handle / 2 ^ 44 % 2 ^ 20)).getD { base := 0, len := 0, r := false, w := false, staged := false, prop := false, repl := [], gen := 0 }
    let pa := r.base + e.handle % 2 ^ 32 + p.offset
    if mayUse e p.op = false then some 4
    else if 2 ≤ p.op ∧ (r.repl ≠ [] ∨ (p.op = 2 ∧ pa / 2 ^ 50 = 2 ∧ p.sub ≠ 0 ∧ p.sub ≠ 6 ∧ p.sub ≠ 7)) then some 0x0A
    else if 2 ≤ p.op ∧ pa % (if p.op = 3 then 16 else n) ≠ 0 then some 7
    else none

/-- The region that a request names, and the address there. -/
def exported (x : Ctx) (e : ExportEntry) (p : Packet) : Option (Region × Nat) :=
  (SMap.find x.regions (e.handle / 2 ^ 44 % 2 ^ 20)).map (fun r => (r, r.base + e.handle % 2 ^ 32 + p.offset))

/-- A transition that faults, or would park (13 R213, 22 R372). -/
def Faulted (r : TOut) : Prop := (∃ addr info, r = .fault addr info) ∨ r = .park

/-- Bytes written at a physical address for a partition; in host memory they are posted by its function (22 R353, R354). -/
def stored (s : State) (part pa : Nat) (bs : List Byte) : State :=
  let t := memWriteBytes s pa bs
  if pa / 2 ^ 50 = 2 then withDev t { s.dev with posted := s.dev.posted ++ bs.mapIdx (fun k b => .write (part + 1) (pa + k) b) } else t

/-- Bytes written in a region of a context: on each of its copies, and, with PROP, their granules logged by the model's `logSpan` (10 R173, 22
R358). -/
def regionStored (s : State) (c part : Nat) (r : Region) (pa : Nat) (bs : List Byte) : State :=
  let t := (pa :: (r.repl.filter (fun b => b != r.base)).map (fun b => b + (pa - r.base))).foldl (fun u q => stored u part q bs) s
  if r.prop then logSpan t c pa bs.length else t

/-- The sending space of a stream after an acknowledgement up to a number, with a limit (22 R364). -/
def ackedTo (s : State) (st : Stream) (psn credit : Nat) : Stream :=
  let left := st.snd.unacked.filter (fun q => psnBefore psn q.2.psn)
  let more := if psnBefore st.snd.credit credit then credit else st.snd.credit
  if left.length < st.snd.unacked.length then
    { st with snd := { st.snd with unacked := left, credit := more, timeout := 20000, since := dtime s, last := dtime s } }
  else { st with snd := { st.snd with unacked := left, credit := more } }

/-- The state in which every unacknowledged packet of a stream has been sent again, by the die that sent it and with the destination's epoch as it
is known, where none belongs to an operation of this device (22 R364). -/
def sentAgain (s : State) (st : Stream) : State :=
  let again := st.snd.unacked.map (fun q => datagram s q.1 st.part { q.2 with retx := true, dEpoch := st.dEpoch })
  putStream (withDev s { s.dev with sent := s.dev.sent ++ again }) { st with snd := { st.snd with last := dtime s } }

/-- A link operation of this device on a stream (22 R362). -/
def Carried (s : State) (st : Stream) (l : LinkOp) : Prop :=
  st.out = true ∧ (getWg s l.wg).part = st.part ∧ l.dev = st.dev ∧ l.ch = st.ch

/-- No operation of this device is on a stream. -/
def NoOps (s : State) (st : Stream) : Prop := ∀ l ∈ s.links, ¬ Carried s st l

/-- No operation belongs to a workgroup that was stopped. -/
def NoneStopped (s : State) : Prop := ∀ l ∈ s.links, l.cancelled = false

/-- The one operation on a stream, not answered. -/
def OneOp (s : State) (st : Stream) (l : LinkOp) : Prop :=
  l ∈ s.links ∧ Carried s st l ∧ l.answered = false ∧ l.cancelled = false ∧ ∀ m ∈ s.links, m = l ∨ (m.num ≠ l.num ∧ ¬ Carried s st m)

/-- The operation is answered with a reason (22 R369, R372). -/
def opAnswered (s : State) (l : LinkOp) (reason : Nat) : State :=
  toLink s l (fun m => { m with
    answered := true, relAt := s.fresh, failed := if reason = 0 then m.failed else some (m.failed.getD reason) })

end Sys2Proof.Claims

/-- 22 R364: what a receiver does with a packet before its contents: it drops a malformed one, answers another epoch with NAK 9, a packet
beyond the next with NAK 0, and a duplicate with ACK; a duplicate `xatom` or `xstx` request whose result is kept has it again, unless its answer is on
its way (R370); the limit that an ACK gives is open. What an issuer keeps of a stream whose other side has a new epoch is log 105. -/
def Sys2Proof.Claims.LinkPacketChecks : Prop :=
  ∀ (s : State) (die part type : Nat) (p : Packet), type < 4 → partOfDie s die = some part →
    (¬ Sound type p → exec (received type die p) s = .next s) ∧
    (Sound type p → ¬ EpochOk s part p →
      (type ≤ 1 → let st := epochSeen s part p (type = 1)
        let t := if type = 0 then forgotten s part p else s
        exec (received type die p) s = .next (sending (putStream t st) die part (nakOf t st type 9))) ∧
      (2 ≤ type → let st := { streamOf s part p.srcDev p.ch (p.dir = 0) with dEpoch := p.sEpoch }
        exec (received type die p) s = .next (sending s die part (nakOf s st p.dir 9)))) ∧
    (type = 1 → Sound 1 p → EpochOk s part p → ∀ st, st = epochSeen s part p true → p.psn < 2 ^ 32 → st.rcv.expect < 2 ^ 32 →
      (psnBefore st.rcv.expect p.psn = true →
        exec (.linkRespReceived die p) s = .next (sending (putStream s st) die part (nakOf s st 1 0))) ∧
      (psnBefore p.psn st.rcv.expect = true → ∃ g, g < 2 ^ 30 ∧ exec (.linkRespReceived die p) s = .next (acknowledged s die st g))) ∧
    (type = 0 → Sound 0 p → EpochOk s part p → ∀ st t, st = epochSeen s part p false → t = forgotten s part p → p.psn < 2 ^ 32 →
      st.rcv.expect < 2 ^ 32 →
      (psnBefore st.rcv.expect p.psn = true →
        exec (.linkReqReceived die p) s = .next (sending (putStream t st) die part (nakOf t st 0 0))) ∧
      (psnBefore p.psn st.rcv.expect = true → ∃ g, g < 2 ^ 30 ∧
        let u := acknowledged t die st g
        let old := (streamOf s part p.srcDev p.ch false).dEpoch = p.sEpoch
        let away := (∃ q ∈ st.snd.unacked, q.2.opsn = p.opsn) ∨ ∃ q ∈ st.snd.queue, q.2.opsn = p.opsn
        (∀ reason bs, old → 2 ≤ p.op → st.results.find? (fun r => r.1 == p.opsn) = some (p.opsn, bs, reason) → ¬ away →
          psnBefore st.snd.credit st.snd.next = false →
          exec (.linkReqReceived die p) s = .next (sentNew u die (owingNone st g) (answerTo u (owingNone st g) p reason bs))) ∧
        (¬ old ∨ p.op < 2 ∨ st.results.find? (fun r => r.1 == p.opsn) = none ∨ away →
          exec (.linkReqReceived die p) s = .next u)))

/-- 22 R364, R365, R369, R370, R372: a request that is the next of its stream is performed through the export entry, in the region it names,
and its answer is sent with the last chunk (an `xget`'s with each): `xput` writes its bytes on every copy, `xget` returns the bytes, `xatom`
the old value, `xstx` the status and the old data. One that no context exports is answered with reason 2, one that the entry or the region
turns away with its reason, one of a quiescing partition with reason 9, an `xstx` whose transition faults or would park with reason 7; a quiesced
context answers with a retry, which the model sends as NAK 0 (log 90). A chunk after one that met a fault does nothing, and the last one answers with that reason. `transition`, `engineWaits` and
`logSpan` are the model's functions. The reasons in detail are log 90, and what a REPL region or host memory turns away is log 108. -/
def Obligations.LinkRequestResults : Prop :=
  ∀ (s : State) (die part : Nat) (p : Packet) (st : Stream), NextRequest s part die p st →
    let t := tookOne s st
    let bs := p.data
    let n := if p.op ≤ 1 then bs.length else if p.op = 3 then 16 else ((Ty.ofCode (BitVec.ofNat 4 p.ty)).getD .b32).width / 8
    let kept (reason : Nat) (res : List Byte) : Stream := if 2 ≤ p.op then { t with results := ((p.opsn, res, reason) :: t.results).take 256 } else t
    let refused (r : Nat) : Prop :=
      (p.last = true → exec (.linkReqReceived die p) s = .next (sentNew s die (kept r []) (answerTo s t p r []))) ∧
      (p.last = false → p.op ≤ 1 → exec (.linkReqReceived die p) s = .next (putStream s { t with failed := (p.opsn, r) :: t.failed }))
    (∀ r, p.op ≤ 1 → st.failed.find? (fun f => f.1 == p.opsn) = some (p.opsn, r) → r ≠ 0 →
      (∀ y, exporter s part p.exp p.srcDev = some y → y.2.1.quiet = false) →
      (p.last = false → exec (.linkReqReceived die p) s = .next (putStream s t)) ∧
      (p.last = true → exec (.linkReqReceived die p) s = .next
        (sentNew s die { t with failed := t.failed.filter (fun f => f.1 != p.opsn) } (answerTo s t p r [])))) ∧
    (∀ c x e, exporter s part p.exp p.srcDev = some (c, x, e) → x.quiet = true →
      exec (.linkReqReceived die p) s = .next (sending (putStream s st) die part (nakOf s st 0 0))) ∧
    ((∀ f ∈ st.failed, f.1 ≠ p.opsn) →
      ((getPart s part).quiet = true → (∀ y, exporter s part p.exp p.srcDev = some y → y.2.1.quiet = false) → refused 9) ∧
      ((getPart s part).quiet = false → exporter s part p.exp p.srcDev = none → refused 2) ∧
      ((getPart s part).quiet = false → ∀ c x e, exporter s part p.exp p.srcDev = some (c, x, e) → x.quiet = false →
        (∀ r, requestRefused x e p n = some r → refused r) ∧
        (∀ r pa, requestRefused x e p n = none → exported x e p = some (r, pa) →
          (p.op = 0 → let u := regionStored s c part r pa bs
            exec (.linkReqReceived die p) s = .next (if p.last then sentNew u die t (answerTo s t p 0 []) else putStream u t)) ∧
          (1 ≤ p.op → memBad s pa n = true → p.op ≤ 1 ∨ p.last = true →
            let u := if p.op = 1 then readFrom s part pa n else countReads s pa n
            exec (.linkReqReceived die p) s = .next (if p.last then sentNew u die (kept 6 []) (answerTo s t p 6 [])
              else putStream u { t with failed := (p.opsn, 6) :: t.failed })) ∧
          (p.op = 1 → memBad s pa n = false → exec (.linkReqReceived die p) s = .next
            (sentNew (readFrom s part pa n) die t (answerTo s t p 0 ((List.range n).map (fun j => memByte s (pa + j)))))) ∧
          (∀ ty, p.op = 2 → p.last = true → Ty.ofCode (BitVec.ofNat 4 p.ty) = some ty → memBad s pa n = false →
            let m := memRead s pa n
            let e := leVal (bs.take n)
            let x := if p.sub = 7 then leVal (bs.drop n) else e
            let w := memWriteBytes (countReads s pa n) pa (leBytes n (atomNew p.sub ty m x e))
            let w := if pa / 2 ^ 50 = 2 then withDev w { w.dev with posted := w.dev.posted ++ [.atomic (part + 1) pa p.sub ty (at64 x) (at64 e)] } else w
            let u := if r.prop then logSpan w c pa n else w
            exec (.linkReqReceived die p) s = .next (sentNew u die (kept 0 (leBytes n m)) (answerTo s t p 0 (leBytes n m)))) ∧
          (∀ v u res, p.op = 3 → p.last = true → memBad s pa 16 = false →
            let o : Obj := { ctx := c, part := part, die := die, pa := pa, prop := r.prop, via := none
                             va := Config.regionGranule c (pa / 65536) * 65536 + pa % 65536 }
            engineWaits (putStream s t) o p.sub = (v, false) →
            transition v o p.sub (at64 (leVal bs)) .engine = (putStream u t, res) →
            (∀ code old, res = .done code old →
              let ans := leBytes 8 code.toNat ++ leBytes 8 (old.getD 0).toNat
              exec (.linkReqReceived die p) s = .next (sentNew u die (kept 0 ans) (answerTo u t p 0 ans))) ∧
            (Faulted res → exec (.linkReqReceived die p) s = .next (sentNew u die (kept 7 []) (answerTo u t p 7 [])))))))

/-- 22 R364, R369, R371, R372: a result ends its operation: an `xput` with its reason or with none; the result of another is written at the
local operand, here in scratchpad, or kept while its workgroup is saved. A result that no operation waits for is acknowledged and counts no
more among those that are unanswered. An ACK takes what it acknowledges from the stream (here none waits for credit); a NAK has the rest
sent again, and one of another epoch starts the stream anew, its operation ended with reason 9. When a result is written is log 94. -/
def Sys2Proof.Claims.LinkAnswerResults : Prop :=
  ∀ (s : State) (die part : Nat) (p : Packet) (st : Stream), partOfDie s die = some part → EpochOk s part p →
    (Sound 1 p → st = epochSeen s part p true → p.psn = st.rcv.expect → st.rcv.owed < 15 →
      (∀ l, OneOp s st l → p.opsn = l.opsn →
        let t := putStream s (tookOne s st)
        let g := getWg s l.wg
        let n := if l.op ≤ 1 then (l.len + 4095) / 4096 else 1
        let count (u : State) : State := if n ≤ l.got + 1 then opAnswered u l 0 else u
        (p.reason ≠ 0 → exec (.linkRespReceived die p) s = .next (opAnswered t l p.reason)) ∧
        (p.reason = 0 → l.op = 0 → exec (.linkRespReceived die p) s = .next (opAnswered t l 0)) ∧
        (p.reason = 0 → l.op ≠ 0 → l.ctl.getLsbD 16 = false → (getCore s g.core).lines = [] →
          (g.status = .resident → exec (.linkRespReceived die p) s = .next
            (count (toLink (modWg t l.wg (fun y => y.spWrite (l.loc.toNat + 4096 * p.chunk) p.data)) l (fun m => { m with got := m.got + 1 })))) ∧
          (g.status = .saved → exec (.linkRespReceived die p) s = .next
            (count (toLink t l (fun m => { m with result := m.result ++ [(4096 * p.chunk, p.data)], got := m.got + 1 })))))) ∧
      (NoOps s st → NoneStopped s → exec (.linkRespReceived die p) s = .next
        (putStream s { tookOne s st with lost := st.lost.filter (fun o => o != p.opsn) }))) ∧
    (st = streamOf s part p.srcDev p.ch (p.dir = 0) →
      (Sound 2 p → st.snd.queue = [] → NoneStopped s →
        exec (.linkAckReceived die p) s = .next (putStream s { ackedTo s st p.psn p.credit with dEpoch := p.sEpoch })) ∧
      (Sound 3 p → p.reason ≠ 9 → st.snd.queue = [] → NoneStopped s → NoOps s st →
        exec (.linkNakReceived die p) s = .next (sentAgain s { ackedTo s st p.psn p.credit with dEpoch := p.sEpoch })) ∧
      (Sound 3 p → p.reason = 9 →
        let anew := { Stream.fresh st.part st.dev st.ch st.out (dtime s) with dEpoch := p.sEpoch, opsn := st.opsn }
        (NoOps s st → exec (.linkNakReceived die p) s = .next (putStream s anew)) ∧
        (∀ l, OneOp s st l → exec (.linkNakReceived die p) s = .next (putStream (opAnswered s l 9) anew))))

/-- 22 R364, R370, R372: the timers of a space: an acknowledgement that is owed is sent; without an advance for the timeout the packets are
sent again, and the timeout doubles up to 1 ms; without one for 100 ms the operation ends with reason 8, and an `xatom` or `xstx` still
counts among those that the stream has unanswered. What is sent after the stream timeout is log 92. -/
def Sys2Proof.Claims.LinkTimerResults : Prop :=
  ∀ (s : State) (die part k : Nat) (st : Stream), partOfDie s die = some part → (getStreams s part)[k]? = some st →
    let sndSpace := if st.out then 0 else 1
    let rcvSpace := if st.out then 1 else 0
    (0 < st.rcv.owed → ∃ g, g < 2 ^ 30 ∧ exec (.linkAckTimer die k rcvSpace) s = .next (acknowledged s die st g)) ∧
    (st.rcv.owed = 0 → exec (.linkAckTimer die k rcvSpace) s = .next s) ∧
    (st.snd.unacked ≠ [] → st.snd.last + st.snd.timeout ≤ dtime s → NoOps s st →
      exec (.linkRetxTimeout die k sndSpace) s = .next
        (sentAgain s { st with snd := { st.snd with timeout := min 1000000 (2 * st.snd.timeout) } })) ∧
    (dtime s < st.snd.last + st.snd.timeout → exec (.linkRetxTimeout die k sndSpace) s = .next s) ∧
    (∀ l, st.snd.since + 100000000 ≤ dtime s → OneOp s st l → (∃ q ∈ st.snd.unacked, q.2.opsn = l.opsn) →
      exec (.linkStreamTimeout die k sndSpace) s = .next
        (putStream (opAnswered s l 8) { st with
          lost := st.lost ++ (if 2 ≤ l.op then [l.opsn] else []), snd := { st.snd with since := dtime s } })) ∧
    (dtime s < st.snd.since + 100000000 → exec (.linkStreamTimeout die k sndSpace) s = .next s)

/-- 22 R364: what a receiver does with a packet before its contents: it drops a malformed one, answers another epoch with NAK 9, a packet beyond
the next with NAK 0, and a duplicate with ACK; a duplicate `xatom` or `xstx` request whose result is kept has it again, unless its answer is
on its way (R370); the limit that an ACK gives is open. What an issuer keeps of a stream whose other side has a new epoch is log 105. 22
R364, R369, R371, R372: a result ends its operation: an `xput` with its reason or with none; the result of another is written at the local
operand, here in scratchpad, or kept while its workgroup is saved. A result that no operation waits for is acknowledged and counts no more
among those that are unanswered. An ACK takes what it acknowledges from the stream (here none waits for credit); a NAK has the rest sent
again, and one of another epoch starts the stream anew, its operation ended with reason 9. When a result is written is log 94. 22 R364,
R370, R372: the timers of a space: an acknowledgement that is owed is sent; without an advance for the timeout the packets are sent again,
and the timeout doubles up to 1 ms; without one for 100 ms the operation ends with reason 8, and an `xatom` or `xstx` still counts among
those that the stream has unanswered. What is sent after the stream timeout is log 92. -/
def Obligations.LinkReceptionResults : Prop := LinkPacketChecks ∧ LinkAnswerResults ∧ LinkTimerResults

namespace Sys2Proof.Claims
open Sys2Proof.Machine

/-- The opcodes of the map (02 R37). -/
def Listed (o : Nat) : Prop :=
  ∃ r ∈ [(0x000, 0x00F), (0x040, 0x05C), (0x080, 0x086), (0x0C0, 0x0D5), (0x100, 0x108), (0x140, 0x14B), (0x180, 0x185), (0x1C0, 0x1C3),
    (0x200, 0x205), (0x208, 0x20C), (0x240, 0x244), (0x280, 0x287), (0x2C0, 0x2C2), (0x300, 0x305), (0x340, 0x343)], r.1 ≤ o ∧ o ≤ r.2

/-- The opcode and the guard field of a word (02 R23). -/
def opcOf (w : IWord) : Nat := (w.extractLsb' 86 10).toNat
def grdOf (w : IWord) : BitVec 4 := w.extractLsb' 78 4

/-- A header without guard, hints or window. -/
abbrev plain : Hdr := Hdr.plain

end Sys2Proof.Claims

/-- 02 R22, R23, R31, R34: words that the spec writes out decode to the instructions they stand for. -/
def Obligations.DecodeWords : Prop :=
  decode 0x02C1C0000050400000000000 = .ok (.dispatch plain (.v 1) (.s 4)) ∧
  decode 0x0241C0008140000000000000 = .ok (.meetg plain (.imm 5) 0) ∧
  decode 0x1101C00700503510000002FC = .ok (.imad plain .i32 true (.v 7) (.v 1) (.s 3) (.imm 0xFC)) ∧
  decode 0x4001C0020060402200000000 = .ok (.shfl plain .b32 1 2 (.v 2) (.v 1) (.imm 4) 0) ∧
  decode 0x5005C0064080564000000010 = .ok (.lds { plain with look := 1 } .n32 2 (.v 6) (.s 2) (.v 5) 16) ∧
  decode 0xD081C00044118800A5800000 =
    .ok (.xatom plain .n64 0 (.s 16) (.s 24) { scope := 5, ss := 2, ord := 3, rpro := false, ch := 0 })

/-- 02 R23, R35 to R37: the decoder takes back what the encoder writes: every well-formed instruction has one word. -/
def Obligations.DecodeEncode : Prop := ∀ (i : Instr) (w : IWord), WellFormed i → encode i = some w → decode w = .ok i

/-- 02 R35 to R37: every word that the decoder accepts is the word of the instruction it gives, so no field is dropped; a reserved opcode is
rejected with REASON 1 and FIELD 0, and the guard 0b1111 with REASON 2 and FIELD 1. -/
def Obligations.DecodedWords : Prop :=
  ∀ w : IWord,
    (∀ i, decode w = .ok i → WellFormed i ∧ encode i = some w) ∧
    (¬ Listed (opcOf w) → decode w = .error (1, 0)) ∧
    (Listed (opcOf w) → grdOf w = 15 → decode w = .error (2, 1))

/-- 04 R63, 18 R303, log 5: a step whose move is the issue of a bundle that may issue, with no trap at its boundary and no uncorrectable
source, runs the decoded instruction in the bundle's lanes; then what is kept of the windows of those lanes follows (`afterWord`: 02 R26, R27, 18 R299), and
the bundle's place holds what the bundle has become. A step whose move is an
event runs it. -/
def Obligations.StepRunsDecoded : Prop :=
  ∀ s : State,
    (∀ w k ls t r i, s.nextMove = .issue w k →
      let u := s.taken
      let g := getWg u w
      g.bundles[k]? = some (t :: ls) → canIssue u w (t :: ls) = true → (∀ v ∈ t :: ls, boundaryTrap u w v = none ∧ (getTh g v).oneShot = false) →
      fetch u g (getTh g t) = .word r → decodeIn (decCtx u g (getTh g t)) r.toWord = .ok i → poisoned g r (t :: ls) = [] →
      (∀ x, exec i (atIssue u w (t :: ls)) = .next x → step s = .next (settleBundle (afterWord u x w r (t :: ls)) w k (t :: ls) (leavesBundle r))) ∧
      (∀ f, exec i (atIssue u w (t :: ls)) = .fault f → step s = .fault f)) ∧
    (∀ i, s.nextMove = .event i → encode i = none → step s = exec i s.taken)

/-- 03 R43: a value of n bytes has its least significant byte at its address and its most significant byte at the last: so memory is
written, and so it is read; no other byte changes. -/
def Obligations.MemoryByteOrder : Prop :=
  ∀ (s : State) (a n v : Nat), Memory.wf s.mem = true → v < 256 ^ n →
    (∀ x, memByte (memWrite s a n v) x = if a ≤ x ∧ x < a + n then BitVec.ofNat 8 (v / 256 ^ (x - a)) else memByte s x) ∧
    memRead (memWrite s a n v) a n = v ∧ (∀ k < n, memRead s a n / 256 ^ k % 256 = (memByte s (a + k)).toNat)

/-- The state after reset satisfies the invariant of the machine's steps. -/
def Obligations.ResetInvariant : Prop := Inv State.reset

/-- Every step keeps the invariant: memory, the data regions, the tag tables, the arrays and the table of cores stay canonical, those of workgroups that
migrate too, the four partitions stay four (22 R350), and a bundle names each of its threads once, in ascending order (04 R63). -/
def Obligations.StepKeepsInvariant : Prop := ∀ s t : State, Inv s → step s = .next t → Inv t

/-- 01 R14, R15, R19, 21 R349, 22 R356: after cold reset the device is held in phase 0 with its registers clear, %dtime is 0, and there is no
partition, context, workgroup or request; every partition has its default parameters (17 R272, 18 R307, R308, 21 R342, R344). That every byte
of memory reads 0 is the model's choice (log 2), and so are the voltages (log 3). -/
def Obligations.ResetValues : Prop :=
  let s := State.reset
  (∀ ofs, readRegister s ofs = 0) ∧ s.dev.phase = 0 ∧ s.dev.tripc = 0 ∧ s.dev.hfailA = false ∧ s.dev.hfailB = false ∧ dtime s = 0 ∧
    s.wgs = [] ∧ s.ctxs = [] ∧ s.reqs = [] ∧ s.links = [] ∧ (∀ c, getCore s c = Core.empty) ∧ (∀ p, getStreams s p = []) ∧
    (∀ p, (getPart s p).setup = none ∧ (getPart s p).entries = [] ∧ (getPart s p).store = []) ∧
    (∀ p < 4, (getPart s p).params = { lbound := 60000, polite := 2000, killTimeout := 8000, eligible := 200000, ageStep := 200000
                                       pageOut := 50000000 }) ∧
    ∀ a, memByte s a = 0
end

