-- ==== Sys2Proof/Laws/Encoding.lean ====
section
/-!
SUPPORT. Encoding.lean: reading back the fields of a word that was joined from fields.
-/
namespace Sys2Proof

/-! ### Operands and types -/

/-- An operand is read back from its encoding. -/
@[simp] theorem Opnd.ofBits_bits (o : Opnd) : Opnd.ofBits o.bits = some o := by
  cases o with
  | v n => revert n; decide
  | s n => revert n; decide
  | sp n => revert n; decide
  | slot n => revert n; decide
  | p n => revert n; decide
  | imm n => revert n; decide
  | lit => decide

/-- A type is read back from its code. -/
@[simp] theorem Ty.ofCode_code (ty : Ty) : Ty.ofCode ty.code = some ty := by cases ty <;> decide

@[simp] theorem ofBool_eq_one (b : Bool) : decide (BitVec.ofBool b = 1#1) = b := by cases b <;> decide

/-! ### The header -/

/-- The header is read back. -/
@[simp] theorem Raw.hdr_mk' (h : Hdr) (opc d a b : BitVec 10) (x : BitVec 44) : (Raw.mk' h opc d a b x).hdr = h := by
  obtain ⟨look, neg, pred, nf, yld, ru⟩ := h
  have h1 : (BitVec.ofBool neg ++ pred).getLsbD 3 = neg := by revert neg pred; decide
  have h2 : (BitVec.ofBool neg ++ pred).extractLsb' 0 3 = pred := by revert neg pred; decide
  simp only [Raw.hdr, Raw.mk', h1, h2]
  cases nf <;> cases yld <;> rfl

@[simp] theorem Raw.mk'_opc (h : Hdr) (opc d a b : BitVec 10) (x : BitVec 44) : (Raw.mk' h opc d a b x).opc = opc := rfl
@[simp] theorem Raw.mk'_d (h : Hdr) (opc d a b : BitVec 10) (x : BitVec 44) : (Raw.mk' h opc d a b x).d = d := rfl
@[simp] theorem Raw.mk'_a (h : Hdr) (opc d a b : BitVec 10) (x : BitVec 44) : (Raw.mk' h opc d a b x).a = a := rfl
@[simp] theorem Raw.mk'_b (h : Hdr) (opc d a b : BitVec 10) (x : BitVec 44) : (Raw.mk' h opc d a b x).b = b := rfl
@[simp] theorem Raw.mk'_x (h : Hdr) (opc d a b : BitVec 10) (x : BitVec 44) : (Raw.mk' h opc d a b x).x = x := rfl

/-! ### X -/

/-- The upper part of two joined bit strings. -/
theorem extract_high {m n : Nat} (x : BitVec m) (y : BitVec n) (k w : Nat) :
    (x ++ y).extractLsb' (n + k) w = x.extractLsb' k w := by
  apply BitVec.eq_of_getLsbD_eq
  intro i hi
  simp only [BitVec.getLsbD_extractLsb', BitVec.getLsbD_append]
  rw [if_neg (by omega)]
  congr 2; omega

/-- The lower part of two joined bit strings. -/
theorem extract_low {m n : Nat} (x : BitVec m) (y : BitVec n) (k w : Nat) (h : k + w ≤ n) :
    (x ++ y).extractLsb' k w = y.extractLsb' k w := by
  apply BitVec.eq_of_getLsbD_eq
  intro i hi
  simp only [BitVec.getLsbD_extractLsb', BitVec.getLsbD_append]
  rw [if_pos (by omega)]

theorem extract_all {n : Nat} (x : BitVec n) : x.extractLsb' 0 n = x := by
  apply BitVec.eq_of_getLsbD_eq
  intro i hi
  simp [hi]

/-- The fields of the instruction `mcall` are read back (05 R95). -/
theorem Raw.mcall_of {r : Raw} {m : BitVec 6} {p4 p5 p6 p7 : BitVec 7} {c : BitVec 10}
    (hx : r.x = m ++ p7 ++ p6 ++ p5 ++ p4 ++ c) :
    r.m = m ∧ r.par 4 = p4 ∧ r.par 5 = p5 ∧ r.par 6 = p6 ∧ r.par 7 = p7 ∧ r.c = c := by
  simp only [Raw.m, Raw.par, Raw.c, hx]
  refine ⟨?_, ?_, ?_, ?_, ?_, ?_⟩
  · rw [extract_high _ c 28 6, extract_high _ p4 21 6, extract_high _ p5 14 6, extract_high _ p6 7 6, extract_high _ p7 0 6, extract_all]
  · rw [extract_high _ c 0 7, extract_low _ p4 0 7 (by omega), extract_all]
  · rw [extract_high _ c 7 7, extract_high _ p4 0 7, extract_low _ p5 0 7 (by omega), extract_all]
  · rw [extract_high _ c 14 7, extract_high _ p4 7 7, extract_high _ p5 0 7, extract_low _ p6 0 7 (by omega), extract_all]
  · rw [extract_high _ c 21 7, extract_high _ p4 14 7, extract_high _ p5 7 7, extract_high _ p6 0 7, extract_low _ p7 0 7 (by omega), extract_all]
  · rw [extract_low _ c 0 10 (by omega), extract_all]

variable (r : Raw) (ty : BitVec 4) (mod : BitVec 3) (sat : BitVec 1) (sub : BitVec 4) (imm : Word)

theorem gen_ty : (Raw.gen ty mod sat sub imm).extractLsb' 40 4 = ty := by
  unfold Raw.gen
  rw [extract_high _ imm 8 4, extract_high _ sub 4 4, extract_high _ sat 3 4, extract_high ty mod 0 4, extract_all]
theorem gen_mod : (Raw.gen ty mod sat sub imm).extractLsb' 37 3 = mod := by
  unfold Raw.gen
  rw [extract_high _ imm 5 3, extract_high _ sub 1 3, extract_high _ sat 0 3, extract_low ty mod 0 3 (by omega), extract_all]
theorem gen_sat : (Raw.gen ty mod sat sub imm).extractLsb' 36 1 = sat := by
  unfold Raw.gen
  rw [extract_high _ imm 4 1, extract_high _ sub 0 1, extract_low _ sat 0 1 (by omega), extract_all]
theorem gen_sub : (Raw.gen ty mod sat sub imm).extractLsb' 32 4 = sub := by
  unfold Raw.gen
  rw [extract_high _ imm 0 4, extract_low _ sub 0 4 (by omega), extract_all]
theorem gen_low (k w : Nat) (h : k + w ≤ 32) : (Raw.gen ty mod sat sub imm).extractLsb' k w = imm.extractLsb' k w := by
  unfold Raw.gen
  rw [extract_low _ imm k w h]

section
variable {r ty mod sat sub imm} (hx : r.x = Raw.gen ty mod sat sub imm)
include hx

theorem Raw.ty_gen : r.ty = ty := by rw [Raw.ty, hx, gen_ty]
theorem Raw.mod_gen : r.mod = mod := by rw [Raw.mod, hx, gen_mod]
theorem Raw.sat_gen : r.sat = sat := by rw [Raw.sat, hx, gen_sat]
theorem Raw.sub_gen : r.sub = sub := by rw [Raw.sub, hx, gen_sub]
theorem Raw.imm_gen : r.imm = imm := by rw [Raw.imm, hx, gen_low _ _ _ _ _ _ _ (by omega), extract_all]

end

/-- The C operand of a four-operand form is read back (02 R31). -/
theorem Raw.c_gen {c : BitVec 10} (hx : r.x = Raw.gen ty mod sat sub (0#22 ++ c)) : r.c = c := by
  rw [Raw.c, hx, gen_low _ _ _ _ _ _ _ (by omega), extract_low 0#22 c 0 10 (by omega), extract_all]

/-- The memory modifier word is read back (02 R34). -/
theorem Raw.mw_of {m : MemW} {o : BitVec 20} (hx : r.x = Raw.gen ty mod sat sub (m.bits ++ o)) : r.mw = m := by
  obtain ⟨scope, ss, ord, rpro, ch⟩ := m
  simp only [Raw.mw, hx]
  rw [gen_low _ _ _ _ _ _ _ (by omega), gen_low _ _ _ _ _ _ _ (by omega), gen_low _ _ _ _ _ _ _ (by omega),
    gen_low _ _ _ _ _ _ _ (by omega), gen_low _ _ _ _ _ _ _ (by omega), extract_high _ o 9 3, extract_high _ o 5 4,
    extract_high _ o 3 2, extract_high _ o 2 1, extract_high _ o 0 2]
  unfold MemW.bits
  rw [extract_high _ ch 7 3, extract_high _ (BitVec.ofBool rpro) 6 3, extract_high _ ord 4 3, extract_high _ ss 0 3, extract_all,
    extract_high _ ch 3 4, extract_high _ (BitVec.ofBool rpro) 2 4, extract_high _ ord 0 4, extract_low _ ss 0 4 (by omega), extract_all,
    extract_high _ ch 1 2, extract_high _ (BitVec.ofBool rpro) 0 2, extract_low _ ord 0 2 (by omega), extract_all,
    extract_high _ ch 0 1, extract_low _ (BitVec.ofBool rpro) 0 1 (by omega), extract_all,
    extract_low _ ch 0 2 (by omega), extract_all, ofBool_eq_one]

/-- The offset of a memory form is read back (02 R34). -/
theorem Raw.ofs_of {m : MemW} {o : BitVec 20} (hx : r.x = Raw.gen ty mod sat sub (m.bits ++ o)) : r.ofs = o := by
  rw [Raw.ofs, hx, gen_low _ _ _ _ _ _ _ (by omega), extract_low _ o 0 20 (by omega), extract_all]

/-- The fields of a memory form with C are read back (02 R34). -/
theorem Raw.memC_of {m : MemW} {o c : BitVec 10} (hx : r.x = Raw.gen ty mod sat sub (m.bits ++ o ++ c)) :
    r.mw = m ∧ r.ofs10 = o ∧ r.c = c := by
  have e : m.bits ++ o ++ c = m.bits ++ (o ++ c) := BitVec.append_assoc
  refine ⟨Raw.mw_of r ty mod sat sub (hx.trans (by rw [e])), ?_, ?_⟩
  · rw [Raw.ofs10, hx, gen_low _ _ _ _ _ _ _ (by omega), extract_high _ c 0 10, extract_low _ o 0 10 (by omega), extract_all]
  · rw [Raw.c, hx, gen_low _ _ _ _ _ _ _ (by omega), extract_low _ c 0 10 (by omega), extract_all]

/-! ### A word that `mk'` joins -/

section
variable (h : Hdr) (opc d a b : BitVec 10)

@[simp] theorem Raw.mk'_ty : (Raw.mk' h opc d a b (Raw.gen ty mod sat sub imm)).ty = ty := Raw.ty_gen rfl
@[simp] theorem Raw.mk'_mod : (Raw.mk' h opc d a b (Raw.gen ty mod sat sub imm)).mod = mod := Raw.mod_gen rfl
@[simp] theorem Raw.mk'_sat : (Raw.mk' h opc d a b (Raw.gen ty mod sat sub imm)).sat = sat := Raw.sat_gen rfl
@[simp] theorem Raw.mk'_sub : (Raw.mk' h opc d a b (Raw.gen ty mod sat sub imm)).sub = sub := Raw.sub_gen rfl
@[simp] theorem Raw.mk'_imm : (Raw.mk' h opc d a b (Raw.gen ty mod sat sub imm)).imm = imm := Raw.imm_gen rfl
@[simp] theorem Raw.mk'_c (c : BitVec 10) : (Raw.mk' h opc d a b (Raw.gen ty mod sat sub (0#22 ++ c))).c = c :=
  Raw.c_gen _ _ _ _ _ rfl
@[simp] theorem Raw.mk'_mw (m : MemW) (o : BitVec 20) : (Raw.mk' h opc d a b (Raw.gen ty mod sat sub (m.bits ++ o))).mw = m :=
  Raw.mw_of _ _ _ _ _ rfl
@[simp] theorem Raw.mk'_ofs (m : MemW) (o : BitVec 20) : (Raw.mk' h opc d a b (Raw.gen ty mod sat sub (m.bits ++ o))).ofs = o :=
  Raw.ofs_of _ _ _ _ _ rfl
@[simp] theorem Raw.mk'_mwC (m : MemW) (o c : BitVec 10) :
    (Raw.mk' h opc d a b (Raw.gen ty mod sat sub (m.bits ++ o ++ c))).mw = m := (Raw.memC_of _ _ _ _ _ rfl).1
@[simp] theorem Raw.mk'_ofs10 (m : MemW) (o c : BitVec 10) :
    (Raw.mk' h opc d a b (Raw.gen ty mod sat sub (m.bits ++ o ++ c))).ofs10 = o := (Raw.memC_of _ _ _ _ _ rfl).2.1
@[simp] theorem Raw.mk'_cC (m : MemW) (o c : BitVec 10) :
    (Raw.mk' h opc d a b (Raw.gen ty mod sat sub (m.bits ++ o ++ c))).c = c := (Raw.memC_of _ _ _ _ _ rfl).2.2

end

/-! ### Words and their fields -/

/-- The fields of a joined word are the fields it was joined from (02 R23). -/
@[simp] theorem Raw.ofWord_toWord (r : Raw) : Raw.ofWord r.toWord = r := by
  obtain ⟨opc, look, grd, nf, yld, ru, d, a, b, x⟩ := r
  simp only [Raw.ofWord, Raw.toWord]
  congr
  · rw [extract_high _ x 42 10, extract_high _ b 32 10, extract_high _ a 22 10, extract_high _ d 12 10, extract_high _ ru 10 10,
      extract_high _ yld 9 10, extract_high _ nf 8 10, extract_high _ grd 4 10, extract_high _ look 0 10, extract_all]
  · rw [extract_high _ x 38 4, extract_high _ b 28 4, extract_high _ a 18 4, extract_high _ d 8 4, extract_high _ ru 6 4,
      extract_high _ yld 5 4, extract_high _ nf 4 4, extract_high _ grd 0 4, extract_low _ look 0 4 (by omega), extract_all]
  · rw [extract_high _ x 34 4, extract_high _ b 24 4, extract_high _ a 14 4, extract_high _ d 4 4, extract_high _ ru 2 4,
      extract_high _ yld 1 4, extract_high _ nf 0 4, extract_low _ grd 0 4 (by omega), extract_all]
  · rw [extract_high _ x 33 1, extract_high _ b 23 1, extract_high _ a 13 1, extract_high _ d 3 1, extract_high _ ru 1 1,
      extract_high _ yld 0 1, extract_low _ nf 0 1 (by omega), extract_all]
  · rw [extract_high _ x 32 1, extract_high _ b 22 1, extract_high _ a 12 1, extract_high _ d 2 1, extract_high _ ru 0 1,
      extract_low _ yld 0 1 (by omega), extract_all]
  · rw [extract_high _ x 30 2, extract_high _ b 20 2, extract_high _ a 10 2, extract_high _ d 0 2, extract_low _ ru 0 2 (by omega),
      extract_all]
  · rw [extract_high _ x 20 10, extract_high _ b 10 10, extract_high _ a 0 10, extract_low _ d 0 10 (by omega), extract_all]
  · rw [extract_high _ x 10 10, extract_high _ b 0 10, extract_low _ a 0 10 (by omega), extract_all]
  · rw [extract_high _ x 0 10, extract_low _ b 0 10 (by omega), extract_all]
  · rw [extract_low _ x 0 44 (by omega), extract_all]

end Sys2Proof
end

