-- ==== Sys2Proof/Laws/State.lean ====
section
/-!
SUPPORT. State.lean: what each update of the state leaves as it was, field by field.
-/
namespace Sys2Proof.Machine
variable (s : State)

@[simp] theorem setWg_dev (w : Nat) (g : Wg) : (setWg s w g).dev = s.dev := rfl
@[simp] theorem setWg_cyc (w : Nat) (g : Wg) : (setWg s w g).cyc = s.cyc := rfl
@[simp] theorem setWg_mem (w : Nat) (g : Wg) : (setWg s w g).mem = s.mem := rfl
@[simp] theorem setWg_unsAll (w : Nat) (g : Wg) : (setWg s w g).unsAll = s.unsAll := rfl
@[simp] theorem setWg_unsEx (w : Nat) (g : Wg) : (setWg s w g).unsEx = s.unsEx := rfl
@[simp] theorem setWg_clearing (w : Nat) (g : Wg) : (setWg s w g).clearing = s.clearing := rfl
@[simp] theorem setWg_badMem (w : Nat) (g : Wg) : (setWg s w g).badMem = s.badMem := rfl
@[simp] theorem setWg_fixMem (w : Nat) (g : Wg) : (setWg s w g).fixMem = s.fixMem := rfl
@[simp] theorem setWg_stale (w : Nat) (g : Wg) : (setWg s w g).stale = s.stale := rfl
@[simp] theorem setWg_cores (w : Nat) (g : Wg) : (setWg s w g).cores = s.cores := rfl
@[simp] theorem setWg_owns (w : Nat) (g : Wg) : (setWg s w g).owns = s.owns := rfl
@[simp] theorem setWg_combs (w : Nat) (g : Wg) : (setWg s w g).combs = s.combs := rfl
@[simp] theorem setWg_streams (w : Nat) (g : Wg) : (setWg s w g).streams = s.streams := rfl
@[simp] theorem setWg_links (w : Nat) (g : Wg) : (setWg s w g).links = s.links := rfl
@[simp] theorem setWg_parts (w : Nat) (g : Wg) : (setWg s w g).parts = s.parts := rfl
@[simp] theorem setWg_ctxs (w : Nat) (g : Wg) : (setWg s w g).ctxs = s.ctxs := rfl
@[simp] theorem setWg_reqs (w : Nat) (g : Wg) : (setWg s w g).reqs = s.reqs := rfl
@[simp] theorem setWg_wakes (w : Nat) (g : Wg) : (setWg s w g).wakes = s.wakes := rfl
@[simp] theorem setWg_sched (w : Nat) (g : Wg) : (setWg s w g).sched = s.sched := rfl
@[simp] theorem setWg_tick (w : Nat) (g : Wg) : (setWg s w g).tick = s.tick := rfl
@[simp] theorem setWg_bundle (w : Nat) (g : Wg) : (setWg s w g).bundle = s.bundle := rfl
@[simp] theorem setWg_fresh (w : Nat) (g : Wg) : (setWg s w g).fresh = s.fresh := rfl

@[simp] theorem modWg_dev (w : Nat) (f : Wg → Wg) : (modWg s w f).dev = s.dev := rfl
@[simp] theorem modWg_cyc (w : Nat) (f : Wg → Wg) : (modWg s w f).cyc = s.cyc := rfl
@[simp] theorem modWg_mem (w : Nat) (f : Wg → Wg) : (modWg s w f).mem = s.mem := rfl
@[simp] theorem modWg_unsAll (w : Nat) (f : Wg → Wg) : (modWg s w f).unsAll = s.unsAll := rfl
@[simp] theorem modWg_unsEx (w : Nat) (f : Wg → Wg) : (modWg s w f).unsEx = s.unsEx := rfl
@[simp] theorem modWg_clearing (w : Nat) (f : Wg → Wg) : (modWg s w f).clearing = s.clearing := rfl
@[simp] theorem modWg_badMem (w : Nat) (f : Wg → Wg) : (modWg s w f).badMem = s.badMem := rfl
@[simp] theorem modWg_fixMem (w : Nat) (f : Wg → Wg) : (modWg s w f).fixMem = s.fixMem := rfl
@[simp] theorem modWg_stale (w : Nat) (f : Wg → Wg) : (modWg s w f).stale = s.stale := rfl
@[simp] theorem modWg_cores (w : Nat) (f : Wg → Wg) : (modWg s w f).cores = s.cores := rfl
@[simp] theorem modWg_owns (w : Nat) (f : Wg → Wg) : (modWg s w f).owns = s.owns := rfl
@[simp] theorem modWg_combs (w : Nat) (f : Wg → Wg) : (modWg s w f).combs = s.combs := rfl
@[simp] theorem modWg_streams (w : Nat) (f : Wg → Wg) : (modWg s w f).streams = s.streams := rfl
@[simp] theorem modWg_links (w : Nat) (f : Wg → Wg) : (modWg s w f).links = s.links := rfl
@[simp] theorem modWg_parts (w : Nat) (f : Wg → Wg) : (modWg s w f).parts = s.parts := rfl
@[simp] theorem modWg_ctxs (w : Nat) (f : Wg → Wg) : (modWg s w f).ctxs = s.ctxs := rfl
@[simp] theorem modWg_reqs (w : Nat) (f : Wg → Wg) : (modWg s w f).reqs = s.reqs := rfl
@[simp] theorem modWg_wakes (w : Nat) (f : Wg → Wg) : (modWg s w f).wakes = s.wakes := rfl
@[simp] theorem modWg_sched (w : Nat) (f : Wg → Wg) : (modWg s w f).sched = s.sched := rfl
@[simp] theorem modWg_tick (w : Nat) (f : Wg → Wg) : (modWg s w f).tick = s.tick := rfl
@[simp] theorem modWg_bundle (w : Nat) (f : Wg → Wg) : (modWg s w f).bundle = s.bundle := rfl
@[simp] theorem modWg_fresh (w : Nat) (f : Wg → Wg) : (modWg s w f).fresh = s.fresh := rfl

@[simp] theorem modTh_dev (w t : Nat) (f : Thread → Thread) : (modTh s w t f).dev = s.dev := rfl
@[simp] theorem modTh_cyc (w t : Nat) (f : Thread → Thread) : (modTh s w t f).cyc = s.cyc := rfl
@[simp] theorem modTh_mem (w t : Nat) (f : Thread → Thread) : (modTh s w t f).mem = s.mem := rfl
@[simp] theorem modTh_unsAll (w t : Nat) (f : Thread → Thread) : (modTh s w t f).unsAll = s.unsAll := rfl
@[simp] theorem modTh_unsEx (w t : Nat) (f : Thread → Thread) : (modTh s w t f).unsEx = s.unsEx := rfl
@[simp] theorem modTh_clearing (w t : Nat) (f : Thread → Thread) : (modTh s w t f).clearing = s.clearing := rfl
@[simp] theorem modTh_badMem (w t : Nat) (f : Thread → Thread) : (modTh s w t f).badMem = s.badMem := rfl
@[simp] theorem modTh_fixMem (w t : Nat) (f : Thread → Thread) : (modTh s w t f).fixMem = s.fixMem := rfl
@[simp] theorem modTh_stale (w t : Nat) (f : Thread → Thread) : (modTh s w t f).stale = s.stale := rfl
@[simp] theorem modTh_cores (w t : Nat) (f : Thread → Thread) : (modTh s w t f).cores = s.cores := rfl
@[simp] theorem modTh_owns (w t : Nat) (f : Thread → Thread) : (modTh s w t f).owns = s.owns := rfl
@[simp] theorem modTh_combs (w t : Nat) (f : Thread → Thread) : (modTh s w t f).combs = s.combs := rfl
@[simp] theorem modTh_streams (w t : Nat) (f : Thread → Thread) : (modTh s w t f).streams = s.streams := rfl
@[simp] theorem modTh_links (w t : Nat) (f : Thread → Thread) : (modTh s w t f).links = s.links := rfl
@[simp] theorem modTh_parts (w t : Nat) (f : Thread → Thread) : (modTh s w t f).parts = s.parts := rfl
@[simp] theorem modTh_ctxs (w t : Nat) (f : Thread → Thread) : (modTh s w t f).ctxs = s.ctxs := rfl
@[simp] theorem modTh_reqs (w t : Nat) (f : Thread → Thread) : (modTh s w t f).reqs = s.reqs := rfl
@[simp] theorem modTh_wakes (w t : Nat) (f : Thread → Thread) : (modTh s w t f).wakes = s.wakes := rfl
@[simp] theorem modTh_sched (w t : Nat) (f : Thread → Thread) : (modTh s w t f).sched = s.sched := rfl
@[simp] theorem modTh_tick (w t : Nat) (f : Thread → Thread) : (modTh s w t f).tick = s.tick := rfl
@[simp] theorem modTh_bundle (w t : Nat) (f : Thread → Thread) : (modTh s w t f).bundle = s.bundle := rfl
@[simp] theorem modTh_fresh (w t : Nat) (f : Thread → Thread) : (modTh s w t f).fresh = s.fresh := rfl

@[simp] theorem modCore_dev (c : Nat) (f : Core → Core) : (modCore s c f).dev = s.dev := rfl
@[simp] theorem modCore_cyc (c : Nat) (f : Core → Core) : (modCore s c f).cyc = s.cyc := rfl
@[simp] theorem modCore_mem (c : Nat) (f : Core → Core) : (modCore s c f).mem = s.mem := rfl
@[simp] theorem modCore_unsAll (c : Nat) (f : Core → Core) : (modCore s c f).unsAll = s.unsAll := rfl
@[simp] theorem modCore_unsEx (c : Nat) (f : Core → Core) : (modCore s c f).unsEx = s.unsEx := rfl
@[simp] theorem modCore_clearing (c : Nat) (f : Core → Core) : (modCore s c f).clearing = s.clearing := rfl
@[simp] theorem modCore_badMem (c : Nat) (f : Core → Core) : (modCore s c f).badMem = s.badMem := rfl
@[simp] theorem modCore_fixMem (c : Nat) (f : Core → Core) : (modCore s c f).fixMem = s.fixMem := rfl
@[simp] theorem modCore_stale (c : Nat) (f : Core → Core) : (modCore s c f).stale = s.stale := rfl
@[simp] theorem modCore_owns (c : Nat) (f : Core → Core) : (modCore s c f).owns = s.owns := rfl
@[simp] theorem modCore_combs (c : Nat) (f : Core → Core) : (modCore s c f).combs = s.combs := rfl
@[simp] theorem modCore_streams (c : Nat) (f : Core → Core) : (modCore s c f).streams = s.streams := rfl
@[simp] theorem modCore_links (c : Nat) (f : Core → Core) : (modCore s c f).links = s.links := rfl
@[simp] theorem modCore_parts (c : Nat) (f : Core → Core) : (modCore s c f).parts = s.parts := rfl
@[simp] theorem modCore_ctxs (c : Nat) (f : Core → Core) : (modCore s c f).ctxs = s.ctxs := rfl
@[simp] theorem modCore_wgs (c : Nat) (f : Core → Core) : (modCore s c f).wgs = s.wgs := rfl
@[simp] theorem modCore_reqs (c : Nat) (f : Core → Core) : (modCore s c f).reqs = s.reqs := rfl
@[simp] theorem modCore_wakes (c : Nat) (f : Core → Core) : (modCore s c f).wakes = s.wakes := rfl
@[simp] theorem modCore_sched (c : Nat) (f : Core → Core) : (modCore s c f).sched = s.sched := rfl
@[simp] theorem modCore_tick (c : Nat) (f : Core → Core) : (modCore s c f).tick = s.tick := rfl
@[simp] theorem modCore_bundle (c : Nat) (f : Core → Core) : (modCore s c f).bundle = s.bundle := rfl
@[simp] theorem modCore_fresh (c : Nat) (f : Core → Core) : (modCore s c f).fresh = s.fresh := rfl

@[simp] theorem modPart_dev (p : Nat) (f : Part → Part) : (modPart s p f).dev = s.dev := rfl
@[simp] theorem modPart_cyc (p : Nat) (f : Part → Part) : (modPart s p f).cyc = s.cyc := rfl
@[simp] theorem modPart_mem (p : Nat) (f : Part → Part) : (modPart s p f).mem = s.mem := rfl
@[simp] theorem modPart_unsAll (p : Nat) (f : Part → Part) : (modPart s p f).unsAll = s.unsAll := rfl
@[simp] theorem modPart_unsEx (p : Nat) (f : Part → Part) : (modPart s p f).unsEx = s.unsEx := rfl
@[simp] theorem modPart_clearing (p : Nat) (f : Part → Part) : (modPart s p f).clearing = s.clearing := rfl
@[simp] theorem modPart_badMem (p : Nat) (f : Part → Part) : (modPart s p f).badMem = s.badMem := rfl
@[simp] theorem modPart_fixMem (p : Nat) (f : Part → Part) : (modPart s p f).fixMem = s.fixMem := rfl
@[simp] theorem modPart_stale (p : Nat) (f : Part → Part) : (modPart s p f).stale = s.stale := rfl
@[simp] theorem modPart_cores (p : Nat) (f : Part → Part) : (modPart s p f).cores = s.cores := rfl
@[simp] theorem modPart_owns (p : Nat) (f : Part → Part) : (modPart s p f).owns = s.owns := rfl
@[simp] theorem modPart_combs (p : Nat) (f : Part → Part) : (modPart s p f).combs = s.combs := rfl
@[simp] theorem modPart_streams (p : Nat) (f : Part → Part) : (modPart s p f).streams = s.streams := rfl
@[simp] theorem modPart_links (p : Nat) (f : Part → Part) : (modPart s p f).links = s.links := rfl
@[simp] theorem modPart_ctxs (p : Nat) (f : Part → Part) : (modPart s p f).ctxs = s.ctxs := rfl
@[simp] theorem modPart_wgs (p : Nat) (f : Part → Part) : (modPart s p f).wgs = s.wgs := rfl
@[simp] theorem modPart_reqs (p : Nat) (f : Part → Part) : (modPart s p f).reqs = s.reqs := rfl
@[simp] theorem modPart_wakes (p : Nat) (f : Part → Part) : (modPart s p f).wakes = s.wakes := rfl
@[simp] theorem modPart_sched (p : Nat) (f : Part → Part) : (modPart s p f).sched = s.sched := rfl
@[simp] theorem modPart_tick (p : Nat) (f : Part → Part) : (modPart s p f).tick = s.tick := rfl
@[simp] theorem modPart_bundle (p : Nat) (f : Part → Part) : (modPart s p f).bundle = s.bundle := rfl
@[simp] theorem modPart_fresh (p : Nat) (f : Part → Part) : (modPart s p f).fresh = s.fresh := rfl

@[simp] theorem modEntry_dev (p e : Nat) (f : Entry → Entry) : (modEntry s p e f).dev = s.dev := rfl
@[simp] theorem modEntry_cyc (p e : Nat) (f : Entry → Entry) : (modEntry s p e f).cyc = s.cyc := rfl
@[simp] theorem modEntry_mem (p e : Nat) (f : Entry → Entry) : (modEntry s p e f).mem = s.mem := rfl
@[simp] theorem modEntry_unsAll (p e : Nat) (f : Entry → Entry) : (modEntry s p e f).unsAll = s.unsAll := rfl
@[simp] theorem modEntry_unsEx (p e : Nat) (f : Entry → Entry) : (modEntry s p e f).unsEx = s.unsEx := rfl
@[simp] theorem modEntry_clearing (p e : Nat) (f : Entry → Entry) : (modEntry s p e f).clearing = s.clearing := rfl
@[simp] theorem modEntry_badMem (p e : Nat) (f : Entry → Entry) : (modEntry s p e f).badMem = s.badMem := rfl
@[simp] theorem modEntry_fixMem (p e : Nat) (f : Entry → Entry) : (modEntry s p e f).fixMem = s.fixMem := rfl
@[simp] theorem modEntry_stale (p e : Nat) (f : Entry → Entry) : (modEntry s p e f).stale = s.stale := rfl
@[simp] theorem modEntry_cores (p e : Nat) (f : Entry → Entry) : (modEntry s p e f).cores = s.cores := rfl
@[simp] theorem modEntry_owns (p e : Nat) (f : Entry → Entry) : (modEntry s p e f).owns = s.owns := rfl
@[simp] theorem modEntry_combs (p e : Nat) (f : Entry → Entry) : (modEntry s p e f).combs = s.combs := rfl
@[simp] theorem modEntry_streams (p e : Nat) (f : Entry → Entry) : (modEntry s p e f).streams = s.streams := rfl
@[simp] theorem modEntry_links (p e : Nat) (f : Entry → Entry) : (modEntry s p e f).links = s.links := rfl
@[simp] theorem modEntry_ctxs (p e : Nat) (f : Entry → Entry) : (modEntry s p e f).ctxs = s.ctxs := rfl
@[simp] theorem modEntry_wgs (p e : Nat) (f : Entry → Entry) : (modEntry s p e f).wgs = s.wgs := rfl
@[simp] theorem modEntry_reqs (p e : Nat) (f : Entry → Entry) : (modEntry s p e f).reqs = s.reqs := rfl
@[simp] theorem modEntry_wakes (p e : Nat) (f : Entry → Entry) : (modEntry s p e f).wakes = s.wakes := rfl
@[simp] theorem modEntry_sched (p e : Nat) (f : Entry → Entry) : (modEntry s p e f).sched = s.sched := rfl
@[simp] theorem modEntry_tick (p e : Nat) (f : Entry → Entry) : (modEntry s p e f).tick = s.tick := rfl
@[simp] theorem modEntry_bundle (p e : Nat) (f : Entry → Entry) : (modEntry s p e f).bundle = s.bundle := rfl
@[simp] theorem modEntry_fresh (p e : Nat) (f : Entry → Entry) : (modEntry s p e f).fresh = s.fresh := rfl

@[simp] theorem modEntryOf_dev (g : Wg) (f : Entry → Entry) : (modEntryOf s g f).dev = s.dev := rfl
@[simp] theorem modEntryOf_cyc (g : Wg) (f : Entry → Entry) : (modEntryOf s g f).cyc = s.cyc := rfl
@[simp] theorem modEntryOf_mem (g : Wg) (f : Entry → Entry) : (modEntryOf s g f).mem = s.mem := rfl
@[simp] theorem modEntryOf_unsAll (g : Wg) (f : Entry → Entry) : (modEntryOf s g f).unsAll = s.unsAll := rfl
@[simp] theorem modEntryOf_unsEx (g : Wg) (f : Entry → Entry) : (modEntryOf s g f).unsEx = s.unsEx := rfl
@[simp] theorem modEntryOf_clearing (g : Wg) (f : Entry → Entry) : (modEntryOf s g f).clearing = s.clearing := rfl
@[simp] theorem modEntryOf_badMem (g : Wg) (f : Entry → Entry) : (modEntryOf s g f).badMem = s.badMem := rfl
@[simp] theorem modEntryOf_fixMem (g : Wg) (f : Entry → Entry) : (modEntryOf s g f).fixMem = s.fixMem := rfl
@[simp] theorem modEntryOf_stale (g : Wg) (f : Entry → Entry) : (modEntryOf s g f).stale = s.stale := rfl
@[simp] theorem modEntryOf_cores (g : Wg) (f : Entry → Entry) : (modEntryOf s g f).cores = s.cores := rfl
@[simp] theorem modEntryOf_owns (g : Wg) (f : Entry → Entry) : (modEntryOf s g f).owns = s.owns := rfl
@[simp] theorem modEntryOf_combs (g : Wg) (f : Entry → Entry) : (modEntryOf s g f).combs = s.combs := rfl
@[simp] theorem modEntryOf_streams (g : Wg) (f : Entry → Entry) : (modEntryOf s g f).streams = s.streams := rfl
@[simp] theorem modEntryOf_links (g : Wg) (f : Entry → Entry) : (modEntryOf s g f).links = s.links := rfl
@[simp] theorem modEntryOf_ctxs (g : Wg) (f : Entry → Entry) : (modEntryOf s g f).ctxs = s.ctxs := rfl
@[simp] theorem modEntryOf_wgs (g : Wg) (f : Entry → Entry) : (modEntryOf s g f).wgs = s.wgs := rfl
@[simp] theorem modEntryOf_reqs (g : Wg) (f : Entry → Entry) : (modEntryOf s g f).reqs = s.reqs := rfl
@[simp] theorem modEntryOf_wakes (g : Wg) (f : Entry → Entry) : (modEntryOf s g f).wakes = s.wakes := rfl
@[simp] theorem modEntryOf_sched (g : Wg) (f : Entry → Entry) : (modEntryOf s g f).sched = s.sched := rfl
@[simp] theorem modEntryOf_tick (g : Wg) (f : Entry → Entry) : (modEntryOf s g f).tick = s.tick := rfl
@[simp] theorem modEntryOf_bundle (g : Wg) (f : Entry → Entry) : (modEntryOf s g f).bundle = s.bundle := rfl
@[simp] theorem modEntryOf_fresh (g : Wg) (f : Entry → Entry) : (modEntryOf s g f).fresh = s.fresh := rfl

@[simp] theorem setOwn_dev (cl idx : Nat) (o : Own) : (setOwn s cl idx o).dev = s.dev := rfl
@[simp] theorem setOwn_cyc (cl idx : Nat) (o : Own) : (setOwn s cl idx o).cyc = s.cyc := rfl
@[simp] theorem setOwn_mem (cl idx : Nat) (o : Own) : (setOwn s cl idx o).mem = s.mem := rfl
@[simp] theorem setOwn_unsAll (cl idx : Nat) (o : Own) : (setOwn s cl idx o).unsAll = s.unsAll := rfl
@[simp] theorem setOwn_unsEx (cl idx : Nat) (o : Own) : (setOwn s cl idx o).unsEx = s.unsEx := rfl
@[simp] theorem setOwn_clearing (cl idx : Nat) (o : Own) : (setOwn s cl idx o).clearing = s.clearing := rfl
@[simp] theorem setOwn_badMem (cl idx : Nat) (o : Own) : (setOwn s cl idx o).badMem = s.badMem := rfl
@[simp] theorem setOwn_fixMem (cl idx : Nat) (o : Own) : (setOwn s cl idx o).fixMem = s.fixMem := rfl
@[simp] theorem setOwn_stale (cl idx : Nat) (o : Own) : (setOwn s cl idx o).stale = s.stale := rfl
@[simp] theorem setOwn_cores (cl idx : Nat) (o : Own) : (setOwn s cl idx o).cores = s.cores := rfl
@[simp] theorem setOwn_combs (cl idx : Nat) (o : Own) : (setOwn s cl idx o).combs = s.combs := rfl
@[simp] theorem setOwn_streams (cl idx : Nat) (o : Own) : (setOwn s cl idx o).streams = s.streams := rfl
@[simp] theorem setOwn_links (cl idx : Nat) (o : Own) : (setOwn s cl idx o).links = s.links := rfl
@[simp] theorem setOwn_parts (cl idx : Nat) (o : Own) : (setOwn s cl idx o).parts = s.parts := rfl
@[simp] theorem setOwn_ctxs (cl idx : Nat) (o : Own) : (setOwn s cl idx o).ctxs = s.ctxs := rfl
@[simp] theorem setOwn_wgs (cl idx : Nat) (o : Own) : (setOwn s cl idx o).wgs = s.wgs := rfl
@[simp] theorem setOwn_reqs (cl idx : Nat) (o : Own) : (setOwn s cl idx o).reqs = s.reqs := rfl
@[simp] theorem setOwn_wakes (cl idx : Nat) (o : Own) : (setOwn s cl idx o).wakes = s.wakes := rfl
@[simp] theorem setOwn_sched (cl idx : Nat) (o : Own) : (setOwn s cl idx o).sched = s.sched := rfl
@[simp] theorem setOwn_tick (cl idx : Nat) (o : Own) : (setOwn s cl idx o).tick = s.tick := rfl
@[simp] theorem setOwn_bundle (cl idx : Nat) (o : Own) : (setOwn s cl idx o).bundle = s.bundle := rfl
@[simp] theorem setOwn_fresh (cl idx : Nat) (o : Own) : (setOwn s cl idx o).fresh = s.fresh := rfl

@[simp] theorem setCombs_dev (cl : Nat) (l : List Comb) : (setCombs s cl l).dev = s.dev := rfl
@[simp] theorem setCombs_cyc (cl : Nat) (l : List Comb) : (setCombs s cl l).cyc = s.cyc := rfl
@[simp] theorem setCombs_mem (cl : Nat) (l : List Comb) : (setCombs s cl l).mem = s.mem := rfl
@[simp] theorem setCombs_unsAll (cl : Nat) (l : List Comb) : (setCombs s cl l).unsAll = s.unsAll := rfl
@[simp] theorem setCombs_unsEx (cl : Nat) (l : List Comb) : (setCombs s cl l).unsEx = s.unsEx := rfl
@[simp] theorem setCombs_clearing (cl : Nat) (l : List Comb) : (setCombs s cl l).clearing = s.clearing := rfl
@[simp] theorem setCombs_badMem (cl : Nat) (l : List Comb) : (setCombs s cl l).badMem = s.badMem := rfl
@[simp] theorem setCombs_fixMem (cl : Nat) (l : List Comb) : (setCombs s cl l).fixMem = s.fixMem := rfl
@[simp] theorem setCombs_stale (cl : Nat) (l : List Comb) : (setCombs s cl l).stale = s.stale := rfl
@[simp] theorem setCombs_cores (cl : Nat) (l : List Comb) : (setCombs s cl l).cores = s.cores := rfl
@[simp] theorem setCombs_owns (cl : Nat) (l : List Comb) : (setCombs s cl l).owns = s.owns := rfl
@[simp] theorem setCombs_streams (cl : Nat) (l : List Comb) : (setCombs s cl l).streams = s.streams := rfl
@[simp] theorem setCombs_links (cl : Nat) (l : List Comb) : (setCombs s cl l).links = s.links := rfl
@[simp] theorem setCombs_parts (cl : Nat) (l : List Comb) : (setCombs s cl l).parts = s.parts := rfl
@[simp] theorem setCombs_ctxs (cl : Nat) (l : List Comb) : (setCombs s cl l).ctxs = s.ctxs := rfl
@[simp] theorem setCombs_wgs (cl : Nat) (l : List Comb) : (setCombs s cl l).wgs = s.wgs := rfl
@[simp] theorem setCombs_reqs (cl : Nat) (l : List Comb) : (setCombs s cl l).reqs = s.reqs := rfl
@[simp] theorem setCombs_wakes (cl : Nat) (l : List Comb) : (setCombs s cl l).wakes = s.wakes := rfl
@[simp] theorem setCombs_sched (cl : Nat) (l : List Comb) : (setCombs s cl l).sched = s.sched := rfl
@[simp] theorem setCombs_tick (cl : Nat) (l : List Comb) : (setCombs s cl l).tick = s.tick := rfl
@[simp] theorem setCombs_bundle (cl : Nat) (l : List Comb) : (setCombs s cl l).bundle = s.bundle := rfl
@[simp] theorem setCombs_fresh (cl : Nat) (l : List Comb) : (setCombs s cl l).fresh = s.fresh := rfl

@[simp] theorem modDev_cyc (f : Dev → Dev) : (modDev s f).cyc = s.cyc := rfl
@[simp] theorem modDev_mem (f : Dev → Dev) : (modDev s f).mem = s.mem := rfl
@[simp] theorem modDev_unsAll (f : Dev → Dev) : (modDev s f).unsAll = s.unsAll := rfl
@[simp] theorem modDev_unsEx (f : Dev → Dev) : (modDev s f).unsEx = s.unsEx := rfl
@[simp] theorem modDev_clearing (f : Dev → Dev) : (modDev s f).clearing = s.clearing := rfl
@[simp] theorem modDev_badMem (f : Dev → Dev) : (modDev s f).badMem = s.badMem := rfl
@[simp] theorem modDev_fixMem (f : Dev → Dev) : (modDev s f).fixMem = s.fixMem := rfl
@[simp] theorem modDev_stale (f : Dev → Dev) : (modDev s f).stale = s.stale := rfl
@[simp] theorem modDev_cores (f : Dev → Dev) : (modDev s f).cores = s.cores := rfl
@[simp] theorem modDev_owns (f : Dev → Dev) : (modDev s f).owns = s.owns := rfl
@[simp] theorem modDev_combs (f : Dev → Dev) : (modDev s f).combs = s.combs := rfl
@[simp] theorem modDev_streams (f : Dev → Dev) : (modDev s f).streams = s.streams := rfl
@[simp] theorem modDev_links (f : Dev → Dev) : (modDev s f).links = s.links := rfl
@[simp] theorem modDev_parts (f : Dev → Dev) : (modDev s f).parts = s.parts := rfl
@[simp] theorem modDev_ctxs (f : Dev → Dev) : (modDev s f).ctxs = s.ctxs := rfl
@[simp] theorem modDev_wgs (f : Dev → Dev) : (modDev s f).wgs = s.wgs := rfl
@[simp] theorem modDev_reqs (f : Dev → Dev) : (modDev s f).reqs = s.reqs := rfl
@[simp] theorem modDev_wakes (f : Dev → Dev) : (modDev s f).wakes = s.wakes := rfl
@[simp] theorem modDev_sched (f : Dev → Dev) : (modDev s f).sched = s.sched := rfl
@[simp] theorem modDev_tick (f : Dev → Dev) : (modDev s f).tick = s.tick := rfl
@[simp] theorem modDev_bundle (f : Dev → Dev) : (modDev s f).bundle = s.bundle := rfl
@[simp] theorem modDev_fresh (f : Dev → Dev) : (modDev s f).fresh = s.fresh := rfl

@[simp] theorem State.bump_dev : (s.bump).dev = s.dev := rfl
@[simp] theorem State.bump_cyc : (s.bump).cyc = s.cyc := rfl
@[simp] theorem State.bump_mem : (s.bump).mem = s.mem := rfl
@[simp] theorem State.bump_unsAll : (s.bump).unsAll = s.unsAll := rfl
@[simp] theorem State.bump_unsEx : (s.bump).unsEx = s.unsEx := rfl
@[simp] theorem State.bump_clearing : (s.bump).clearing = s.clearing := rfl
@[simp] theorem State.bump_badMem : (s.bump).badMem = s.badMem := rfl
@[simp] theorem State.bump_fixMem : (s.bump).fixMem = s.fixMem := rfl
@[simp] theorem State.bump_stale : (s.bump).stale = s.stale := rfl
@[simp] theorem State.bump_cores : (s.bump).cores = s.cores := rfl
@[simp] theorem State.bump_owns : (s.bump).owns = s.owns := rfl
@[simp] theorem State.bump_combs : (s.bump).combs = s.combs := rfl
@[simp] theorem State.bump_streams : (s.bump).streams = s.streams := rfl
@[simp] theorem State.bump_links : (s.bump).links = s.links := rfl
@[simp] theorem State.bump_parts : (s.bump).parts = s.parts := rfl
@[simp] theorem State.bump_ctxs : (s.bump).ctxs = s.ctxs := rfl
@[simp] theorem State.bump_wgs : (s.bump).wgs = s.wgs := rfl
@[simp] theorem State.bump_reqs : (s.bump).reqs = s.reqs := rfl
@[simp] theorem State.bump_wakes : (s.bump).wakes = s.wakes := rfl
@[simp] theorem State.bump_sched : (s.bump).sched = s.sched := rfl
@[simp] theorem State.bump_tick : (s.bump).tick = s.tick := rfl
@[simp] theorem State.bump_bundle : (s.bump).bundle = s.bundle := rfl

@[simp] theorem modDev_dev (f : Dev → Dev) : (modDev s f).dev = f s.dev := rfl
@[simp] theorem State.bump_fresh : s.bump.fresh = s.fresh + 1 := rfl
@[simp] theorem setWg_wgs_length (w : Nat) (g : Wg) : (setWg s w g).wgs.length = s.wgs.length := List.length_set ..
@[simp] theorem modPart_parts_length (p : Nat) (f : Part → Part) : (modPart s p f).parts.length = s.parts.length :=
  List.length_set ..

@[simp] theorem modCtx_dev (c : Nat) (f : Ctx → Ctx) : (modCtx s c f).dev = s.dev := by unfold modCtx; split <;> rfl
@[simp] theorem modCtx_cyc (c : Nat) (f : Ctx → Ctx) : (modCtx s c f).cyc = s.cyc := by unfold modCtx; split <;> rfl
@[simp] theorem modCtx_mem (c : Nat) (f : Ctx → Ctx) : (modCtx s c f).mem = s.mem := by unfold modCtx; split <;> rfl
@[simp] theorem modCtx_unsAll (c : Nat) (f : Ctx → Ctx) : (modCtx s c f).unsAll = s.unsAll := by unfold modCtx; split <;> rfl
@[simp] theorem modCtx_unsEx (c : Nat) (f : Ctx → Ctx) : (modCtx s c f).unsEx = s.unsEx := by unfold modCtx; split <;> rfl
@[simp] theorem modCtx_clearing (c : Nat) (f : Ctx → Ctx) : (modCtx s c f).clearing = s.clearing := by unfold modCtx; split <;> rfl
@[simp] theorem modCtx_badMem (c : Nat) (f : Ctx → Ctx) : (modCtx s c f).badMem = s.badMem := by unfold modCtx; split <;> rfl
@[simp] theorem modCtx_fixMem (c : Nat) (f : Ctx → Ctx) : (modCtx s c f).fixMem = s.fixMem := by unfold modCtx; split <;> rfl
@[simp] theorem modCtx_stale (c : Nat) (f : Ctx → Ctx) : (modCtx s c f).stale = s.stale := by unfold modCtx; split <;> rfl
@[simp] theorem modCtx_cores (c : Nat) (f : Ctx → Ctx) : (modCtx s c f).cores = s.cores := by unfold modCtx; split <;> rfl
@[simp] theorem modCtx_owns (c : Nat) (f : Ctx → Ctx) : (modCtx s c f).owns = s.owns := by unfold modCtx; split <;> rfl
@[simp] theorem modCtx_combs (c : Nat) (f : Ctx → Ctx) : (modCtx s c f).combs = s.combs := by unfold modCtx; split <;> rfl
@[simp] theorem modCtx_streams (c : Nat) (f : Ctx → Ctx) : (modCtx s c f).streams = s.streams := by unfold modCtx; split <;> rfl
@[simp] theorem modCtx_links (c : Nat) (f : Ctx → Ctx) : (modCtx s c f).links = s.links := by unfold modCtx; split <;> rfl
@[simp] theorem modCtx_parts (c : Nat) (f : Ctx → Ctx) : (modCtx s c f).parts = s.parts := by unfold modCtx; split <;> rfl
@[simp] theorem modCtx_wgs (c : Nat) (f : Ctx → Ctx) : (modCtx s c f).wgs = s.wgs := by unfold modCtx; split <;> rfl
@[simp] theorem modCtx_reqs (c : Nat) (f : Ctx → Ctx) : (modCtx s c f).reqs = s.reqs := by unfold modCtx; split <;> rfl
@[simp] theorem modCtx_wakes (c : Nat) (f : Ctx → Ctx) : (modCtx s c f).wakes = s.wakes := by unfold modCtx; split <;> rfl
@[simp] theorem modCtx_sched (c : Nat) (f : Ctx → Ctx) : (modCtx s c f).sched = s.sched := by unfold modCtx; split <;> rfl
@[simp] theorem modCtx_tick (c : Nat) (f : Ctx → Ctx) : (modCtx s c f).tick = s.tick := by unfold modCtx; split <;> rfl
@[simp] theorem modCtx_bundle (c : Nat) (f : Ctx → Ctx) : (modCtx s c f).bundle = s.bundle := by unfold modCtx; split <;> rfl
@[simp] theorem modCtx_fresh (c : Nat) (f : Ctx → Ctx) : (modCtx s c f).fresh = s.fresh := by unfold modCtx; split <;> rfl

/-! ### Workgroups and threads -/

theorem getWg_setWg (w v : Nat) (g : Wg) :
    getWg (setWg s w g) v = if v = w ∧ w < s.wgs.length then g else getWg s v := by
  simp only [getWg, setWg, List.getD_eq_getElem?_getD, List.getElem?_set]
  by_cases h : w = v
  · subst h
    by_cases hw : w < s.wgs.length
    · simp [hw]
    · simp [hw]
  · simp [h, Ne.symm h]

@[simp] theorem getWg_setWg_ne {w v : Nat} (g : Wg) (h : v ≠ w) : getWg (setWg s w g) v = getWg s v := by
  rw [getWg_setWg, if_neg (by simp [h])]

theorem getWg_of_le {w : Nat} (h : s.wgs.length ≤ w) : getWg s w = Wg.none := by
  simp [getWg, List.getD_eq_getElem?_getD, h]

theorem getTh_of_le {g : Wg} {t : Nat} (h : g.threads.length ≤ t) : getTh g t = Thread.none := by
  simp [getTh, List.getD_eq_getElem?_getD, h]

@[simp] theorem Wg.none_threads : Wg.none.threads = [] := rfl

/-- Replacing a workgroup twice. -/
@[simp] theorem setWg_setWg (w : Nat) (g k : Wg) : setWg (setWg s w g) w k = setWg s w k := by simp [setWg]

/-- Replacing a workgroup that does not exist changes nothing. -/
theorem setWg_of_le {w : Nat} (g : Wg) (h : s.wgs.length ≤ w) : setWg s w g = s := by
  simp [setWg, List.set_eq_of_length_le h]

/-- Replacing a workgroup by itself changes nothing. -/
@[simp] theorem setWg_self (w : Nat) : setWg s w (getWg s w) = s := by
  by_cases h : w < s.wgs.length
  · have : s.wgs.set w (getWg s w) = s.wgs := by simp [getWg, List.getD_eq_getElem?_getD, h]
    simp [setWg, this]
  · exact setWg_of_le s _ (by omega)

theorem getTh_modTh (g : Wg) (t u : Nat) (f : Thread → Thread) :
    getTh (g.modTh t f) u = if u = t ∧ t < g.threads.length then f (getTh g t) else getTh g u := by
  simp only [getTh, Wg.modTh, List.getD_eq_getElem?_getD, List.getElem?_set]
  by_cases h : t = u
  · subst h
    by_cases ht : t < g.threads.length
    · simp [ht]
    · simp [ht]
  · simp [h, Ne.symm h]

end Sys2Proof.Machine
end

