-- ==== Sys2Proof/Laws/Lanes.lean ====
section
/-!
SUPPORT. Lanes.lean: what the frames in which instructions act (per lane, once per group, long-latency) do to the state, said once.
-/
namespace Sys2Proof.Machine
open Sys2Proof.Claims

/-! ### Changing one workgroup -/

@[simp] theorem getWg_modWg_self (s : State) (w : Nat) (f : Wg → Wg) (h : w < s.wgs.length) :
    getWg (modWg s w f) w = f (getWg s w) := by rw [modWg, getWg_setWg, if_pos ⟨rfl, h⟩]

theorem modWg_of_le {s : State} {w : Nat} (f : Wg → Wg) (h : s.wgs.length ≤ w) : modWg s w f = s := setWg_of_le s _ h

/-- Two changes of a workgroup are one. -/
theorem modWg_modWg (s : State) (w : Nat) (f k : Wg → Wg) : modWg (modWg s w f) w k = modWg s w (fun g => k (f g)) := by
  by_cases h : w < s.wgs.length
  · rw [modWg, getWg_modWg_self s w f h, modWg, setWg_setWg]; rfl
  · rw [modWg_of_le f (by omega), modWg_of_le k (by omega), modWg_of_le _ (by omega)]

theorem modTh_eq (s : State) (w t : Nat) (f : Thread → Thread) : modTh s w t f = modWg s w (fun g => g.modTh t f) := rfl

theorem modTh_modTh (s : State) (w t : Nat) (f k : Thread → Thread) :
    modTh (modTh s w t f) w t k = modTh s w t (fun th => k (f th)) := by
  rw [modTh_eq, modTh_eq, modWg_modWg, modTh_eq]
  congr 1; funext g
  simp only [Wg.modTh, List.set_set]
  by_cases h : t < g.threads.length
  · congr 2
    simp [getTh, List.getD_eq_getElem?_getD, h]
  · simp [List.set_eq_of_length_le (Nat.le_of_not_lt h)]

/-- A workgroup with each thread changed by its number. -/
def Wg.mapTh (g : Wg) (f : Nat → Thread → Thread) : Wg := { g with threads := g.threads.mapIdx f }

@[simp] theorem Wg.mapTh_core (g : Wg) (f : Nat → Thread → Thread) : (g.mapTh f).core = g.core := rfl
@[simp] theorem Wg.mapTh_kernel (g : Wg) (f : Nat → Thread → Thread) : (g.mapTh f).kernel = g.kernel := rfl
@[simp] theorem Wg.mapTh_hdr (g : Wg) (f : Nat → Thread → Thread) : (g.mapTh f).hdr = g.hdr := rfl
@[simp] theorem Wg.mapTh_groups (g : Wg) (f : Nat → Thread → Thread) : (g.mapTh f).groups = g.groups := rfl
@[simp] theorem Wg.mapTh_ctx (g : Wg) (f : Nat → Thread → Thread) : (g.mapTh f).ctx = g.ctx := rfl
@[simp] theorem Wg.mapTh_data (g : Wg) (f : Nat → Thread → Thread) : (g.mapTh f).data = g.data := rfl
@[simp] theorem Wg.mapTh_length (g : Wg) (f : Nat → Thread → Thread) : (g.mapTh f).threads.length = g.threads.length := by
  simp [Wg.mapTh]

theorem Wg.mapTh_mapTh (g : Wg) (f k : Nat → Thread → Thread) : (g.mapTh f).mapTh k = g.mapTh (fun u th => k u (f u th)) := by
  simp [Wg.mapTh, List.mapIdx_mapIdx, Function.comp_def]

@[simp] theorem Wg.mapTh_id (g : Wg) : g.mapTh (fun _ th => th) = g := by
  have : g.threads.mapIdx (fun _ th => th) = g.threads := List.ext_getElem? (fun i => by simp)
  simp only [Wg.mapTh, this]

theorem getTh_mapTh (g : Wg) (f : Nat → Thread → Thread) {u : Nat} (h : u < g.threads.length) :
    getTh (g.mapTh f) u = f u (getTh g u) := by
  simp [getTh, Wg.mapTh, List.getD_eq_getElem?_getD, h]

theorem getTh_mapTh_id (g : Wg) (f : Nat → Thread → Thread) {u : Nat} (h : ∀ th, f u th = th) : getTh (g.mapTh f) u = getTh g u := by
  by_cases hu : u < g.threads.length
  · rw [getTh_mapTh g f hu, h]
  · rw [getTh_of_le (by simp; omega), getTh_of_le (by omega)]

theorem Wg.modTh_eq_mapTh (g : Wg) (t : Nat) (f : Thread → Thread) :
    g.modTh t f = g.mapTh (fun u th => if u = t then f th else th) := by
  simp only [Wg.modTh, Wg.mapTh]
  congr 1
  apply List.ext_getElem?
  intro i
  rw [List.getElem?_set, List.getElem?_mapIdx]
  by_cases hi : t = i
  · subst hi
    by_cases ht : t < g.threads.length
    · simp [ht, getTh, List.getD_eq_getElem?_getD]
    · simp [ht]
  · rw [if_neg hi]
    cases g.threads[i]? <;> simp [Ne.symm hi]

/-- A state that differs only in the threads of workgroup w. -/
def SameBut (s : State) (w : Nat) (s' : State) : Prop := ∃ F, s' = modWg s w (fun g => g.mapTh F)

theorem SameBut.refl (s : State) (w : Nat) : SameBut s w s := by
  refine ⟨fun _ th => th, ?_⟩
  simp [modWg]

theorem SameBut.modTh {s s' : State} {w : Nat} (h : SameBut s w s') (t : Nat) (f : Thread → Thread) :
    SameBut s w (modTh s' w t f) := by
  obtain ⟨F, rfl⟩ := h
  refine ⟨fun u th => if u = t then f (F u th) else F u th, ?_⟩
  rw [modTh_eq, modWg_modWg]
  congr 1; funext g
  rw [Wg.modTh_eq_mapTh, Wg.mapTh_mapTh]

theorem SameBut.bundle {s s' : State} {w : Nat} (h : SameBut s w s') : s'.bundle = s.bundle := by
  obtain ⟨F, rfl⟩ := h; rfl

theorem SameBut.textOf {s s' : State} {w : Nat} (h : SameBut s w s') (c k : Nat) : textOf s' c k = textOf s c k := by
  obtain ⟨F, rfl⟩ := h; rfl

theorem SameBut.getWg {s s' : State} {w : Nat} (h : SameBut s w s') : ∃ F, getWg s' w = (getWg s w).mapTh F := by
  obtain ⟨F, rfl⟩ := h
  by_cases hw : w < s.wgs.length
  · exact ⟨F, getWg_modWg_self s w _ hw⟩
  · refine ⟨F, ?_⟩
    rw [modWg_of_le _ (by omega), getWg_of_le s (by omega)]; rfl

theorem SameBut.seqLen {s s' : State} {w : Nat} (h : SameBut s w s') (m : Nat) :
    seqLen s' (Machine.getWg s' w) m = seqLen s (Machine.getWg s w) m := by
  obtain ⟨F, hF⟩ := h.getWg
  simp only [Machine.seqLen, hF, Wg.mapTh_core, Wg.mapTh_kernel, h.textOf]

/-- A pass over threads, each step of which changes its own thread, changes each of them. -/
theorem foldl_lanes {step : State → Nat → State} {w : Nat} {s : State} {F : Nat → Thread → Thread} (ls : List Nat) (hn : ls.Nodup)
    (hstep : ∀ s' u, u ∈ ls → SameBut s w s' → thOf s' w u = thOf s w u → step s' u = modTh s' w u (F u)) :
    ls.foldl step s = modWg s w (fun g => g.mapTh (fun u th => if u ∈ ls then F u th else th)) := by
  suffices H : ∀ s0, SameBut s w s0 → (∀ u ∈ ls, thOf s0 w u = thOf s w u) →
      ls.foldl step s0 = modWg s0 w (fun g => g.mapTh (fun u th => if u ∈ ls then F u th else th)) from
    H s (SameBut.refl s w) (fun _ _ => rfl)
  induction ls with
  | nil => intro s0 _ _; simp [modWg]
  | cons u ls ih =>
    intro s0 h0 hth
    have hu : u ∉ ls := (List.nodup_cons.1 hn).1
    simp only [List.foldl_cons]
    rw [hstep s0 u List.mem_cons_self h0 (hth u List.mem_cons_self)]
    rw [ih (List.nodup_cons.1 hn).2 (fun s' v hv => hstep s' v (List.mem_cons_of_mem _ hv)) _ (h0.modTh u _)]
    · rw [modTh_eq, modWg_modWg]
      congr 1; funext g
      rw [Wg.modTh_eq_mapTh, Wg.mapTh_mapTh]
      congr 1; funext v th
      by_cases hv : v = u
      · subst hv; simp [hu]
      · simp [hv]
    · intro v hv
      have hvu : v ≠ u := fun h => hu (h ▸ hv)
      rw [← hth v (List.mem_cons_of_mem _ hv)]
      by_cases hw : w < s0.wgs.length
      · rw [thOf, modTh_eq, getWg_modWg_self _ _ _ hw, getTh_modTh, if_neg (by simp [hvu])]; rfl
      · rw [modTh_eq, modWg_of_le _ (by omega)]

/-! ### Leaving an instruction -/

theorem finish_adv (s : State) (w t : Nat) (closes : Bool) :
    finish s w t closes .adv = modTh s w t (fun th =>
      let th := { th.tick.advance (seqLen s (getWg s w) th.seqM) with wait := .none, relAt := none }
      if closes then { th with irs := th.pos, moves := th.moves + 1 } else th) := rfl

theorem finish_adv_same {s s' : State} {t : Nat} {closes : Bool} (h : SameBut s s.bundle.wg s') :
    finish s' s.bundle.wg t closes .adv = modTh s' s.bundle.wg t (leave closes s) := by
  rw [finish_adv]
  congr 1; funext th
  simp only [h.seqLen]; rfl

theorem onCur_eq (s : State) (f : Wg → Wg) : onCur s f = modWg s s.bundle.wg f := rfl

theorem mapLanes_eq (s : State) (f : Nat → Thread → Thread) : mapLanes s f = modWg s s.bundle.wg (fun g => g.mapTh f) := rfl

/-- All lanes of a bundle leave. -/
theorem foldl_adv {s : State} (hr : Rising s.bundle.lanes) (closes : Bool) :
    s.bundle.lanes.foldl (fun s' t => finish s' s.bundle.wg t closes .adv) s = leaveAll closes s :=
  foldl_lanes (F := fun _ => leave closes s) _ (hr.imp (fun h => Nat.ne_of_lt h)) (fun _ _ _ h _ => finish_adv_same h)

/-- An instruction that acts lane by lane, each action changing its own thread and nothing else. -/
theorem perLane_eq {h : Hdr} {helpers closes : Bool} {act : LaneAct} {s : State} (F : Nat → Thread → Thread)
    (hr : Rising s.bundle.lanes)
    (hact : ∀ s' u, u ∈ acting h helpers s → SameBut s s.bundle.wg s' → thOf s' s.bundle.wg u = lane s u →
      finish (act s' s.bundle.wg u).1 s.bundle.wg u closes (act s' s.bundle.wg u).2 = modTh s' s.bundle.wg u (F u)) :
    perLane h helpers closes act s = lanesEnd h helpers closes s F := by
  have := foldl_lanes (s := s) (w := s.bundle.wg)
    (step := fun s' t => if activeIn h helpers (thOf s' s.bundle.wg t) then
      finish (act s' s.bundle.wg t).1 s.bundle.wg t closes (act s' s.bundle.wg t).2 else finish s' s.bundle.wg t closes .adv)
    (F := fun u => if u ∈ acting h helpers s then F u else leave closes s) s.bundle.lanes (hr.imp (fun h => Nat.ne_of_lt h))
    (by
      intro s' u hu hs hth
      have e : (u ∈ acting h helpers s) = (activeIn h helpers (thOf s' s.bundle.wg u) = true) := by
        rw [hth]; simp [acting, hu, lane, thOf]
      by_cases ha : activeIn h helpers (thOf s' s.bundle.wg u) = true
      · simp only [e, if_pos ha]; exact hact s' u (by rw [e]; exact ha) hs hth
      · simp only [e, if_neg ha]; exact finish_adv_same hs)
  unfold perLane
  refine Eq.trans this ?_
  rw [lanesEnd, mapLanes_eq]
  congr 1; funext g; congr 1; funext u th
  by_cases hu : u ∈ s.bundle.lanes
  · simp only [if_pos hu]; by_cases ha : u ∈ acting h helpers s <;> simp [ha]
  · have : u ∉ acting h helpers s := fun h => hu (List.mem_filter.1 h).1
    simp [hu, this]

/-- An instruction whose lanes change their own thread and leave: the active lanes are changed, and all leave. -/
theorem perLane_adv {h : Hdr} {helpers closes : Bool} {act : LaneAct} {s : State} (F : Nat → Thread → Thread)
    (hr : Rising s.bundle.lanes)
    (hact : ∀ s' u, u ∈ acting h helpers s → SameBut s s.bundle.wg s' → thOf s' s.bundle.wg u = lane s u →
      act s' s.bundle.wg u = (modTh s' s.bundle.wg u (F u), .adv)) :
    perLane h helpers closes act s = leaveAll closes (onActing h helpers s F) := by
  rw [perLane_eq (F := fun u th => leave closes s (F u th)) hr]
  · have hb : SameBut s s.bundle.wg (onActing h helpers s F) := ⟨_, rfl⟩
    have hl : ∀ th, leave closes (onActing h helpers s F) th = leave closes s th := by
      intro th
      have := hb.seqLen th.seqM
      simp only [leave, cur, hb.bundle, this]
    rw [leaveAll, mapLanes_eq, hb.bundle, onActing, mapLanes_eq, modWg_modWg, lanesEnd, mapLanes_eq]
    congr 1; funext g
    rw [Wg.mapTh_mapTh]
    congr 1; funext u th
    have hl' := hl
    rw [onActing, mapLanes_eq] at hl'
    by_cases ha : u ∈ acting h helpers s
    · have hu := (List.mem_filter.1 ha).1
      simp only [ha, hu, if_true, hl']
    · by_cases hu : u ∈ s.bundle.lanes <;> simp only [ha, hu, if_true, if_false, hl']
  · intro s' u hu hs hth
    rw [hact s' u hu hs hth, finish_adv, modTh_modTh]
    have := (hs.modTh u (F u)).seqLen
    congr 1; funext th
    simp only [this]; rfl

/-! ### Groups -/

theorem mem_insNat {l : List Nat} {n m : Nat} : m ∈ insNat l n ↔ m = n ∨ m ∈ l := by
  induction l with
  | nil => simp [insNat]
  | cons a l ih =>
    simp only [insNat]
    split
    · simp
    · split
      · next h => subst h; simp
      · simp only [List.mem_cons, ih]; constructor <;> (intro h; rcases h with h | h | h <;> simp [h])

theorem insNat_rising {l : List Nat} (n : Nat) (h : Rising l) : Rising (insNat l n) := by
  induction l with
  | nil => simp [insNat]
  | cons a l ih =>
    rw [Rising, List.pairwise_cons] at h
    simp only [insNat]
    split
    · next hn =>
      rw [Rising, List.pairwise_cons]
      refine ⟨?_, List.pairwise_cons.2 h⟩
      intro x hx
      rcases List.mem_cons.1 hx with rfl | hx
      · exact hn
      · exact Nat.lt_trans hn (h.1 x hx)
    · split
      · exact List.pairwise_cons.2 h
      · rw [Rising, List.pairwise_cons]
        refine ⟨?_, ih h.2⟩
        intro x hx
        rcases mem_insNat.1 hx with rfl | hx
        · omega
        · exact h.1 x hx

theorem groupsOf_aux (ts : List Nat) (l : List Nat) (h : Rising l) :
    Rising (ts.foldl (fun gs t => insNat gs (grpOf t)) l) ∧
    ∀ k, k ∈ ts.foldl (fun gs t => insNat gs (grpOf t)) l ↔ k ∈ l ∨ ∃ t ∈ ts, grpOf t = k := by
  induction ts generalizing l with
  | nil => simp [h]
  | cons t ts ih =>
    obtain ⟨h1, h2⟩ := ih (insNat l (grpOf t)) (insNat_rising _ h)
    refine ⟨h1, fun k => ?_⟩
    simp only [List.foldl_cons, h2, mem_insNat, List.mem_cons]
    constructor
    · rintro ((hk | hk) | ⟨x, hx, hk⟩)
      · exact .inr ⟨t, .inl rfl, hk.symm⟩
      · exact .inl hk
      · exact .inr ⟨x, .inr hx, hk⟩
    · rintro (hk | ⟨x, rfl | hx, hk⟩)
      · exact .inl (.inr hk)
      · exact .inl (.inl hk.symm)
      · exact .inr ⟨x, hx, hk⟩

/-- The groups of some threads stand in rising order. -/
theorem groupsOf_rising (ts : List Nat) : Rising (groupsOf ts) := (groupsOf_aux ts [] List.Pairwise.nil).1

/-- A group is listed when it has one of the threads. -/
theorem mem_groupsOf {ts : List Nat} {k : Nat} : k ∈ groupsOf ts ↔ ∃ t ∈ ts, grpOf t = k := by
  rw [groupsOf, (groupsOf_aux ts [] List.Pairwise.nil).2]; simp

/-- A workgroup with each thread and each group's registers changed, by number. -/
def Wg.mapBoth (g : Wg) (f : Nat → Thread → Thread) (k : Nat → Group → Group) : Wg :=
  { g with threads := g.threads.mapIdx f, groups := g.groups.mapIdx k }

@[simp] theorem Wg.mapBoth_core (g : Wg) (f k) : (g.mapBoth f k).core = g.core := rfl
@[simp] theorem Wg.mapBoth_kernel (g : Wg) (f k) : (g.mapBoth f k).kernel = g.kernel := rfl
@[simp] theorem Wg.mapBoth_hdr (g : Wg) (f k) : (g.mapBoth f k).hdr = g.hdr := rfl

theorem Wg.mapTh_eq_mapBoth (g : Wg) (f) : g.mapTh f = g.mapBoth f (fun _ x => x) := by
  have : g.groups.mapIdx (fun _ x => x) = g.groups := List.ext_getElem? (fun i => by simp)
  simp only [Wg.mapTh, Wg.mapBoth, this]

theorem Wg.mapBoth_mapBoth (g : Wg) (f f' k k') :
    (g.mapBoth f k).mapBoth f' k' = g.mapBoth (fun u th => f' u (f u th)) (fun j x => k' j (k j x)) := by
  simp [Wg.mapBoth, List.mapIdx_mapIdx, Function.comp_def]

@[simp] theorem Wg.mapBoth_id (g : Wg) : g.mapBoth (fun _ th => th) (fun _ x => x) = g := by
  rw [← Wg.mapTh_eq_mapBoth, Wg.mapTh_id]

theorem getTh_mapBoth (g : Wg) (f k) {u : Nat} (h : u < g.threads.length) : getTh (g.mapBoth f k) u = f u (getTh g u) := by
  simp [getTh, Wg.mapBoth, List.getD_eq_getElem?_getD, h]

theorem getTh_mapBoth_id (g : Wg) (f k) {u : Nat} (h : ∀ th, f u th = th) : getTh (g.mapBoth f k) u = getTh g u := by
  by_cases hu : u < g.threads.length
  · rw [getTh_mapBoth g f k hu, h]
  · rw [getTh_of_le (by simp [Wg.mapBoth]; omega), getTh_of_le (by omega)]

theorem getGroup_mapBoth_id (g : Wg) (f k) {j : Nat} (h : ∀ x, k j x = x) : getGroup (g.mapBoth f k) j = getGroup g j := by
  simp only [getGroup, Wg.mapBoth, List.getD_eq_getElem?_getD, List.getElem?_mapIdx]
  cases g.groups[j]? <;> simp [h]

/-- A state that differs only in the threads and the group registers of workgroup w. -/
def SameRegs (s : State) (w : Nat) (s' : State) : Prop := ∃ F G, s' = modWg s w (fun g => g.mapBoth F G)

theorem SameRegs.refl (s : State) (w : Nat) : SameRegs s w s := ⟨fun _ th => th, fun _ x => x, by simp [modWg]⟩

theorem SameRegs.mapBoth {s s' : State} {w : Nat} (h : SameRegs s w s') (f k) :
    SameRegs s w (modWg s' w (fun g => g.mapBoth f k)) := by
  obtain ⟨F, G, rfl⟩ := h
  exact ⟨fun u th => f u (F u th), fun j x => k j (G j x), by
    rw [modWg_modWg]; congr 1; funext g; rw [Wg.mapBoth_mapBoth]⟩

theorem SameRegs.bundle {s s' : State} {w : Nat} (h : SameRegs s w s') : s'.bundle = s.bundle := by
  obtain ⟨F, G, rfl⟩ := h; rfl

theorem SameRegs.textOf {s s' : State} {w : Nat} (h : SameRegs s w s') (c k : Nat) : textOf s' c k = textOf s c k := by
  obtain ⟨F, G, rfl⟩ := h; rfl

theorem SameRegs.getWg {s s' : State} {w : Nat} (h : SameRegs s w s') : ∃ F G, getWg s' w = (getWg s w).mapBoth F G := by
  obtain ⟨F, G, rfl⟩ := h
  by_cases hw : w < s.wgs.length
  · exact ⟨F, G, getWg_modWg_self s w _ hw⟩
  · refine ⟨F, G, ?_⟩
    rw [modWg_of_le _ (by omega), getWg_of_le s (by omega)]; rfl

theorem SameRegs.seqLen {s s' : State} {w : Nat} (h : SameRegs s w s') (m : Nat) :
    seqLen s' (Machine.getWg s' w) m = seqLen s (Machine.getWg s w) m := by
  obtain ⟨F, G, hF⟩ := h.getWg
  simp only [Machine.seqLen, hF, Wg.mapBoth_core, Wg.mapBoth_kernel, h.textOf]

/-- Where group k stands as it did in `s`: its registers and its threads. -/
def SameGroup (s : State) (w : Nat) (s' : State) (k : Nat) : Prop :=
  getGroup (Machine.getWg s' w) k = getGroup (Machine.getWg s w) k ∧ ∀ u, grpOf u = k → thOf s' w u = thOf s w u

/-- A pass over groups, each step of which changes its own group, changes each of them. -/
theorem foldl_groups {step : State → Nat → State} {w : Nat} {s : State} {F : Nat → Thread → Thread} {G : Nat → Group → Group}
    (ks : List Nat) (hn : ks.Nodup)
    (hstep : ∀ s' k, k ∈ ks → SameRegs s w s' → SameGroup s w s' k → step s' k = modWg s' w (fun g => g.mapBoth
      (fun u th => if grpOf u = k then F u th else th) (fun j x => if j = k then G j x else x))) :
    ks.foldl step s = modWg s w (fun g => g.mapBoth (fun u th => if grpOf u ∈ ks then F u th else th)
      (fun j x => if j ∈ ks then G j x else x)) := by
  suffices H : ∀ s0, SameRegs s w s0 → (∀ k ∈ ks, SameGroup s w s0 k) →
      ks.foldl step s0 = modWg s0 w (fun g => g.mapBoth (fun u th => if grpOf u ∈ ks then F u th else th)
        (fun j x => if j ∈ ks then G j x else x)) from
    H s (SameRegs.refl s w) (fun _ _ => ⟨rfl, fun _ _ => rfl⟩)
  induction ks with
  | nil => intro s0 _ _; simp [modWg]
  | cons k ks ih =>
    intro s0 h0 hg
    have hk : k ∉ ks := (List.nodup_cons.1 hn).1
    simp only [List.foldl_cons]
    rw [hstep s0 k List.mem_cons_self h0 (hg k List.mem_cons_self)]
    rw [ih (List.nodup_cons.1 hn).2 (fun s' v hv => hstep s' v (List.mem_cons_of_mem _ hv)) _ (h0.mapBoth _ _)]
    · rw [modWg_modWg]
      congr 1; funext g
      rw [Wg.mapBoth_mapBoth]
      congr 1
      · funext u th
        by_cases hu : grpOf u = k
        · simp [hu, hk]
        · simp [hu]
      · funext j x
        by_cases hj : j = k
        · subst hj; simp [hk]
        · simp [hj]
    · intro j hj
      have hjk : j ≠ k := fun h => hk (h ▸ hj)
      have hold := hg j (List.mem_cons_of_mem _ hj)
      by_cases hw : w < s0.wgs.length
      · refine ⟨?_, fun u hu => ?_⟩
        · rw [getWg_modWg_self _ _ _ hw, getGroup_mapBoth_id _ _ _ (by simp [hjk])]; exact hold.1
        · rw [thOf, getWg_modWg_self _ _ _ hw, getTh_mapBoth_id _ _ _ (by simp [hu, hjk])]; exact hold.2 u hu
      · rw [modWg_of_le _ (by omega)]; exact hold

/-- The lanes of a group of the bundle leave together. -/
theorem foldl_adv_group {s s' : State} {closes : Bool} (ls : List Nat) (hn : ls.Nodup) (h : SameRegs s s.bundle.wg s') :
    ls.foldl (fun s' t => finish s' s.bundle.wg t closes .adv) s' =
      modWg s' s.bundle.wg (fun g => g.mapTh (fun u th => if u ∈ ls then leave closes s th else th)) := by
  refine foldl_lanes (F := fun _ => leave closes s) ls hn (fun s2 u _ h2 _ => ?_)
  have : SameRegs s s.bundle.wg s2 := by
    obtain ⟨F, rfl⟩ := h2
    have := h.mapBoth F (fun _ x => x)
    simpa only [Wg.mapTh_eq_mapBoth] using this
  rw [finish_adv]
  congr 1; funext th
  simp only [this.seqLen]; rfl

/-- An instruction that acts once for each group and whose lanes all leave: `F` and `G` say what the action makes of the threads and the
registers of a group with an active lane. -/
theorem perGroup_adv {h : Hdr} {helpers closes : Bool} {act : State → Nat → List Nat → State × End} {s : State}
    (F : Nat → Thread → Thread) (G : Nat → Group → Group) (hr : Rising s.bundle.lanes)
    (hact : ∀ s' k, actingIn h helpers s k ≠ [] → SameRegs s s.bundle.wg s' → SameGroup s s.bundle.wg s' k →
      act s' s.bundle.wg (actingIn h helpers s k) = (modWg s' s.bundle.wg (fun g => g.mapBoth
        (fun u th => if grpOf u = k then F u th else th) (fun j x => if j = k then G j x else x)), .adv)) :
    perGroup h helpers closes act s = modWg s s.bundle.wg (fun g => g.mapBoth
      (fun u th => if u ∈ s.bundle.lanes then
          leave closes s (if actingIn h helpers s (grpOf u) ≠ [] then F u th else th)
        else if actingIn h helpers s (grpOf u) ≠ [] then F u th else th)
      (fun j x => if actingIn h helpers s j ≠ [] then G j x else x)) := by
  have hn : s.bundle.lanes.Nodup := hr.imp (fun h => Nat.ne_of_lt h)
  have key := foldl_groups (s := s) (w := s.bundle.wg)
    (step := fun s' k =>
      let ls := s'.bundle.lanes.filter (fun t => grpOf t == k)
      let al := ls.filter (fun t => activeIn h helpers (thOf s' s.bundle.wg t))
      if al.isEmpty then ls.foldl (fun s' t => finish s' s.bundle.wg t closes .adv) s'
      else
        let r := act s' s.bundle.wg al
        ls.foldl (fun s' t => finish s' s.bundle.wg t closes r.2) r.1)
    (F := fun u th => if u ∈ s.bundle.lanes then
          leave closes s (if actingIn h helpers s (grpOf u) ≠ [] then F u th else th)
        else if actingIn h helpers s (grpOf u) ≠ [] then F u th else th)
    (G := fun j x => if actingIn h helpers s j ≠ [] then G j x else x)
    (groupsOf s.bundle.lanes) ((groupsOf_rising _).imp (fun h => Nat.ne_of_lt h)) (by
      intro s' k hk hs hg
      have hal : (s.bundle.lanes.filter (fun t => grpOf t == k)).filter (fun t => activeIn h helpers (thOf s' s.bundle.wg t))
          = actingIn h helpers s k := by
        rw [actingIn, acting, List.filter_filter, List.filter_filter]
        refine List.filter_congr (fun t _ => ?_)
        by_cases ht : grpOf t = k
        · simp only [ht, beq_self_eq_true, Bool.and_true, Bool.true_and]
          rw [hg.2 t ht]; rfl
        · have : (grpOf t == k) = false := by simpa using ht
          simp [this]
      simp only [hs.bundle, hal]
      have hln : (s.bundle.lanes.filter (fun t => grpOf t == k)).Nodup := hn.sublist List.filter_sublist
      by_cases he : actingIn h helpers s k = []
      · rw [if_pos (by simp [he]), foldl_adv_group _ hln hs]
        congr 1; funext g
        rw [Wg.mapTh_eq_mapBoth]
        congr 1
        · funext u th
          by_cases hu : grpOf u = k
          · by_cases hb : u ∈ s.bundle.lanes <;> simp [hu, hb, he]
          · simp [hu]
        · funext j x
          by_cases hj : j = k <;> simp [hj, he]
      · rw [if_neg (by simp [he]), hact s' k he hs hg, foldl_adv_group _ hln (hs.mapBoth _ _), modWg_modWg]
        congr 1; funext g
        rw [Wg.mapTh_eq_mapBoth, Wg.mapBoth_mapBoth]
        congr 1
        · funext u th
          by_cases hu : grpOf u = k
          · by_cases hb : u ∈ s.bundle.lanes <;> simp [hu, hb, he]
          · simp [hu]
        · funext j x
          by_cases hj : j = k <;> simp [hj, he])
  unfold perGroup
  refine Eq.trans key ?_
  have hmem : ∀ {u}, u ∈ s.bundle.lanes → grpOf u ∈ groupsOf s.bundle.lanes := fun hu => mem_groupsOf.2 ⟨_, hu, rfl⟩
  have hne : ∀ {k}, actingIn h helpers s k ≠ [] → k ∈ groupsOf s.bundle.lanes := by
    intro k hk
    obtain ⟨u, hu⟩ := List.exists_mem_of_ne_nil _ hk
    simp only [actingIn, acting, List.mem_filter, beq_iff_eq] at hu
    exact mem_groupsOf.2 ⟨u, hu.1.1, hu.2⟩
  congr 1; funext g
  congr 1
  · funext u th
    by_cases hu : u ∈ s.bundle.lanes
    · simp [hu, hmem hu]
    · by_cases ha : actingIn h helpers s (grpOf u) = []
      · simp [hu, ha]
      · simp [hu, ha, hne ha]
  · funext j x
    by_cases ha : actingIn h helpers s j = []
    · simp [ha]
    · simp [ha, hne ha]

end Sys2Proof.Machine
end

