-- ==== Sys2Proof/Laws/Groups.lean ====
section
/-!
SUPPORT. Groups.lean: the frames in which instructions act once for a group, where the bundle lies in one group (04 R67).
-/
namespace Sys2Proof.Machine
open Sys2Proof.Claims

/-- The groups of threads of one group are that group. -/
theorem groupsOf_one {ls : List Nat} {k : Nat} (h : ∀ u ∈ ls, grpOf u = k) (hne : ls ≠ []) : groupsOf ls = [k] := by
  have hr := groupsOf_rising ls
  have hm : ∀ j, j ∈ groupsOf ls ↔ j = k := by
    intro j
    rw [mem_groupsOf]
    constructor
    · rintro ⟨t, ht, rfl⟩; exact h t ht
    · rintro rfl
      obtain ⟨t, ht⟩ := List.exists_mem_of_ne_nil _ hne
      exact ⟨t, ht, h t ht⟩
  cases hg : groupsOf ls with
  | nil => have := (hm k).2 rfl; simp [hg] at this
  | cons a l =>
    rw [hg] at hr hm
    have ha := (hm a).1 (by simp)
    have hl : l = [] := by
      cases l with
      | nil => rfl
      | cons b l =>
        have hb := (hm b).1 (by simp)
        have := (List.pairwise_cons.1 hr).1 b (by simp)
        omega
    rw [ha, hl]

/-- An instruction that acts once for a group, in a bundle of one group: what it does there, and the same end for each of its lanes. -/
theorem perGroup_one {h : Hdr} {helpers closes : Bool} {act : State → Nat → List Nat → State × End} {s : State} {k : Nat}
    (hk : OneGroup h helpers s k) :
    perGroup h helpers closes act s =
      let r := act s s.bundle.wg (acting h helpers s)
      s.bundle.lanes.foldl (fun s' t => finish s' s.bundle.wg t closes r.2) r.1 := by
  obtain ⟨h1, h2⟩ := hk
  have hne : s.bundle.lanes ≠ [] := fun e => h2 (by simp [acting, e])
  have hf : s.bundle.lanes.filter (fun t => grpOf t == k) = s.bundle.lanes :=
    List.filter_eq_self.2 (fun t ht => by simp [h1 t ht])
  have ha : s.bundle.lanes.filter (fun t => activeIn h helpers (thOf s s.bundle.wg t)) = acting h helpers s := rfl
  unfold perGroup
  simp only [groupsOf_one h1 hne, List.foldl_cons, List.foldl_nil, hf, ha]
  rw [if_neg (by simpa using h2)]

/-- The same where no lane is active: every lane leaves. -/
theorem perGroup_none {h : Hdr} {helpers closes : Bool} {act : State → Nat → List Nat → State × End} {s : State} {k : Nat}
    (hr : Rising s.bundle.lanes) (h1 : ∀ u ∈ s.bundle.lanes, grpOf u = k) (h2 : acting h helpers s = []) :
    perGroup h helpers closes act s = leaveAll closes s := by
  by_cases hne : s.bundle.lanes = []
  · have : groupsOf s.bundle.lanes = [] := by rw [hne]; rfl
    rw [← foldl_adv hr closes]
    unfold perGroup
    rw [this, hne]; rfl
  · have hf : s.bundle.lanes.filter (fun t => grpOf t == k) = s.bundle.lanes :=
      List.filter_eq_self.2 (fun t ht => by simp [h1 t ht])
    have ha : s.bundle.lanes.filter (fun t => activeIn h helpers (thOf s s.bundle.wg t)) = [] := h2
    unfold perGroup
    simp only [groupsOf_one h1 hne, List.foldl_cons, List.foldl_nil, hf, ha, List.isEmpty_nil, if_true]
    exact foldl_adv hr closes

/-- Lanes that keep their instruction and wait. -/
theorem foldl_stay {s : State} (hr : Rising s.bundle.lanes) (closes : Bool) (wt : Wait) :
    s.bundle.lanes.foldl (fun s' t => finish s' s.bundle.wg t closes (.stay wt)) s =
      mapLanes s (fun u th => if u ∈ s.bundle.lanes then { th with wait := wt } else th) :=
  foldl_lanes (F := fun _ th => { th with wait := wt }) _ (hr.imp (fun h => Nat.ne_of_lt h)) (fun _ _ _ _ _ => rfl)

/-- Lanes whose end the instruction itself has written. -/
theorem foldl_gone {s : State} {w : Nat} {closes : Bool} (ls : List Nat) :
    ls.foldl (fun s' t => finish s' w t closes .gone) s = s := by
  induction ls generalizing s with
  | nil => rfl
  | cons t ls ih => simp only [List.foldl_cons]; exact ih

end Sys2Proof.Machine
end

