-- ==== Sys2Proof/Laws/SMap.lean ====
section
/-!
SUPPORT. SMap.lean: the laws of finite maps in their canonical form: reading after a write, and that every operation keeps the form.
-/
namespace Sys2Proof.Machine
namespace SMap
variable {α : Type} [DecidableEq α] {d : α}

theorem wfFrom_mono {m : List (Nat × α)} {a b : Nat} (h : wfFrom d b m = true) (hab : a ≤ b) : wfFrom d a m = true := by
  cases m with
  | nil => rfl
  | cons e m =>
    simp only [wfFrom, Bool.and_eq_true, decide_eq_true_eq] at h ⊢
    exact ⟨⟨by omega, h.1.2⟩, h.2⟩

/-- Below its first key a map reads as the default. -/
theorem get_of_wfFrom {m : List (Nat × α)} {lo i : Nat} (h : wfFrom d lo m = true) (hi : i < lo) : get d m i = d := by
  cases m with
  | nil => rfl
  | cons e m =>
    simp only [wfFrom, Bool.and_eq_true, decide_eq_true_eq] at h
    rw [get, if_neg (by omega), if_pos (by omega)]

theorem set_wfFrom {m : List (Nat × α)} {lo : Nat} (i : Nat) (x : α) (h : wfFrom d lo m = true) :
    wfFrom d (min lo i) (set d m i x) = true := by
  induction m generalizing lo with
  | nil => by_cases hx : x = d <;> simp [set, wfFrom, hx, Nat.min_le_right]
  | cons e m ih =>
    obtain ⟨k, v⟩ := e
    simp only [wfFrom, Bool.and_eq_true, decide_eq_true_eq] at h
    obtain ⟨⟨h1, h2⟩, h3⟩ := h
    simp only [set]
    split
    · split
      · simp only [wfFrom, Bool.and_eq_true, decide_eq_true_eq]
        exact ⟨⟨by omega, h2⟩, h3⟩
      · next hx =>
        simp only [wfFrom, Bool.and_eq_true, decide_eq_true_eq]
        exact ⟨⟨by omega, hx⟩, ⟨by omega, h2⟩, h3⟩
    · split
      · next hk =>
        subst hk
        split
        · exact wfFrom_mono h3 (by omega)
        · next hx =>
          simp only [wfFrom, Bool.and_eq_true, decide_eq_true_eq]
          exact ⟨⟨by omega, hx⟩, h3⟩
      · simp only [wfFrom, Bool.and_eq_true, decide_eq_true_eq]
        exact ⟨⟨by omega, h2⟩, wfFrom_mono (ih h3) (by omega)⟩

/-- A write keeps the canonical form. -/
theorem set_wf {m : List (Nat × α)} (i : Nat) (x : α) (h : wf d m = true) : wf d (set d m i x) = true :=
  wfFrom_mono (set_wfFrom i x h) (Nat.zero_le _)

theorem get_set_wfFrom {m : List (Nat × α)} {lo : Nat} (i j : Nat) (x : α) (h : wfFrom d lo m = true) :
    get d (set d m i x) j = if j = i then x else get d m j := by
  induction m generalizing lo with
  | nil =>
    by_cases hx : x = d
    · simp [set, get, hx]
    · simp [set, get, hx]
  | cons e m ih =>
    obtain ⟨k, v⟩ := e
    simp only [wfFrom, Bool.and_eq_true, decide_eq_true_eq] at h
    obtain ⟨⟨h1, h2⟩, h3⟩ := h
    have low : ∀ n, n ≤ k → get d m n = d := fun n hn => get_of_wfFrom h3 (by omega)
    have ih := ih h3
    simp only [set]
    by_cases hik : i < k
    · rw [if_pos hik]
      by_cases hx : x = d
      · rw [if_pos hx, hx]
        by_cases hj : j = i
        · rw [if_pos hj, hj, get, if_neg (by omega), if_pos hik]
        · rw [if_neg hj]
      · rw [if_neg hx, get]
        by_cases hj : j = i
        · rw [if_pos hj, if_pos hj]
        · rw [if_neg hj, if_neg hj]
          by_cases hji : j < i
          · rw [if_pos hji, get, if_neg (by omega), if_pos (by omega)]
          · rw [if_neg hji]
    · rw [if_neg hik]
      by_cases hk : i = k
      · subst hk
        rw [if_pos rfl]
        by_cases hx : x = d
        · rw [if_pos hx, hx, get]
          by_cases hj : j = i
          · rw [if_pos hj, low j (by omega)]
          · rw [if_neg hj, if_neg hj]
            by_cases hji : j < i
            · rw [if_pos hji, low j (by omega)]
            · rw [if_neg hji]
        · rw [if_neg hx, get, get]
          by_cases hj : j = i
          · rw [if_pos hj, if_pos hj]
          · rw [if_neg hj, if_neg hj, if_neg hj]
      · rw [if_neg hk, get, get, ih]
        by_cases hj : j = i
        · rw [if_neg (by omega), if_neg (by omega), if_pos hj, if_pos hj]
        · rw [if_neg hj, if_neg hj]

/-- Reading after a write. -/
theorem get_set {m : List (Nat × α)} (i j : Nat) (x : α) (h : wf d m = true) :
    get d (set d m i x) j = if j = i then x else get d m j := get_set_wfFrom i j x h

theorem setMany_wf {m : List (Nat × α)} (i : Nat) (xs : List α) (h : wf d m = true) : wf d (setMany d m i xs) = true := by
  induction xs generalizing m i with
  | nil => exact h
  | cons x xs ih => exact ih (i + 1) (set_wf i x h)

/-- Reading after a write of consecutive values. -/
theorem get_setMany {m : List (Nat × α)} (i j : Nat) (xs : List α) (h : wf d m = true) :
    get d (setMany d m i xs) j = if i ≤ j ∧ j < i + xs.length then xs.getD (j - i) d else get d m j := by
  induction xs generalizing m i with
  | nil => simp [setMany, show ¬ (i ≤ j ∧ j < i) by omega]
  | cons x xs ih =>
    rw [setMany, ih (i + 1) (set_wf i x h), get_set i j x h]
    by_cases h1 : j = i
    · subst h1
      simp [show ¬ (j + 1 ≤ j) by omega]
    · by_cases h2 : i ≤ j ∧ j < i + (x :: xs).length
      · simp only [List.length_cons] at h2
        rw [if_pos (by omega), if_pos (by simp; omega)]
        obtain ⟨n, rfl⟩ : ∃ n, j = i + 1 + n := ⟨j - (i + 1), by omega⟩
        simp [show i + 1 + n - i = n + 1 by omega]
      · simp only [List.length_cons] at h2
        rw [if_neg (by omega), if_neg h1, if_neg (by simp; omega)]

theorem wfFrom_filter {m : List (Nat × α)} {lo : Nat} (f : Nat × α → Bool) (h : wfFrom d lo m = true) :
    wfFrom d lo (m.filter f) = true := by
  induction m generalizing lo with
  | nil => rfl
  | cons e m ih =>
    simp only [wfFrom, Bool.and_eq_true, decide_eq_true_eq] at h
    simp only [List.filter_cons]
    split
    · simp only [wfFrom, Bool.and_eq_true, decide_eq_true_eq]
      exact ⟨h.1, ih h.2⟩
    · exact wfFrom_mono (ih h.2) (by omega)

/-- Removing entries keeps the canonical form. -/
theorem wf_filter {m : List (Nat × α)} (f : Nat × α → Bool) (h : wf d m = true) : wf d (m.filter f) = true := wfFrom_filter f h

theorem get_filter_wfFrom {m : List (Nat × α)} {lo : Nat} (p : Nat → Bool) (i : Nat) (h : wfFrom d lo m = true) :
    get d (m.filter (fun e => p e.1)) i = if p i then get d m i else d := by
  induction m generalizing lo with
  | nil => simp [get]
  | cons e m ih =>
    obtain ⟨k, v⟩ := e
    simp only [wfFrom, Bool.and_eq_true, decide_eq_true_eq] at h
    have ih := ih h.2
    have low : ∀ n, n ≤ k → get d m n = d := fun n hn => get_of_wfFrom h.2 (by omega)
    simp only [List.filter_cons]
    by_cases hk : p k = true
    · rw [if_pos hk, get, get, ih]
      by_cases hi : i = k
      · subst hi; simp [hk]
      · rw [if_neg hi, if_neg hi]
        by_cases hl : i < k
        · rw [if_pos hl, if_pos hl]; simp
        · rw [if_neg hl, if_neg hl]
    · rw [if_neg hk, ih, get]
      by_cases hi : i = k
      · subst hi; simp [hk]
      · rw [if_neg hi]
        by_cases hl : i < k
        · rw [if_pos hl, low i (by omega)]
        · rw [if_neg hl]

/-- Reading after entries have been removed by key. -/
theorem get_filter {m : List (Nat × α)} (p : Nat → Bool) (i : Nat) (h : wf d m = true) :
    get d (m.filter (fun e => p e.1)) i = if p i then get d m i else d := get_filter_wfFrom p i h

theorem clearRange_wf {m : List (Nat × α)} (i n : Nat) (h : wf d m = true) : wf d (clearRange m i n) = true := wf_filter _ h

/-- Reading after a range has been cleared. -/
theorem get_clearRange {m : List (Nat × α)} (i n j : Nat) (h : wf d m = true) :
    get d (clearRange m i n) j = if i ≤ j ∧ j < i + n then d else get d m j := by
  rw [clearRange, get_filter (fun k => !(decide (i ≤ k) && decide (k < i + n))) j h]
  by_cases hj : i ≤ j ∧ j < i + n
  · simp [hj.1, hj.2]
  · rw [if_neg hj]
    split
    · rfl
    · next hc => simp at hc; omega

end SMap

/-- The little-endian number of bytes that are equal is equal. -/
theorem leOf_congr {f g : Nat → Byte} (n : Nat) (h : ∀ k, k < n → f k = g k) : leOf f n = leOf g n := by
  induction n generalizing f g with
  | zero => rfl
  | succ n ih => simp only [leOf, h 0 (by omega), ih (fun k hk => h (k + 1) (by omega))]

end Sys2Proof.Machine
end

