-- ==== Sys2Proof/Laws/Memory.lean ====
section
/-!
SUPPORT. Memory.lean: the laws of memory: every operation keeps its canonical form, and what is read after a write.
-/
namespace Sys2Proof.Machine

/-! ### Bytes and numbers (03 R43) -/

theorem leBytes_length (n v : Nat) : (leBytes n v).length = n := by
  induction n generalizing v with
  | zero => rfl
  | succ n ih => simp [leBytes, ih]

@[simp] theorem beBytes_length (n v : Nat) : (beBytes n v).length = n := by simp [beBytes]

/-- A digest has 48 bytes (22 R360). -/
@[simp] theorem sha384_length (bs : List Byte) : (sha384 bs).length = 48 := by simp [sha384]

/-- Byte k of a number's little-endian bytes. -/
theorem leBytes_getD (n v k : Nat) (h : k < n) (d : Byte) : (leBytes n v).getD k d = BitVec.ofNat 8 (v / 256 ^ k) := by
  induction n generalizing v k with
  | zero => omega
  | succ n ih =>
    cases k with
    | zero => simp [leBytes]
    | succ k =>
      have := ih (v / 256) k (by omega)
      simp only [leBytes, List.getD_cons_succ, this, Nat.div_div_eq_div_mul, Nat.pow_succ, Nat.mul_comm]

/-- A number is what its little-endian bytes make. -/
theorem leOf_bytes (n v : Nat) (h : v < 256 ^ n) : leOf (fun k => BitVec.ofNat 8 (v / 256 ^ k)) n = v := by
  induction n generalizing v with
  | zero => simp [leOf] at *; omega
  | succ n ih =>
    have e : (fun k => BitVec.ofNat 8 (v / 256 ^ (k + 1))) = fun k => BitVec.ofNat 8 (v / 256 / 256 ^ k) := by
      funext k; rw [Nat.div_div_eq_div_mul, Nat.pow_succ, Nat.mul_comm]
    have hd : v / 256 < 256 ^ n := by
      rw [Nat.pow_succ] at h
      exact Nat.div_lt_of_lt_mul (by omega)
    simp only [leOf, e, ih (v / 256) hd, Nat.pow_zero, Nat.div_one, BitVec.toNat_ofNat]
    omega

/-- Byte k of the number that bytes make. -/
theorem leOf_byte (f : Nat → Byte) (n k : Nat) (h : k < n) : leOf f n / 256 ^ k % 256 = (f k).toNat := by
  induction n generalizing f k with
  | zero => omega
  | succ n ih =>
    have hb := (f 0).isLt
    cases k with
    | zero => simp only [leOf, Nat.pow_zero, Nat.div_one]; omega
    | succ k =>
      have e : leOf f (n + 1) / 256 ^ (k + 1) = leOf (fun k => f (k + 1)) n / 256 ^ k := by
        rw [Nat.pow_succ, Nat.mul_comm, ← Nat.div_div_eq_div_mul]
        congr 1
        simp only [leOf]; omega
      rw [e, ih (fun k => f (k + 1)) k (by omega)]

/-! ### The canonical form -/

/-- After reset memory lists nothing. -/
theorem reset_mem_wf : Memory.wf State.reset.mem = true := rfl

theorem memWriteBytes_mem (s : State) (pa : Nat) (bs : List Byte) :
    (memWriteBytes s pa bs).mem = SMap.setMany Config.memDefault s.mem pa bs := by
  rfl

theorem memWriteBytes_wf {s : State} (pa : Nat) (bs : List Byte) (h : Memory.wf s.mem = true) :
    Memory.wf (memWriteBytes s pa bs).mem = true := by
  rw [memWriteBytes_mem]; exact SMap.setMany_wf pa bs h

/-- A request to host memory is noted beside memory. -/
@[simp] theorem askHost_mem (s : State) (pa : Nat) (rs : List HostReq) : (askHost s pa rs).mem = s.mem := by
  unfold askHost; split <;> rfl

@[simp] theorem countReads_mem (s : State) (pa n : Nat) : (countReads s pa n).mem = s.mem := by
  unfold countReads; dsimp only; split <;> rfl

/-- A read changes no byte of memory. -/
@[simp] theorem readFrom_mem (s : State) (part pa n : Nat) : (readFrom s part pa n).mem = s.mem := by
  rw [readFrom, askHost_mem, countReads_mem]

/-- What a partition sends is what memory holds. -/
@[simp] theorem sendBytes_mem (s : State) (part pa : Nat) (bs : List Byte) : (sendBytes s part pa bs).mem = (memWriteBytes s pa bs).mem := by
  rw [sendBytes, askHost_mem]

theorem sendBytes_wf {s : State} (part pa : Nat) (bs : List Byte) (h : Memory.wf s.mem = true) :
    Memory.wf (sendBytes s part pa bs).mem = true := by rw [sendBytes_mem]; exact memWriteBytes_wf pa bs h

theorem memWrite_wf {s : State} (pa n v : Nat) (h : Memory.wf s.mem = true) : Memory.wf (memWrite s pa n v).mem = true :=
  memWriteBytes_wf pa _ h

/-- A passage over a list, each step of which keeps memory canonical, keeps it. -/
theorem foldl_wf {α : Type} {f : State → α → State} (hf : ∀ s a, Memory.wf s.mem = true → Memory.wf (f s a).mem = true)
    (l : List α) {s : State} (h : Memory.wf s.mem = true) : Memory.wf (l.foldl f s).mem = true := by
  induction l generalizing s with
  | nil => exact h
  | cons a l ih => exact ih (hf s a h)

theorem ite_wf {c : Prop} [Decidable c] {a b : State} (ha : Memory.wf a.mem = true) (hb : Memory.wf b.mem = true) :
    Memory.wf (if c then a else b).mem = true := by split <;> assumption

theorem logDirty_wf {s : State} (ctx vgran : Nat) (h : Memory.wf s.mem = true) : Memory.wf (logDirty s ctx vgran).mem = true := by
  unfold logDirty
  split
  · exact h
  · exact ite_wf (memWrite_wf _ _ _ (memWrite_wf _ _ _ h)) (memWrite_wf _ _ _ h)

theorem logError_mem (s : State) (pa : Nat) : (logError s pa).mem = s.mem := by
  unfold logError; rfl

theorem sendComb_wf {s : State} (cl : Nat) (c : Comb) (h : Memory.wf s.mem = true) : Memory.wf (sendComb s cl c).mem = true := by
  unfold sendComb
  dsimp only
  split
  · rw [logError_mem, countReads_mem]; exact h
  · exact foldl_wf (fun _ _ h => logDirty_wf _ _ h) _ (memWrite_wf _ _ _ (by rw [countReads_mem]; exact h))

theorem sendCombsAt_wf {s : State} (cl pa n : Nat) (h : Memory.wf s.mem = true) : Memory.wf (sendCombsAt s cl pa n).mem = true := by
  unfold sendCombsAt
  refine foldl_wf (fun s c h => ?_) _ h
  split
  · exact sendComb_wf cl c h
  · exact h

theorem sendCombs_wf {s : State} (cl : Nat) (h : Memory.wf s.mem = true) : Memory.wf (sendCombs s cl).mem = true :=
  foldl_wf (fun _ c h => sendComb_wf cl c h) _ h

theorem writeLine_wf {s : State} (part pa : Nat) (bs : List Host.Cell) (h : Memory.wf s.mem = true) :
    Memory.wf (writeLine s part pa bs).mem = true :=
  foldl_wf (f := fun s (c : Host.Cell) => sendBytes s part (pa + c.1) [c.2]) (fun _ _ h => sendBytes_wf _ _ _ h) bs h

/-- An event's record goes into a ring in host memory (21 R349). -/
theorem postEvent_wf {s : State} (p : Nat) (r : Report) (h : Memory.wf s.mem = true) : Memory.wf (postEvent s p r).mem = true := by
  unfold postEvent
  dsimp only [modDev, modPart]
  split
  · split
    · exact h
    · exact sendBytes_wf _ _ _ h
  · exact h

theorem performLine_wf {s : State} (core : Nat) (l : Line) (k : Nat) (h : Memory.wf s.mem = true) :
    Memory.wf (performLine s core l k).mem = true := by
  have h' := writeLine_wf l.part (l.copies.getD k l.pa) l.bytes (sendCombsAt_wf (clusterOf core) (l.copies.getD k l.pa) 128 h)
  unfold performLine
  dsimp only
  split
  · rw [modCore_mem]
    split
    · exact logDirty_wf _ _ h'
    · exact h'
  · rw [modCore_mem]; exact h'

theorem performWhole_wf {s : State} (core : Nat) (l : Line) (h : Memory.wf s.mem = true) : Memory.wf (performWhole s core l).mem = true := by
  unfold performWhole
  refine foldl_wf (fun s k h => ?_) _ h
  split
  · split
    · exact h
    · exact performLine_wf _ _ _ h
  · exact h

theorem performLines_wf {s : State} (core : Nat) (f : Line → Bool) (h : Memory.wf s.mem = true) :
    Memory.wf (performLines s core f).mem = true :=
  foldl_wf (fun _ l h => performWhole_wf core l h) _ h

theorem bufferStore_wf {s : State} (core pa : Nat) (bs : List Byte) (a : StoreAttr) (h : Memory.wf s.mem = true) :
    Memory.wf (bufferStore s core pa bs a).mem = true := by
  unfold bufferStore
  dsimp only
  split
  · exact h
  · simp only [State.bump, modCore_mem]
    split
    · split
      · exact performWhole_wf _ _ h
      · exact h
    · exact h

/-- A granule that is cleared (10 R174). -/
theorem clearGranule_wf {s t : State} (g : Nat) (h : Memory.wf s.mem = true) (ht : execGranuleClearDone g s = .next t) :
    Memory.wf t.mem = true := by
  unfold execGranuleClearDone at ht
  split at ht
  · cases ht; exact h
  · cases ht
    exact SMap.clearRange_wf (65536 * g) 65536 h

/-- The resets keep host and far memory (01 R14, log 24). -/
theorem clearAll_wf {s : State} (d : Dev) (cyc : Nat) (h : Memory.wf s.mem = true) : Memory.wf (clearAll s d cyc).mem = true :=
  SMap.wf_filter _ h

theorem zeroFar_wf {s : State} (units : List Nat) (h : Memory.wf s.mem = true) : Memory.wf (zeroFar s units).mem = true :=
  SMap.wf_filter _ h

theorem hostWrite_wf {s : State} (pa : Nat) (b : Byte) (h : Memory.wf s.mem = true) : Memory.wf (hostWrite s pa b).mem = true := by
  unfold hostWrite
  split
  · exact SMap.set_wf pa b h
  · exact h

/-- The canonical form, said of the list: keys strictly rising from `lo` on, and no value that an unlisted key reads as. -/
theorem wfFrom_iff {α : Type} [DecidableEq α] {d : α} {lo : Nat} {m : List (Nat × α)} :
    SMap.wfFrom d lo m = true ↔ m.Pairwise (fun a b => a.1 < b.1) ∧ ∀ e ∈ m, lo ≤ e.1 ∧ e.2 ≠ d := by
  induction m generalizing lo with
  | nil => simp [SMap.wfFrom]
  | cons e m ih =>
    simp only [SMap.wfFrom, Bool.and_eq_true, decide_eq_true_eq, ih, List.pairwise_cons, List.mem_cons, forall_eq_or_imp]
    constructor
    · rintro ⟨⟨h1, h2⟩, h3, h4⟩
      exact ⟨⟨fun x hx => (h4 x hx).1, h3⟩, ⟨h1, by simpa using h2⟩, fun x hx => ⟨by have := (h4 x hx).1; omega, (h4 x hx).2⟩⟩
    · rintro ⟨⟨h1, h2⟩, ⟨h3, h4⟩, h5⟩
      exact ⟨⟨h3, by simpa using h4⟩, h2, fun x hx => ⟨h1 x hx, (h5 x hx).2⟩⟩

theorem copyMem_wf {s : State} (src dst n : Nat) (h : Memory.wf s.mem = true) : Memory.wf (copyMem s src dst n).mem = true := by
  rw [← countReads_mem s src n] at h
  obtain ⟨h1, h2⟩ := wfFrom_iff.1 h
  refine wfFrom_iff.2 ⟨?_, ?_⟩
  · refine List.pairwise_append.2 ⟨List.pairwise_append.2 ⟨h1.filter _, ?_, ?_⟩, h1.filter _, ?_⟩
    · refine List.pairwise_map.2 ((h1.filter _).imp_of_mem (fun ha hb hab => ?_))
      have := (List.mem_filter.1 ha).2
      simp at this ⊢
      omega
    · intro a ha b hb
      have ha := (List.mem_filter.1 ha).2
      obtain ⟨c, hc, rfl⟩ := List.mem_map.1 hb
      simp at ha ⊢
      omega
    · intro a ha b hb
      have hb := (List.mem_filter.1 hb).2
      simp at hb
      rcases List.mem_append.1 ha with ha | ha
      · have := (List.mem_filter.1 ha).2
        simp at this
        omega
      · obtain ⟨c, hc, rfl⟩ := List.mem_map.1 ha
        have := (List.mem_filter.1 hc).2
        simp at this ⊢
        omega
  · intro e he
    refine ⟨Nat.zero_le _, ?_⟩
    rcases List.mem_append.1 he with he | he
    · rcases List.mem_append.1 he with he | he
      · exact (h2 e (List.mem_filter.1 he).1).2
      · obtain ⟨c, hc, rfl⟩ := List.mem_map.1 he
        exact (h2 c (List.mem_filter.1 hc).1).2
    · exact (h2 e (List.mem_filter.1 he).1).2

/-- A state table that the firmware writes (21 R348). -/
theorem noteTable_wf {s : State} (p : Nat) (h : Memory.wf s.mem = true) : Memory.wf (noteTable s p).mem = true := by
  unfold noteTable
  dsimp only [modPart_mem]
  split
  · exact memWrite_wf _ _ _ h
  · exact h

/-- A passage over a list, each step of which keeps a memory canonical, keeps it. -/
theorem foldl_cells_wf {α : Type} {f : List Host.Cell → α → List Host.Cell} (hf : ∀ m a, Memory.wf m = true → Memory.wf (f m a) = true)
    (l : List α) {m : List Host.Cell} (h : Memory.wf m = true) : Memory.wf (l.foldl f m) = true := by
  induction l generalizing m with
  | nil => exact h
  | cons a l ih => exact ih (hf m a h)

/-- A granule that arrives in a migration (22 R359). -/
theorem putGranule_wf {s : State} (pa : Nat) (cells : List Host.Cell) (bad : List Nat) (h : Memory.wf s.mem = true) :
    Memory.wf (putGranule s pa cells bad).mem = true :=
  foldl_cells_wf (f := fun m (c : Host.Cell) => SMap.set Config.memDefault m (pa + c.1) c.2) (fun _ _ h => by exact SMap.set_wf _ _ h) cells
    (SMap.wf_filter _ h)

theorem arrivePage_wf {s : State} (x : Ctx) (pg : CtxPage) (h : Memory.wf s.mem = true) : Memory.wf (arrivePage s x pg).mem = true :=
  foldl_wf (fun _ _ h => foldl_wf (fun _ pa h => putGranule_wf pa _ _ h) _ h) _ h

/-! ### Reading after a write -/

/-- Each byte written is read back, and every other byte as before. -/
theorem memByte_memWriteBytes {s : State} (pa : Nat) (bs : List Byte) (x : Nat) (h : Memory.wf s.mem = true) :
    memByte (memWriteBytes s pa bs) x = if pa ≤ x ∧ x < pa + bs.length then bs.getD (x - pa) Config.memDefault else memByte s x := by
  rw [memByte, memWriteBytes_mem]; exact SMap.get_setMany pa x bs h

/-- What is read does not depend on the bytes outside. -/
theorem memRead_congr {s t : State} (pa n : Nat) (h : ∀ k, k < n → memByte s (pa + k) = memByte t (pa + k)) :
    memRead s pa n = memRead t pa n := leOf_congr n h

/-- A write leaves a range that it does not meet. -/
theorem memRead_memWriteBytes_other {s : State} (pa : Nat) (bs : List Byte) (q n : Nat) (h : Memory.wf s.mem = true)
    (hd : q + n ≤ pa ∨ pa + bs.length ≤ q) : memRead (memWriteBytes s pa bs) q n = memRead s q n :=
  memRead_congr q n (fun k hk => by rw [memByte_memWriteBytes pa bs _ h, if_neg (by omega)])

end Sys2Proof.Machine
end

