-- ==== Sys2Proof/Laws/PerInstr.lean ====
section
/-!
SUPPORT. PerInstr.lean: the family RoundTrip: the fields of an instruction's word are read back as the instruction.
-/
namespace Sys2Proof.Laws.RoundTrip
set_option Elab.async false   -- the theorems below are many: one after another

/-- The fields that the encoder writes are those from which the decoder builds the instruction. -/
def Statement (i : Instr) : Prop := ∀ r, rawOf i = some r → build r = some i

/-- An event has no word. -/
theorem of_event {i : Instr} (h : rawOf i = none) : Statement i := fun r hr => by simp [h] at hr

/-- An instruction with a word: it is enough to read its fields back. -/
theorem of_word {i : Instr} {r : Raw} (h : rawOf i = some r) (hb : build r = some i) : Statement i := fun r' hr => by
  rw [h, Option.some.injEq] at hr; rw [← hr]; exact hb

/-! ### The decoder's arm of each opcode -/

section
variable {r : Raw}

theorem arm_0x000 (ho : r.opc = 0x000) : build r = (some (.nop r.hdr)) := by unfold build; rw [ho]; rfl
theorem arm_0x001 (ho : r.opc = 0x001) : build r = (some (.bra r.hdr r.imm)) := by unfold build; rw [ho]; rfl
theorem arm_0x002 (ho : r.opc = 0x002) : build r = (do let a ← Opnd.ofBits r.a; pure (.brx r.hdr a)) := by unfold build; rw [ho]; rfl
theorem arm_0x003 (ho : r.opc = 0x003) : build r = (do let d ← Opnd.ofBits r.d; pure (.call r.hdr d r.imm)) := by unfold build; rw [ho]; rfl
theorem arm_0x004 (ho : r.opc = 0x004) : build r = (do let a ← Opnd.ofBits r.a; pure (.ret r.hdr a)) := by unfold build; rw [ho]; rfl
theorem arm_0x005 (ho : r.opc = 0x005) : build r = (some (.exit r.hdr)) := by unfold build; rw [ho]; rfl
theorem arm_0x006 (ho : r.opc = 0x006) : build r = (some (.yieldTo r.hdr)) := by unfold build; rw [ho]; rfl
theorem arm_0x007 (ho : r.opc = 0x007) : build r = (some (.gsync r.hdr)) := by unfold build; rw [ho]; rfl
theorem arm_0x008 (ho : r.opc = 0x008) : build r = (some (.meet r.hdr r.imm)) := by unfold build; rw [ho]; rfl
theorem arm_0x009 (ho : r.opc = 0x009) : build r = (do let a ← Opnd.ofBits r.a; pure (.meetg r.hdr a r.imm)) := by unfold build; rw [ho]; rfl
theorem arm_0x00A (ho : r.opc = 0x00A) : build r = (some (.unmeet r.hdr)) := by unfold build; rw [ho]; rfl
theorem arm_0x00B (ho : r.opc = 0x00B) : build r = (do let a ← Opnd.ofBits r.a; let b ← Opnd.ofBits r.b; pure (.dispatch r.hdr a b)) := by unfold build; rw [ho]; rfl
theorem arm_0x00C (ho : r.opc = 0x00C) : build r = (do let ty ← Ty.ofCode r.ty; let d ← Opnd.ofBits r.d; let a ← Opnd.ofBits r.a; pure (.gld r.hdr ty d a r.imm)) := by unfold build; rw [ho]; rfl
theorem arm_0x00D (ho : r.opc = 0x00D) : build r = (do let a ← Opnd.ofBits r.a; pure (.gadv r.hdr a r.imm)) := by unfold build; rw [ho]; rfl
theorem arm_0x00E (ho : r.opc = 0x00E) : build r = (
    if r.sub.toNat = 0 then do let a ← Opnd.ofBits r.a; pure (.gset r.hdr a r.imm)
    else if r.sub.toNat = 1 then do let a ← Opnd.ofBits r.a; pure (.gsetLeave r.hdr a r.imm)
    else none) := by unfold build; rw [ho]; rfl
theorem arm_0x00F (ho : r.opc = 0x00F) : build r = (do let d ← Opnd.ofBits r.d; let a ← Opnd.ofBits r.a; let b ← Opnd.ofBits r.b; let c ← Opnd.ofBits r.c; pure (.mcall r.hdr d a b c (r.par 4) (r.par 5) (r.par 6) (r.par 7) r.m)) := by unfold build; rw [ho]; rfl
theorem arm_0x040 (ho : r.opc = 0x040) : build r = (do let ty ← Ty.ofCode r.ty; let d ← Opnd.ofBits r.d; let a ← Opnd.ofBits r.a; let b ← Opnd.ofBits r.b; pure (.iadd r.hdr ty (r.sat = 1#1) d a b r.imm)) := by unfold build; rw [ho]; rfl
theorem arm_0x041 (ho : r.opc = 0x041) : build r = (do let ty ← Ty.ofCode r.ty; let d ← Opnd.ofBits r.d; let a ← Opnd.ofBits r.a; let b ← Opnd.ofBits r.b; pure (.isub r.hdr ty (r.sat = 1#1) d a b r.imm)) := by unfold build; rw [ho]; rfl
theorem arm_0x042 (ho : r.opc = 0x042) : build r = (do let ty ← Ty.ofCode r.ty; let d ← Opnd.ofBits r.d; let a ← Opnd.ofBits r.a; let b ← Opnd.ofBits r.b; pure (.imul r.hdr ty (r.sat = 1#1) d a b r.imm)) := by unfold build; rw [ho]; rfl
theorem arm_0x043 (ho : r.opc = 0x043) : build r = (do let ty ← Ty.ofCode r.ty; let d ← Opnd.ofBits r.d; let a ← Opnd.ofBits r.a; let b ← Opnd.ofBits r.b; pure (.imulh r.hdr ty d a b r.imm)) := by unfold build; rw [ho]; rfl
theorem arm_0x044 (ho : r.opc = 0x044) : build r = (do let ty ← Ty.ofCode r.ty; let d ← Opnd.ofBits r.d; let a ← Opnd.ofBits r.a; let b ← Opnd.ofBits r.b; let c ← Opnd.ofBits r.c; pure (.imad r.hdr ty (r.sat = 1#1) d a b c)) := by unfold build; rw [ho]; rfl
theorem arm_0x045 (ho : r.opc = 0x045) : build r = (do let ty ← Ty.ofCode r.ty; let d ← Opnd.ofBits r.d; let a ← Opnd.ofBits r.a; let b ← Opnd.ofBits r.b; pure (.idiv r.hdr ty d a b r.imm)) := by unfold build; rw [ho]; rfl
theorem arm_0x046 (ho : r.opc = 0x046) : build r = (do let ty ← Ty.ofCode r.ty; let d ← Opnd.ofBits r.d; let a ← Opnd.ofBits r.a; let b ← Opnd.ofBits r.b; pure (.irem r.hdr ty d a b r.imm)) := by unfold build; rw [ho]; rfl
theorem arm_0x047 (ho : r.opc = 0x047) : build r = (do let ty ← Ty.ofCode r.ty; let d ← Opnd.ofBits r.d; let a ← Opnd.ofBits r.a; let b ← Opnd.ofBits r.b; pure (.imin r.hdr ty d a b r.imm)) := by unfold build; rw [ho]; rfl
theorem arm_0x048 (ho : r.opc = 0x048) : build r = (do let ty ← Ty.ofCode r.ty; let d ← Opnd.ofBits r.d; let a ← Opnd.ofBits r.a; let b ← Opnd.ofBits r.b; pure (.imax r.hdr ty d a b r.imm)) := by unfold build; rw [ho]; rfl
theorem arm_0x049 (ho : r.opc = 0x049) : build r = (do let ty ← Ty.ofCode r.ty; let d ← Opnd.ofBits r.d; let a ← Opnd.ofBits r.a; pure (.iabs r.hdr ty (r.sat = 1#1) d a r.imm)) := by unfold build; rw [ho]; rfl
theorem arm_0x04A (ho : r.opc = 0x04A) : build r = (do let ty ← Ty.ofCode r.ty; let d ← Opnd.ofBits r.d; let a ← Opnd.ofBits r.a; pure (.ineg r.hdr ty (r.sat = 1#1) d a r.imm)) := by unfold build; rw [ho]; rfl
theorem arm_0x04B (ho : r.opc = 0x04B) : build r = (do let ty ← Ty.ofCode r.ty; let d ← Opnd.ofBits r.d; let a ← Opnd.ofBits r.a; let b ← Opnd.ofBits r.b; pure (.and r.hdr ty d a b r.imm)) := by unfold build; rw [ho]; rfl
theorem arm_0x04C (ho : r.opc = 0x04C) : build r = (do let ty ← Ty.ofCode r.ty; let d ← Opnd.ofBits r.d; let a ← Opnd.ofBits r.a; let b ← Opnd.ofBits r.b; pure (.or r.hdr ty d a b r.imm)) := by unfold build; rw [ho]; rfl
theorem arm_0x04D (ho : r.opc = 0x04D) : build r = (do let ty ← Ty.ofCode r.ty; let d ← Opnd.ofBits r.d; let a ← Opnd.ofBits r.a; let b ← Opnd.ofBits r.b; pure (.xor r.hdr ty d a b r.imm)) := by unfold build; rw [ho]; rfl
theorem arm_0x04E (ho : r.opc = 0x04E) : build r = (do let ty ← Ty.ofCode r.ty; let d ← Opnd.ofBits r.d; let a ← Opnd.ofBits r.a; pure (.not r.hdr ty d a r.imm)) := by unfold build; rw [ho]; rfl
theorem arm_0x04F (ho : r.opc = 0x04F) : build r = (do let ty ← Ty.ofCode r.ty; let d ← Opnd.ofBits r.d; let a ← Opnd.ofBits r.a; let b ← Opnd.ofBits r.b; pure (.andn r.hdr ty d a b r.imm)) := by unfold build; rw [ho]; rfl
theorem arm_0x050 (ho : r.opc = 0x050) : build r = (do let ty ← Ty.ofCode r.ty; let d ← Opnd.ofBits r.d; let a ← Opnd.ofBits r.a; let b ← Opnd.ofBits r.b; pure (.shl r.hdr ty d a b r.imm)) := by unfold build; rw [ho]; rfl
theorem arm_0x051 (ho : r.opc = 0x051) : build r = (do let ty ← Ty.ofCode r.ty; let d ← Opnd.ofBits r.d; let a ← Opnd.ofBits r.a; let b ← Opnd.ofBits r.b; pure (.shr r.hdr ty d a b r.imm)) := by unfold build; rw [ho]; rfl
theorem arm_0x052 (ho : r.opc = 0x052) : build r = (do let ty ← Ty.ofCode r.ty; let d ← Opnd.ofBits r.d; let a ← Opnd.ofBits r.a; let b ← Opnd.ofBits r.b; pure (.sar r.hdr ty d a b r.imm)) := by unfold build; rw [ho]; rfl
theorem arm_0x053 (ho : r.opc = 0x053) : build r = (do let ty ← Ty.ofCode r.ty; let d ← Opnd.ofBits r.d; let a ← Opnd.ofBits r.a; let b ← Opnd.ofBits r.b; pure (.rol r.hdr ty d a b r.imm)) := by unfold build; rw [ho]; rfl
theorem arm_0x054 (ho : r.opc = 0x054) : build r = (do let ty ← Ty.ofCode r.ty; let d ← Opnd.ofBits r.d; let a ← Opnd.ofBits r.a; pure (.popc r.hdr ty d a r.imm)) := by unfold build; rw [ho]; rfl
theorem arm_0x055 (ho : r.opc = 0x055) : build r = (do let ty ← Ty.ofCode r.ty; let d ← Opnd.ofBits r.d; let a ← Opnd.ofBits r.a; pure (.clz r.hdr ty d a r.imm)) := by unfold build; rw [ho]; rfl
theorem arm_0x056 (ho : r.opc = 0x056) : build r = (do let ty ← Ty.ofCode r.ty; let d ← Opnd.ofBits r.d; let a ← Opnd.ofBits r.a; pure (.ctz r.hdr ty d a r.imm)) := by unfold build; rw [ho]; rfl
theorem arm_0x057 (ho : r.opc = 0x057) : build r = (do let ty ← Ty.ofCode r.ty; let d ← Opnd.ofBits r.d; let a ← Opnd.ofBits r.a; pure (.brev r.hdr ty d a r.imm)) := by unfold build; rw [ho]; rfl
theorem arm_0x058 (ho : r.opc = 0x058) : build r = (do let ty ← Ty.ofCode r.ty; let d ← Opnd.ofBits r.d; let a ← Opnd.ofBits r.a; pure (.bswap r.hdr ty d a r.imm)) := by unfold build; rw [ho]; rfl
theorem arm_0x059 (ho : r.opc = 0x059) : build r = (do let ty ← Ty.ofCode r.ty; let d ← Opnd.ofBits r.d; let a ← Opnd.ofBits r.a; let b ← Opnd.ofBits r.b; pure (.bfx r.hdr ty d a b r.imm)) := by unfold build; rw [ho]; rfl
theorem arm_0x05A (ho : r.opc = 0x05A) : build r = (do let ty ← Ty.ofCode r.ty; let d ← Opnd.ofBits r.d; let a ← Opnd.ofBits r.a; let b ← Opnd.ofBits r.b; let c ← Opnd.ofBits r.c; pure (.bfi r.hdr ty d a b c)) := by unfold build; rw [ho]; rfl
theorem arm_0x05B (ho : r.opc = 0x05B) : build r = (do let ty ← Ty.ofCode r.ty; let d ← Opnd.ofBits r.d; let a ← Opnd.ofBits r.a; let b ← Opnd.ofBits r.b; pure (.icmp r.hdr ty r.sub d a b r.imm)) := by unfold build; rw [ho]; rfl
theorem arm_0x05C (ho : r.opc = 0x05C) : build r = (do let ty ← Ty.ofCode r.ty; let d ← Opnd.ofBits r.d; let a ← Opnd.ofBits r.a; let b ← Opnd.ofBits r.b; let c ← Opnd.ofBits r.c; pure (.sel r.hdr ty d a b c)) := by unfold build; rw [ho]; rfl
theorem arm_0x080 (ho : r.opc = 0x080) : build r = (do let ty ← Ty.ofCode r.ty; let d ← Opnd.ofBits r.d; let a ← Opnd.ofBits r.a; pure (.mov r.hdr ty d a r.imm)) := by unfold build; rw [ho]; rfl
theorem arm_0x081 (ho : r.opc = 0x081) : build r = (do let d ← Opnd.ofBits r.d; let a ← Opnd.ofBits r.a; pure (.rdsp r.hdr d a)) := by unfold build; rw [ho]; rfl
theorem arm_0x082 (ho : r.opc = 0x082) : build r = (do let a ← Opnd.ofBits r.a; let b ← Opnd.ofBits r.b; pure (.wrsp r.hdr a b r.imm)) := by unfold build; rw [ho]; rfl
theorem arm_0x083 (ho : r.opc = 0x083) : build r = (do let d ← Opnd.ofBits r.d; let a ← Opnd.ofBits r.a; let b ← Opnd.ofBits r.b; pure (.plop r.hdr r.sub d a b)) := by unfold build; rw [ho]; rfl
theorem arm_0x084 (ho : r.opc = 0x084) : build r = (do let d ← Opnd.ofBits r.d; pure (.p2v r.hdr d)) := by unfold build; rw [ho]; rfl
theorem arm_0x085 (ho : r.opc = 0x085) : build r = (do let a ← Opnd.ofBits r.a; let b ← Opnd.ofBits r.b; pure (.v2p r.hdr a b r.imm)) := by unfold build; rw [ho]; rfl
theorem arm_0x086 (ho : r.opc = 0x086) : build r = (do let ty ← Ty.ofCode r.ty; let d ← Opnd.ofBits r.d; let a ← Opnd.ofBits r.a; pure (.rdfirst r.hdr ty d a)) := by unfold build; rw [ho]; rfl
theorem arm_0x0C0 (ho : r.opc = 0x0C0) : build r = (do let ty ← Ty.ofCode r.ty; let d ← Opnd.ofBits r.d; let a ← Opnd.ofBits r.a; let b ← Opnd.ofBits r.b; pure (.fadd r.hdr ty r.mod d a b r.imm)) := by unfold build; rw [ho]; rfl
theorem arm_0x0C1 (ho : r.opc = 0x0C1) : build r = (do let d ← Opnd.ofBits r.d; let a ← Opnd.ofBits r.a; let b ← Opnd.ofBits r.b; pure (.fsub r.hdr r.mod d a b r.imm)) := by unfold build; rw [ho]; rfl
theorem arm_0x0C2 (ho : r.opc = 0x0C2) : build r = (do let ty ← Ty.ofCode r.ty; let d ← Opnd.ofBits r.d; let a ← Opnd.ofBits r.a; let b ← Opnd.ofBits r.b; pure (.fmul r.hdr ty r.mod d a b r.imm)) := by unfold build; rw [ho]; rfl
theorem arm_0x0C3 (ho : r.opc = 0x0C3) : build r = (do let ty ← Ty.ofCode r.ty; let d ← Opnd.ofBits r.d; let a ← Opnd.ofBits r.a; let b ← Opnd.ofBits r.b; let c ← Opnd.ofBits r.c; pure (.ffma r.hdr ty r.mod d a b c)) := by unfold build; rw [ho]; rfl
theorem arm_0x0C4 (ho : r.opc = 0x0C4) : build r = (do let ty ← Ty.ofCode r.ty; let d ← Opnd.ofBits r.d; let a ← Opnd.ofBits r.a; let b ← Opnd.ofBits r.b; pure (.fmin r.hdr ty d a b r.imm)) := by unfold build; rw [ho]; rfl
theorem arm_0x0C5 (ho : r.opc = 0x0C5) : build r = (do let ty ← Ty.ofCode r.ty; let d ← Opnd.ofBits r.d; let a ← Opnd.ofBits r.a; let b ← Opnd.ofBits r.b; pure (.fmax r.hdr ty d a b r.imm)) := by unfold build; rw [ho]; rfl
theorem arm_0x0C6 (ho : r.opc = 0x0C6) : build r = (do let ty ← Ty.ofCode r.ty; let d ← Opnd.ofBits r.d; let a ← Opnd.ofBits r.a; pure (.fabs r.hdr ty d a r.imm)) := by unfold build; rw [ho]; rfl
theorem arm_0x0C7 (ho : r.opc = 0x0C7) : build r = (do let ty ← Ty.ofCode r.ty; let d ← Opnd.ofBits r.d; let a ← Opnd.ofBits r.a; pure (.fneg r.hdr ty d a r.imm)) := by unfold build; rw [ho]; rfl
theorem arm_0x0C8 (ho : r.opc = 0x0C8) : build r = (do let d ← Opnd.ofBits r.d; let a ← Opnd.ofBits r.a; let b ← Opnd.ofBits r.b; pure (.fcmp r.hdr r.sub d a b r.imm)) := by unfold build; rw [ho]; rfl
theorem arm_0x0C9 (ho : r.opc = 0x0C9) : build r = (do let ty ← Ty.ofCode r.ty; let d ← Opnd.ofBits r.d; let a ← Opnd.ofBits r.a; pure (.fcls r.hdr ty d a r.imm)) := by unfold build; rw [ho]; rfl
theorem arm_0x0CA (ho : r.opc = 0x0CA) : build r = (do let d ← Opnd.ofBits r.d; let a ← Opnd.ofBits r.a; let b ← Opnd.ofBits r.b; pure (.fdiv r.hdr r.mod d a b r.imm)) := by unfold build; rw [ho]; rfl
theorem arm_0x0CB (ho : r.opc = 0x0CB) : build r = (do let d ← Opnd.ofBits r.d; let a ← Opnd.ofBits r.a; pure (.fsqrt r.hdr r.mod d a r.imm)) := by unfold build; rw [ho]; rfl
theorem arm_0x0CC (ho : r.opc = 0x0CC) : build r = (do let d ← Opnd.ofBits r.d; let a ← Opnd.ofBits r.a; pure (.frcp r.hdr d a r.imm)) := by unfold build; rw [ho]; rfl
theorem arm_0x0CD (ho : r.opc = 0x0CD) : build r = (do let d ← Opnd.ofBits r.d; let a ← Opnd.ofBits r.a; pure (.frsq r.hdr d a r.imm)) := by unfold build; rw [ho]; rfl
theorem arm_0x0CE (ho : r.opc = 0x0CE) : build r = (do let d ← Opnd.ofBits r.d; let a ← Opnd.ofBits r.a; pure (.fexp2 r.hdr d a r.imm)) := by unfold build; rw [ho]; rfl
theorem arm_0x0CF (ho : r.opc = 0x0CF) : build r = (do let d ← Opnd.ofBits r.d; let a ← Opnd.ofBits r.a; pure (.flog2 r.hdr d a r.imm)) := by unfold build; rw [ho]; rfl
theorem arm_0x0D0 (ho : r.opc = 0x0D0) : build r = (do let d ← Opnd.ofBits r.d; let a ← Opnd.ofBits r.a; pure (.ftanh r.hdr d a r.imm)) := by unfold build; rw [ho]; rfl
theorem arm_0x0D1 (ho : r.opc = 0x0D1) : build r = (do let d ← Opnd.ofBits r.d; let a ← Opnd.ofBits r.a; pure (.frnd r.hdr r.mod d a r.imm)) := by unfold build; rw [ho]; rfl
theorem arm_0x0D2 (ho : r.opc = 0x0D2) : build r = (do let ty ← Ty.ofCode r.ty; let sty ← Ty.ofCode r.sub; let d ← Opnd.ofBits r.d; let a ← Opnd.ofBits r.a; let b ← Opnd.ofBits r.b; pure (.cvt r.hdr ty sty r.mod (r.sat = 1#1) d a b r.imm)) := by unfold build; rw [ho]; rfl
theorem arm_0x0D3 (ho : r.opc = 0x0D3) : build r = (do let d ← Opnd.ofBits r.d; let a ← Opnd.ofBits r.a; pure (.bxq r.hdr r.sub d a)) := by unfold build; rw [ho]; rfl
theorem arm_0x0D4 (ho : r.opc = 0x0D4) : build r = (do let d ← Opnd.ofBits r.d; let a ← Opnd.ofBits r.a; let b ← Opnd.ofBits r.b; pure (.bxd r.hdr r.sub d a b r.imm)) := by unfold build; rw [ho]; rfl
theorem arm_0x0D5 (ho : r.opc = 0x0D5) : build r = (do let ty ← Ty.ofCode r.ty; let d ← Opnd.ofBits r.d; let a ← Opnd.ofBits r.a; let b ← Opnd.ofBits r.b; let c ← Opnd.ofBits r.c; pure (.fdot2 r.hdr ty r.mod d a b c)) := by unfold build; rw [ho]; rfl
theorem arm_0x100 (ho : r.opc = 0x100) : build r = (do let ty ← Ty.ofCode r.ty; let d ← Opnd.ofBits r.d; let a ← Opnd.ofBits r.a; let b ← Opnd.ofBits r.b; pure (.shfl r.hdr ty r.mod r.sub d a b r.imm)) := by unfold build; rw [ho]; rfl
theorem arm_0x101 (ho : r.opc = 0x101) : build r = (do let ty ← Ty.ofCode r.ty; let d ← Opnd.ofBits r.d; let a ← Opnd.ofBits r.a; pure (.qswap r.hdr ty r.sub d a)) := by unfold build; rw [ho]; rfl
theorem arm_0x102 (ho : r.opc = 0x102) : build r = (do let ty ← Ty.ofCode r.ty; let d ← Opnd.ofBits r.d; let a ← Opnd.ofBits r.a; let b ← Opnd.ofBits r.b; pure (.qbcast r.hdr ty d a b r.imm)) := by unfold build; rw [ho]; rfl
theorem arm_0x103 (ho : r.opc = 0x103) : build r = (do let d ← Opnd.ofBits r.d; let a ← Opnd.ofBits r.a; pure (.ballot r.hdr d a)) := by unfold build; rw [ho]; rfl
theorem arm_0x104 (ho : r.opc = 0x104) : build r = (do let d ← Opnd.ofBits r.d; let a ← Opnd.ofBits r.a; pure (.vote r.hdr r.sub d a)) := by unfold build; rw [ho]; rfl
theorem arm_0x105 (ho : r.opc = 0x105) : build r = (do let ty ← Ty.ofCode r.ty; let d ← Opnd.ofBits r.d; let a ← Opnd.ofBits r.a; pure (.matchLanes r.hdr ty d a)) := by unfold build; rw [ho]; rfl
theorem arm_0x106 (ho : r.opc = 0x106) : build r = (do let ty ← Ty.ofCode r.ty; let d ← Opnd.ofBits r.d; let a ← Opnd.ofBits r.a; pure (.scan r.hdr ty r.mod r.sub d a r.imm)) := by unfold build; rw [ho]; rfl
theorem arm_0x107 (ho : r.opc = 0x107) : build r = (do let ty ← Ty.ofCode r.ty; let d ← Opnd.ofBits r.d; let a ← Opnd.ofBits r.a; pure (.redux r.hdr ty r.mod r.sub d a r.imm)) := by unfold build; rw [ho]; rfl
theorem arm_0x108 (ho : r.opc = 0x108) : build r = (do let d ← Opnd.ofBits r.d; pure (.elect r.hdr d)) := by unfold build; rw [ho]; rfl
theorem arm_0x140 (ho : r.opc = 0x140) : build r = (do let ty ← Ty.ofCode r.ty; let d ← Opnd.ofBits r.d; let a ← Opnd.ofBits r.a; let b ← Opnd.ofBits r.b; pure (.lds r.hdr ty r.mod d a b r.imm)) := by unfold build; rw [ho]; rfl
theorem arm_0x141 (ho : r.opc = 0x141) : build r = (do let ty ← Ty.ofCode r.ty; let d ← Opnd.ofBits r.d; let a ← Opnd.ofBits r.a; let b ← Opnd.ofBits r.b; pure (.sts r.hdr ty r.mod d a b r.imm)) := by unfold build; rw [ho]; rfl
theorem arm_0x142 (ho : r.opc = 0x142) : build r = (do let ty ← Ty.ofCode r.ty; let d ← Opnd.ofBits r.d; let a ← Opnd.ofBits r.a; let b ← Opnd.ofBits r.b; pure (.ldh r.hdr ty r.mod d a b r.imm)) := by unfold build; rw [ho]; rfl
theorem arm_0x143 (ho : r.opc = 0x143) : build r = (do let ty ← Ty.ofCode r.ty; let d ← Opnd.ofBits r.d; let a ← Opnd.ofBits r.a; let b ← Opnd.ofBits r.b; pure (.sth r.hdr ty r.mod d a b r.imm)) := by unfold build; rw [ho]; rfl
theorem arm_0x144 (ho : r.opc = 0x144) : build r = (do let a ← Opnd.ofBits r.a; let b ← Opnd.ofBits r.b; pure (.spzero r.hdr a b r.imm)) := by unfold build; rw [ho]; rfl
theorem arm_0x145 (ho : r.opc = 0x145) : build r = (do let d ← Opnd.ofBits r.d; let a ← Opnd.ofBits r.a; pure (.tlook r.hdr d a r.imm)) := by unfold build; rw [ho]; rfl
theorem arm_0x146 (ho : r.opc = 0x146) : build r = (do let d ← Opnd.ofBits r.d; let a ← Opnd.ofBits r.a; pure (.tins r.hdr d a r.imm)) := by unfold build; rw [ho]; rfl
theorem arm_0x147 (ho : r.opc = 0x147) : build r = (do let d ← Opnd.ofBits r.d; let a ← Opnd.ofBits r.a; pure (.tinv r.hdr d a r.imm)) := by unfold build; rw [ho]; rfl
theorem arm_0x148 (ho : r.opc = 0x148) : build r = (do let a ← Opnd.ofBits r.a; let b ← Opnd.ofBits r.b; pure (.tmark r.hdr a b r.imm)) := by unfold build; rw [ho]; rfl
theorem arm_0x149 (ho : r.opc = 0x149) : build r = (
    if r.sub.toNat = 0 then do let a ← Opnd.ofBits r.a; let b ← Opnd.ofBits r.b; pure (.hgive r.hdr a b r.imm)
    else if r.sub.toNat = 1 then do let d ← Opnd.ofBits r.d; let a ← Opnd.ofBits r.a; let b ← Opnd.ofBits r.b; pure (.hgiveNew r.hdr d a b r.imm)
    else if r.sub.toNat = 2 then do let a ← Opnd.ofBits r.a; pure (.hgiveRetire r.hdr a)
    else none) := by unfold build; rw [ho]; rfl
theorem arm_0x14A (ho : r.opc = 0x14A) : build r = (do let a ← Opnd.ofBits r.a; pure (.htake r.hdr a)) := by unfold build; rw [ho]; rfl
theorem arm_0x14B (ho : r.opc = 0x14B) : build r = (do let d ← Opnd.ofBits r.d; let a ← Opnd.ofBits r.a; pure (.hqry r.hdr d a)) := by unfold build; rw [ho]; rfl
theorem arm_0x180 (ho : r.opc = 0x180) : build r = (do let ty ← Ty.ofCode r.ty; let d ← Opnd.ofBits r.d; let a ← Opnd.ofBits r.a; let b ← Opnd.ofBits r.b; pure (.ld r.hdr ty r.mod d a b r.mw r.ofs)) := by unfold build; rw [ho]; rfl
theorem arm_0x181 (ho : r.opc = 0x181) : build r = (do let ty ← Ty.ofCode r.ty; let d ← Opnd.ofBits r.d; let a ← Opnd.ofBits r.a; let b ← Opnd.ofBits r.b; pure (.st r.hdr ty r.mod d a b r.mw r.ofs)) := by unfold build; rw [ho]; rfl
theorem arm_0x182 (ho : r.opc = 0x182) : build r = (do let a ← Opnd.ofBits r.a; let b ← Opnd.ofBits r.b; pure (.pf r.hdr r.mod a b r.mw r.ofs)) := by unfold build; rw [ho]; rfl
theorem arm_0x183 (ho : r.opc = 0x183) : build r = (some (.fence r.hdr r.sub r.mw)) := by unfold build; rw [ho]; rfl
theorem arm_0x184 (ho : r.opc = 0x184) : build r = (do let ty ← Ty.ofCode r.ty; let d ← Opnd.ofBits r.d; let a ← Opnd.ofBits r.a; let b ← Opnd.ofBits r.b; let c ← Opnd.ofBits r.c; pure (.atom r.hdr ty r.mod r.sub d a b c r.mw r.ofs10)) := by unfold build; rw [ho]; rfl
theorem arm_0x185 (ho : r.opc = 0x185) : build r = (do let ty ← Ty.ofCode r.ty; let d ← Opnd.ofBits r.d; let a ← Opnd.ofBits r.a; let b ← Opnd.ofBits r.b; pure (.red r.hdr ty r.mod r.sub d a b r.mw r.ofs)) := by unfold build; rw [ho]; rfl
theorem arm_0x1C0 (ho : r.opc = 0x1C0) : build r = (do let d ← Opnd.ofBits r.d; let a ← Opnd.ofBits r.a; let b ← Opnd.ofBits r.b; let c ← Opnd.ofBits r.c; pure (.stx r.hdr r.mod r.sub d a b c r.mw r.ofs10)) := by unfold build; rw [ho]; rfl
theorem arm_0x1C1 (ho : r.opc = 0x1C1) : build r = (do let d ← Opnd.ofBits r.d; let a ← Opnd.ofBits r.a; let b ← Opnd.ofBits r.b; let c ← Opnd.ofBits r.c; pure (.stinit r.hdr r.mod d a b c r.mw r.ofs10)) := by unfold build; rw [ho]; rfl
theorem arm_0x1C2 (ho : r.opc = 0x1C2) : build r = (do let d ← Opnd.ofBits r.d; let a ← Opnd.ofBits r.a; let b ← Opnd.ofBits r.b; pure (.stqry r.hdr r.mod r.sub d a b r.mw r.ofs)) := by unfold build; rw [ho]; rfl
theorem arm_0x1C3 (ho : r.opc = 0x1C3) : build r = (do let a ← Opnd.ofBits r.a; pure (.stload r.hdr r.mod r.sub a)) := by unfold build; rw [ho]; rfl
theorem arm_0x200 (ho : r.opc = 0x200) : build r = (do let a ← Opnd.ofBits r.a; let b ← Opnd.ofBits r.b; pure (.binit r.hdr a b r.imm)) := by unfold build; rw [ho]; rfl
theorem arm_0x201 (ho : r.opc = 0x201) : build r = (
    if r.sub.toNat = 0 then do let a ← Opnd.ofBits r.a; pure (.barrive r.hdr a r.imm)
    else if r.sub.toNat = 1 then do let d ← Opnd.ofBits r.d; let a ← Opnd.ofBits r.a; pure (.barrivePh r.hdr d a r.imm)
    else none) := by unfold build; rw [ho]; rfl
theorem arm_0x202 (ho : r.opc = 0x202) : build r = (do let a ← Opnd.ofBits r.a; let b ← Opnd.ofBits r.b; pure (.bwait r.hdr a b r.imm)) := by unfold build; rw [ho]; rfl
theorem arm_0x203 (ho : r.opc = 0x203) : build r = (do let a ← Opnd.ofBits r.a; pure (.bsync r.hdr a r.imm)) := by unfold build; rw [ho]; rfl
theorem arm_0x204 (ho : r.opc = 0x204) : build r = (do let a ← Opnd.ofBits r.a; let b ← Opnd.ofBits r.b; pure (.bexpect r.hdr a b r.imm)) := by unfold build; rw [ho]; rfl
theorem arm_0x205 (ho : r.opc = 0x205) : build r = (do let d ← Opnd.ofBits r.d; let a ← Opnd.ofBits r.a; pure (.bqry r.hdr d a r.imm)) := by unfold build; rw [ho]; rfl
theorem arm_0x208 (ho : r.opc = 0x208) : build r = (do let a ← Opnd.ofBits r.a; let b ← Opnd.ofBits r.b; pure (.qinit r.hdr a b r.imm)) := by unfold build; rw [ho]; rfl
theorem arm_0x209 (ho : r.opc = 0x209) : build r = (do let a ← Opnd.ofBits r.a; let b ← Opnd.ofBits r.b; pure (.qpush r.hdr a b r.imm)) := by unfold build; rw [ho]; rfl
theorem arm_0x20A (ho : r.opc = 0x20A) : build r = (do let d ← Opnd.ofBits r.d; let a ← Opnd.ofBits r.a; pure (.qpop r.hdr d a r.imm)) := by unfold build; rw [ho]; rfl
theorem arm_0x20B (ho : r.opc = 0x20B) : build r = (do let d ← Opnd.ofBits r.d; let a ← Opnd.ofBits r.a; pure (.qtry r.hdr d a r.imm)) := by unfold build; rw [ho]; rfl
theorem arm_0x20C (ho : r.opc = 0x20C) : build r = (do let a ← Opnd.ofBits r.a; let b ← Opnd.ofBits r.b; let c ← Opnd.ofBits r.c; pure (.qallow r.hdr a b c)) := by unfold build; rw [ho]; rfl
theorem arm_0x240 (ho : r.opc = 0x240) : build r = (do let d ← Opnd.ofBits r.d; let a ← Opnd.ofBits r.a; pure (.cpy r.hdr d a)) := by unfold build; rw [ho]; rfl
theorem arm_0x241 (ho : r.opc = 0x241) : build r = (do let d ← Opnd.ofBits r.d; let a ← Opnd.ofBits r.a; let b ← Opnd.ofBits r.b; pure (.cpyt r.hdr d a b r.imm)) := by unfold build; rw [ho]; rfl
theorem arm_0x242 (ho : r.opc = 0x242) : build r = (do let d ← Opnd.ofBits r.d; let a ← Opnd.ofBits r.a; pure (.cpwp r.hdr d a r.imm)) := by unfold build; rw [ho]; rfl
theorem arm_0x243 (ho : r.opc = 0x243) : build r = (do let a ← Opnd.ofBits r.a; let b ← Opnd.ofBits r.b; pure (.cpwait r.hdr a b r.imm)) := by unfold build; rw [ho]; rfl
theorem arm_0x244 (ho : r.opc = 0x244) : build r = (do let a ← Opnd.ofBits r.a; pure (.cpfence r.hdr a r.imm)) := by unfold build; rw [ho]; rfl
theorem arm_0x280 (ho : r.opc = 0x280) : build r = (some (.mcfg r.hdr r.mod r.sub)) := by unfold build; rw [ho]; rfl
theorem arm_0x281 (ho : r.opc = 0x281) : build r = (do let a ← Opnd.ofBits r.a; let b ← Opnd.ofBits r.b; pure (.mldb r.hdr r.ty (r.sat = 1#1) r.sub a b r.imm)) := by unfold build; rw [ho]; rfl
theorem arm_0x282 (ho : r.opc = 0x282) : build r = (do let a ← Opnd.ofBits r.a; let b ← Opnd.ofBits r.b; pure (.mmb r.hdr r.ty (r.sat = 1#1) r.sub a b r.imm)) := by unfold build; rw [ho]; rfl
theorem arm_0x283 (ho : r.opc = 0x283) : build r = (do let a ← Opnd.ofBits r.a; pure (.scacc r.hdr r.sub a r.imm)) := by unfold build; rw [ho]; rfl
theorem arm_0x284 (ho : r.opc = 0x284) : build r = (some (.mzero r.hdr r.sub)) := by unfold build; rw [ho]; rfl
theorem arm_0x285 (ho : r.opc = 0x285) : build r = (do let a ← Opnd.ofBits r.a; let b ← Opnd.ofBits r.b; pure (.mldc r.hdr r.sub a b r.imm)) := by unfold build; rw [ho]; rfl
theorem arm_0x286 (ho : r.opc = 0x286) : build r = (do let a ← Opnd.ofBits r.a; let b ← Opnd.ofBits r.b; pure (.mdrain r.hdr r.ty r.mod (r.sat = 1#1) r.sub a b r.imm)) := by unfold build; rw [ho]; rfl
theorem arm_0x287 (ho : r.opc = 0x287) : build r = (
    if r.sub.toNat = 0 then do let d ← Opnd.ofBits r.d; let a ← Opnd.ofBits r.a; pure (.merr r.hdr d a r.imm)
    else if r.sub.toNat = 1 then some (.merrClr r.hdr)
    else none) := by unfold build; rw [ho]; rfl
theorem arm_0x2C0 (ho : r.opc = 0x2C0) : build r = (do let d ← Opnd.ofBits r.d; let a ← Opnd.ofBits r.a; pure (.enq r.hdr d a)) := by unfold build; rw [ho]; rfl
theorem arm_0x2C1 (ho : r.opc = 0x2C1) : build r = (do let ty ← Ty.ofCode r.ty; let d ← Opnd.ofBits r.d; let a ← Opnd.ofBits r.a; pure (.ldqe r.hdr ty d a r.imm)) := by unfold build; rw [ho]; rfl
theorem arm_0x2C2 (ho : r.opc = 0x2C2) : build r = (do let a ← Opnd.ofBits r.a; pure (.tmset r.hdr a r.imm)) := by unfold build; rw [ho]; rfl
theorem arm_0x300 (ho : r.opc = 0x300) : build r = (do let a ← Opnd.ofBits r.a; pure (.trap r.hdr a r.imm)) := by unfold build; rw [ho]; rfl
theorem arm_0x301 (ho : r.opc = 0x301) : build r = (
    if r.sub.toNat = 0 then some (.rtiRe r.hdr)
    else if r.sub.toNat = 1 then some (.rtiNext r.hdr)
    else if r.sub.toNat = 2 then some (.rtiDrop r.hdr)
    else none) := by unfold build; rw [ho]; rfl
theorem arm_0x302 (ho : r.opc = 0x302) : build r = (some (.region r.hdr)) := by unfold build; rw [ho]; rfl
theorem arm_0x303 (ho : r.opc = 0x303) : build r = (some (.ppoint r.hdr)) := by unfold build; rw [ho]; rfl
theorem arm_0x304 (ho : r.opc = 0x304) : build r = (some (.brk r.hdr r.sub)) := by unfold build; rw [ho]; rfl
theorem arm_0x305 (ho : r.opc = 0x305) : build r = (do let a ← Opnd.ofBits r.a; pure (.sleep r.hdr a r.imm)) := by unfold build; rw [ho]; rfl
theorem arm_0x340 (ho : r.opc = 0x340) : build r = (do let a ← Opnd.ofBits r.a; pure (.xput r.hdr a)) := by unfold build; rw [ho]; rfl
theorem arm_0x341 (ho : r.opc = 0x341) : build r = (do let a ← Opnd.ofBits r.a; pure (.xget r.hdr a)) := by unfold build; rw [ho]; rfl
theorem arm_0x342 (ho : r.opc = 0x342) : build r = (do let ty ← Ty.ofCode r.ty; let a ← Opnd.ofBits r.a; let b ← Opnd.ofBits r.b; pure (.xatom r.hdr ty r.sub a b r.mw)) := by unfold build; rw [ho]; rfl
theorem arm_0x343 (ho : r.opc = 0x343) : build r = (do let a ← Opnd.ofBits r.a; let b ← Opnd.ofBits r.b; pure (.xstx r.hdr r.sub a b r.mw)) := by unfold build; rw [ho]; rfl

end

/-! ### The instructions -/

theorem nop (h) : Statement (.nop h) := of_word rfl ((arm_0x000 rfl).trans (by simp))
theorem bra (h imm) : Statement (.bra h imm) := of_word rfl ((arm_0x001 rfl).trans (by simp))
theorem brx (h a) : Statement (.brx h a) := of_word rfl ((arm_0x002 rfl).trans (by simp))
theorem call (h d imm) : Statement (.call h d imm) := of_word rfl ((arm_0x003 rfl).trans (by simp))
theorem ret (h a) : Statement (.ret h a) := of_word rfl ((arm_0x004 rfl).trans (by simp))
theorem exit (h) : Statement (.exit h) := of_word rfl ((arm_0x005 rfl).trans (by simp))
theorem yieldTo (h) : Statement (.yieldTo h) := of_word rfl ((arm_0x006 rfl).trans (by simp))
theorem gsync (h) : Statement (.gsync h) := of_word rfl ((arm_0x007 rfl).trans (by simp))
theorem meet (h imm) : Statement (.meet h imm) := of_word rfl ((arm_0x008 rfl).trans (by simp))
theorem meetg (h a imm) : Statement (.meetg h a imm) := of_word rfl ((arm_0x009 rfl).trans (by simp))
theorem unmeet (h) : Statement (.unmeet h) := of_word rfl ((arm_0x00A rfl).trans (by simp))
theorem dispatch (h a b) : Statement (.dispatch h a b) := of_word rfl ((arm_0x00B rfl).trans (by simp))
theorem gld (h ty d a imm) : Statement (.gld h ty d a imm) := of_word rfl ((arm_0x00C rfl).trans (by simp))
theorem gadv (h a imm) : Statement (.gadv h a imm) := of_word rfl ((arm_0x00D rfl).trans (by simp))
theorem gset (h a imm) : Statement (.gset h a imm) := of_word rfl ((arm_0x00E rfl).trans (by simp))
theorem gsetLeave (h a imm) : Statement (.gsetLeave h a imm) := of_word rfl ((arm_0x00E rfl).trans (by simp))
theorem mcall (h d a b c p4 p5 p6 p7 m) : Statement (.mcall h d a b c p4 p5 p6 p7 m) := of_word rfl (by
  obtain ⟨h1, h2, h3, h4, h5, h6⟩ := Raw.mcall_of (r := Raw.mk' h 0x00F d.bits a.bits b.bits (m ++ p7 ++ p6 ++ p5 ++ p4 ++ c.bits)) rfl
  rw [arm_0x00F rfl, h1, h2, h3, h4, h5, h6]; simp)
theorem iadd (h ty sat d a b imm) : Statement (.iadd h ty sat d a b imm) := of_word rfl ((arm_0x040 rfl).trans (by simp))
theorem isub (h ty sat d a b imm) : Statement (.isub h ty sat d a b imm) := of_word rfl ((arm_0x041 rfl).trans (by simp))
theorem imul (h ty sat d a b imm) : Statement (.imul h ty sat d a b imm) := of_word rfl ((arm_0x042 rfl).trans (by simp))
theorem imulh (h ty d a b imm) : Statement (.imulh h ty d a b imm) := of_word rfl ((arm_0x043 rfl).trans (by simp))
theorem imad (h ty sat d a b c) : Statement (.imad h ty sat d a b c) := of_word rfl ((arm_0x044 rfl).trans (by simp))
theorem idiv (h ty d a b imm) : Statement (.idiv h ty d a b imm) := of_word rfl ((arm_0x045 rfl).trans (by simp))
theorem irem (h ty d a b imm) : Statement (.irem h ty d a b imm) := of_word rfl ((arm_0x046 rfl).trans (by simp))
theorem imin (h ty d a b imm) : Statement (.imin h ty d a b imm) := of_word rfl ((arm_0x047 rfl).trans (by simp))
theorem imax (h ty d a b imm) : Statement (.imax h ty d a b imm) := of_word rfl ((arm_0x048 rfl).trans (by simp))
theorem iabs (h ty sat d a imm) : Statement (.iabs h ty sat d a imm) := of_word rfl ((arm_0x049 rfl).trans (by simp))
theorem ineg (h ty sat d a imm) : Statement (.ineg h ty sat d a imm) := of_word rfl ((arm_0x04A rfl).trans (by simp))
theorem and (h ty d a b imm) : Statement (.and h ty d a b imm) := of_word rfl ((arm_0x04B rfl).trans (by simp))
theorem or (h ty d a b imm) : Statement (.or h ty d a b imm) := of_word rfl ((arm_0x04C rfl).trans (by simp))
theorem xor (h ty d a b imm) : Statement (.xor h ty d a b imm) := of_word rfl ((arm_0x04D rfl).trans (by simp))
theorem not (h ty d a imm) : Statement (.not h ty d a imm) := of_word rfl ((arm_0x04E rfl).trans (by simp))
theorem andn (h ty d a b imm) : Statement (.andn h ty d a b imm) := of_word rfl ((arm_0x04F rfl).trans (by simp))
theorem shl (h ty d a b imm) : Statement (.shl h ty d a b imm) := of_word rfl ((arm_0x050 rfl).trans (by simp))
theorem shr (h ty d a b imm) : Statement (.shr h ty d a b imm) := of_word rfl ((arm_0x051 rfl).trans (by simp))
theorem sar (h ty d a b imm) : Statement (.sar h ty d a b imm) := of_word rfl ((arm_0x052 rfl).trans (by simp))
theorem rol (h ty d a b imm) : Statement (.rol h ty d a b imm) := of_word rfl ((arm_0x053 rfl).trans (by simp))
theorem popc (h ty d a imm) : Statement (.popc h ty d a imm) := of_word rfl ((arm_0x054 rfl).trans (by simp))
theorem clz (h ty d a imm) : Statement (.clz h ty d a imm) := of_word rfl ((arm_0x055 rfl).trans (by simp))
theorem ctz (h ty d a imm) : Statement (.ctz h ty d a imm) := of_word rfl ((arm_0x056 rfl).trans (by simp))
theorem brev (h ty d a imm) : Statement (.brev h ty d a imm) := of_word rfl ((arm_0x057 rfl).trans (by simp))
theorem bswap (h ty d a imm) : Statement (.bswap h ty d a imm) := of_word rfl ((arm_0x058 rfl).trans (by simp))
theorem bfx (h ty d a b imm) : Statement (.bfx h ty d a b imm) := of_word rfl ((arm_0x059 rfl).trans (by simp))
theorem bfi (h ty d a b c) : Statement (.bfi h ty d a b c) := of_word rfl ((arm_0x05A rfl).trans (by simp))
theorem icmp (h ty sub d a b imm) : Statement (.icmp h ty sub d a b imm) := of_word rfl ((arm_0x05B rfl).trans (by simp))
theorem sel (h ty d a b c) : Statement (.sel h ty d a b c) := of_word rfl ((arm_0x05C rfl).trans (by simp))
theorem mov (h ty d a imm) : Statement (.mov h ty d a imm) := of_word rfl ((arm_0x080 rfl).trans (by simp))
theorem rdsp (h d a) : Statement (.rdsp h d a) := of_word rfl ((arm_0x081 rfl).trans (by simp))
theorem wrsp (h a b imm) : Statement (.wrsp h a b imm) := of_word rfl ((arm_0x082 rfl).trans (by simp))
theorem plop (h sub d a b) : Statement (.plop h sub d a b) := of_word rfl ((arm_0x083 rfl).trans (by simp))
theorem p2v (h d) : Statement (.p2v h d) := of_word rfl ((arm_0x084 rfl).trans (by simp))
theorem v2p (h a b imm) : Statement (.v2p h a b imm) := of_word rfl ((arm_0x085 rfl).trans (by simp))
theorem rdfirst (h ty d a) : Statement (.rdfirst h ty d a) := of_word rfl ((arm_0x086 rfl).trans (by simp))
theorem fadd (h ty mod d a b imm) : Statement (.fadd h ty mod d a b imm) := of_word rfl ((arm_0x0C0 rfl).trans (by simp))
theorem fsub (h mod d a b imm) : Statement (.fsub h mod d a b imm) := of_word rfl ((arm_0x0C1 rfl).trans (by simp))
theorem fmul (h ty mod d a b imm) : Statement (.fmul h ty mod d a b imm) := of_word rfl ((arm_0x0C2 rfl).trans (by simp))
theorem ffma (h ty mod d a b c) : Statement (.ffma h ty mod d a b c) := of_word rfl ((arm_0x0C3 rfl).trans (by simp))
theorem fmin (h ty d a b imm) : Statement (.fmin h ty d a b imm) := of_word rfl ((arm_0x0C4 rfl).trans (by simp))
theorem fmax (h ty d a b imm) : Statement (.fmax h ty d a b imm) := of_word rfl ((arm_0x0C5 rfl).trans (by simp))
theorem fabs (h ty d a imm) : Statement (.fabs h ty d a imm) := of_word rfl ((arm_0x0C6 rfl).trans (by simp))
theorem fneg (h ty d a imm) : Statement (.fneg h ty d a imm) := of_word rfl ((arm_0x0C7 rfl).trans (by simp))
theorem fcmp (h sub d a b imm) : Statement (.fcmp h sub d a b imm) := of_word rfl ((arm_0x0C8 rfl).trans (by simp))
theorem fcls (h ty d a imm) : Statement (.fcls h ty d a imm) := of_word rfl ((arm_0x0C9 rfl).trans (by simp))
theorem fdiv (h mod d a b imm) : Statement (.fdiv h mod d a b imm) := of_word rfl ((arm_0x0CA rfl).trans (by simp))
theorem fsqrt (h mod d a imm) : Statement (.fsqrt h mod d a imm) := of_word rfl ((arm_0x0CB rfl).trans (by simp))
theorem frcp (h d a imm) : Statement (.frcp h d a imm) := of_word rfl ((arm_0x0CC rfl).trans (by simp))
theorem frsq (h d a imm) : Statement (.frsq h d a imm) := of_word rfl ((arm_0x0CD rfl).trans (by simp))
theorem fexp2 (h d a imm) : Statement (.fexp2 h d a imm) := of_word rfl ((arm_0x0CE rfl).trans (by simp))
theorem flog2 (h d a imm) : Statement (.flog2 h d a imm) := of_word rfl ((arm_0x0CF rfl).trans (by simp))
theorem ftanh (h d a imm) : Statement (.ftanh h d a imm) := of_word rfl ((arm_0x0D0 rfl).trans (by simp))
theorem frnd (h mod d a imm) : Statement (.frnd h mod d a imm) := of_word rfl ((arm_0x0D1 rfl).trans (by simp))
theorem cvt (h ty sty mod sat d a b imm) : Statement (.cvt h ty sty mod sat d a b imm) := of_word rfl ((arm_0x0D2 rfl).trans (by simp))
theorem bxq (h sub d a) : Statement (.bxq h sub d a) := of_word rfl ((arm_0x0D3 rfl).trans (by simp))
theorem bxd (h sub d a b imm) : Statement (.bxd h sub d a b imm) := of_word rfl ((arm_0x0D4 rfl).trans (by simp))
theorem fdot2 (h ty mod d a b c) : Statement (.fdot2 h ty mod d a b c) := of_word rfl ((arm_0x0D5 rfl).trans (by simp))
theorem shfl (h ty mod sub d a b imm) : Statement (.shfl h ty mod sub d a b imm) := of_word rfl ((arm_0x100 rfl).trans (by simp))
theorem qswap (h ty sub d a) : Statement (.qswap h ty sub d a) := of_word rfl ((arm_0x101 rfl).trans (by simp))
theorem qbcast (h ty d a b imm) : Statement (.qbcast h ty d a b imm) := of_word rfl ((arm_0x102 rfl).trans (by simp))
theorem ballot (h d a) : Statement (.ballot h d a) := of_word rfl ((arm_0x103 rfl).trans (by simp))
theorem vote (h sub d a) : Statement (.vote h sub d a) := of_word rfl ((arm_0x104 rfl).trans (by simp))
theorem matchLanes (h ty d a) : Statement (.matchLanes h ty d a) := of_word rfl ((arm_0x105 rfl).trans (by simp))
theorem scan (h ty mod sub d a imm) : Statement (.scan h ty mod sub d a imm) := of_word rfl ((arm_0x106 rfl).trans (by simp))
theorem redux (h ty mod sub d a imm) : Statement (.redux h ty mod sub d a imm) := of_word rfl ((arm_0x107 rfl).trans (by simp))
theorem elect (h d) : Statement (.elect h d) := of_word rfl ((arm_0x108 rfl).trans (by simp))
theorem lds (h ty mod d a b imm) : Statement (.lds h ty mod d a b imm) := of_word rfl ((arm_0x140 rfl).trans (by simp))
theorem sts (h ty mod d a b imm) : Statement (.sts h ty mod d a b imm) := of_word rfl ((arm_0x141 rfl).trans (by simp))
theorem ldh (h ty mod d a b imm) : Statement (.ldh h ty mod d a b imm) := of_word rfl ((arm_0x142 rfl).trans (by simp))
theorem sth (h ty mod d a b imm) : Statement (.sth h ty mod d a b imm) := of_word rfl ((arm_0x143 rfl).trans (by simp))
theorem spzero (h a b imm) : Statement (.spzero h a b imm) := of_word rfl ((arm_0x144 rfl).trans (by simp))
theorem tlook (h d a imm) : Statement (.tlook h d a imm) := of_word rfl ((arm_0x145 rfl).trans (by simp))
theorem tins (h d a imm) : Statement (.tins h d a imm) := of_word rfl ((arm_0x146 rfl).trans (by simp))
theorem tinv (h d a imm) : Statement (.tinv h d a imm) := of_word rfl ((arm_0x147 rfl).trans (by simp))
theorem tmark (h a b imm) : Statement (.tmark h a b imm) := of_word rfl ((arm_0x148 rfl).trans (by simp))
theorem hgive (h a b imm) : Statement (.hgive h a b imm) := of_word rfl ((arm_0x149 rfl).trans (by simp))
theorem hgiveNew (h d a b imm) : Statement (.hgiveNew h d a b imm) := of_word rfl ((arm_0x149 rfl).trans (by simp))
theorem hgiveRetire (h a) : Statement (.hgiveRetire h a) := of_word rfl ((arm_0x149 rfl).trans (by simp))
theorem htake (h a) : Statement (.htake h a) := of_word rfl ((arm_0x14A rfl).trans (by simp))
theorem hqry (h d a) : Statement (.hqry h d a) := of_word rfl ((arm_0x14B rfl).trans (by simp))
theorem ld (h ty mod d a b mw ofs) : Statement (.ld h ty mod d a b mw ofs) := of_word rfl ((arm_0x180 rfl).trans (by simp))
theorem st (h ty mod d a b mw ofs) : Statement (.st h ty mod d a b mw ofs) := of_word rfl ((arm_0x181 rfl).trans (by simp))
theorem pf (h mod a b mw ofs) : Statement (.pf h mod a b mw ofs) := of_word rfl ((arm_0x182 rfl).trans (by simp))
theorem fence (h sub mw) : Statement (.fence h sub mw) := of_word rfl ((arm_0x183 rfl).trans (by simp))
theorem atom (h ty mod sub d a b c mw ofs10) : Statement (.atom h ty mod sub d a b c mw ofs10) := of_word rfl ((arm_0x184 rfl).trans (by simp))
theorem red (h ty mod sub d a b mw ofs) : Statement (.red h ty mod sub d a b mw ofs) := of_word rfl ((arm_0x185 rfl).trans (by simp))
theorem stx (h mod sub d a b c mw ofs10) : Statement (.stx h mod sub d a b c mw ofs10) := of_word rfl ((arm_0x1C0 rfl).trans (by simp))
theorem stinit (h mod d a b c mw ofs10) : Statement (.stinit h mod d a b c mw ofs10) := of_word rfl ((arm_0x1C1 rfl).trans (by simp))
theorem stqry (h mod sub d a b mw ofs) : Statement (.stqry h mod sub d a b mw ofs) := of_word rfl ((arm_0x1C2 rfl).trans (by simp))
theorem stload (h mod sub a) : Statement (.stload h mod sub a) := of_word rfl ((arm_0x1C3 rfl).trans (by simp))
theorem binit (h a b imm) : Statement (.binit h a b imm) := of_word rfl ((arm_0x200 rfl).trans (by simp))
theorem barrive (h a imm) : Statement (.barrive h a imm) := of_word rfl ((arm_0x201 rfl).trans (by simp))
theorem barrivePh (h d a imm) : Statement (.barrivePh h d a imm) := of_word rfl ((arm_0x201 rfl).trans (by simp))
theorem bwait (h a b imm) : Statement (.bwait h a b imm) := of_word rfl ((arm_0x202 rfl).trans (by simp))
theorem bsync (h a imm) : Statement (.bsync h a imm) := of_word rfl ((arm_0x203 rfl).trans (by simp))
theorem bexpect (h a b imm) : Statement (.bexpect h a b imm) := of_word rfl ((arm_0x204 rfl).trans (by simp))
theorem bqry (h d a imm) : Statement (.bqry h d a imm) := of_word rfl ((arm_0x205 rfl).trans (by simp))
theorem qinit (h a b imm) : Statement (.qinit h a b imm) := of_word rfl ((arm_0x208 rfl).trans (by simp))
theorem qpush (h a b imm) : Statement (.qpush h a b imm) := of_word rfl ((arm_0x209 rfl).trans (by simp))
theorem qpop (h d a imm) : Statement (.qpop h d a imm) := of_word rfl ((arm_0x20A rfl).trans (by simp))
theorem qtry (h d a imm) : Statement (.qtry h d a imm) := of_word rfl ((arm_0x20B rfl).trans (by simp))
theorem qallow (h a b c) : Statement (.qallow h a b c) := of_word rfl ((arm_0x20C rfl).trans (by simp))
theorem cpy (h d a) : Statement (.cpy h d a) := of_word rfl ((arm_0x240 rfl).trans (by simp))
theorem cpyt (h d a b imm) : Statement (.cpyt h d a b imm) := of_word rfl ((arm_0x241 rfl).trans (by simp))
theorem cpwp (h d a imm) : Statement (.cpwp h d a imm) := of_word rfl ((arm_0x242 rfl).trans (by simp))
theorem cpwait (h a b imm) : Statement (.cpwait h a b imm) := of_word rfl ((arm_0x243 rfl).trans (by simp))
theorem cpfence (h a imm) : Statement (.cpfence h a imm) := of_word rfl ((arm_0x244 rfl).trans (by simp))
theorem mcfg (h mod sub) : Statement (.mcfg h mod sub) := of_word rfl ((arm_0x280 rfl).trans (by simp))
theorem mldb (h bar arv sub a b imm) : Statement (.mldb h bar arv sub a b imm) := of_word rfl ((arm_0x281 rfl).trans (by simp))
theorem mmb (h bar arv sub a b imm) : Statement (.mmb h bar arv sub a b imm) := of_word rfl ((arm_0x282 rfl).trans (by simp))
theorem scacc (h sub a imm) : Statement (.scacc h sub a imm) := of_word rfl ((arm_0x283 rfl).trans (by simp))
theorem mzero (h sub) : Statement (.mzero h sub) := of_word rfl ((arm_0x284 rfl).trans (by simp))
theorem mldc (h sub a b imm) : Statement (.mldc h sub a b imm) := of_word rfl ((arm_0x285 rfl).trans (by simp))
theorem mdrain (h bar mod arv sub a b imm) : Statement (.mdrain h bar mod arv sub a b imm) := of_word rfl ((arm_0x286 rfl).trans (by simp))
theorem merr (h d a imm) : Statement (.merr h d a imm) := of_word rfl ((arm_0x287 rfl).trans (by simp))
theorem merrClr (h) : Statement (.merrClr h) := of_word rfl ((arm_0x287 rfl).trans (by simp))
theorem enq (h d a) : Statement (.enq h d a) := of_word rfl ((arm_0x2C0 rfl).trans (by simp))
theorem ldqe (h ty d a imm) : Statement (.ldqe h ty d a imm) := of_word rfl ((arm_0x2C1 rfl).trans (by simp))
theorem tmset (h a imm) : Statement (.tmset h a imm) := of_word rfl ((arm_0x2C2 rfl).trans (by simp))
theorem trap (h a imm) : Statement (.trap h a imm) := of_word rfl ((arm_0x300 rfl).trans (by simp))
theorem rtiRe (h) : Statement (.rtiRe h) := of_word rfl ((arm_0x301 rfl).trans (by simp))
theorem rtiNext (h) : Statement (.rtiNext h) := of_word rfl ((arm_0x301 rfl).trans (by simp))
theorem rtiDrop (h) : Statement (.rtiDrop h) := of_word rfl ((arm_0x301 rfl).trans (by simp))
theorem region (h) : Statement (.region h) := of_word rfl ((arm_0x302 rfl).trans (by simp))
theorem ppoint (h) : Statement (.ppoint h) := of_word rfl ((arm_0x303 rfl).trans (by simp))
theorem brk (h sub) : Statement (.brk h sub) := of_word rfl ((arm_0x304 rfl).trans (by simp))
theorem sleep (h a imm) : Statement (.sleep h a imm) := of_word rfl ((arm_0x305 rfl).trans (by simp))
theorem xput (h a) : Statement (.xput h a) := of_word rfl ((arm_0x340 rfl).trans (by simp))
theorem xget (h a) : Statement (.xget h a) := of_word rfl ((arm_0x341 rfl).trans (by simp))
theorem xatom (h ty sub a b mw) : Statement (.xatom h ty sub a b mw) := of_word rfl ((arm_0x342 rfl).trans (by simp))
theorem xstx (h sub a b mw) : Statement (.xstx h sub a b mw) := of_word rfl ((arm_0x343 rfl).trans (by simp))
theorem trapEntry (x0 x1) : Statement (.trapEntry x0 x1) := of_event rfl
theorem longLatencyResult (x0 x1 x2 x3) : Statement (.longLatencyResult x0 x1 x2 x3) := of_event rfl
theorem rebundle (x0 x1 x2) : Statement (.rebundle x0 x1 x2) := of_event rfl
theorem holdLimitExpiry (x0 x1) : Statement (.holdLimitExpiry x0 x1) := of_event rfl
theorem gatherWindowExpiry (x0 x1) : Statement (.gatherWindowExpiry x0 x1) := of_event rfl
theorem workgroupPlacement (x0 x1 x2 x3) : Statement (.workgroupPlacement x0 x1 x2 x3) := of_event rfl
theorem workgroupEnd (x0) : Statement (.workgroupEnd x0) := of_event rfl
theorem admissionDecision (x0) : Statement (.admissionDecision x0) := of_event rfl
theorem coreGrant (x0) : Statement (.coreGrant x0) := of_event rfl
theorem distributorSteal (x0 x1 x2 x3) : Statement (.distributorSteal x0 x1 x2 x3) := of_event rfl
theorem coreTakeBack (x0 x1) : Statement (.coreTakeBack x0 x1) := of_event rfl
theorem politeWithdrawal (x0) : Statement (.politeWithdrawal x0) := of_event rfl
theorem politeSave (x0) : Statement (.politeSave x0) := of_event rfl
theorem politeWindowEnd (x0) : Statement (.politeWindowEnd x0) := of_event rfl
theorem freeze (x0) : Statement (.freeze x0) := of_event rfl
theorem killTimeout (x0) : Statement (.killTimeout x0) := of_event rfl
theorem contextKill (x0) : Statement (.contextKill x0) := of_event rfl
theorem budgetFold (x0) : Statement (.budgetFold x0) := of_event rfl
theorem overrunWindowExpiry (x0 x1) : Statement (.overrunWindowExpiry x0 x1) := of_event rfl
theorem deadlineKill (x0 x1) : Statement (.deadlineKill x0 x1) := of_event rfl
theorem entryCompletion (x0 x1) : Statement (.entryCompletion x0 x1) := of_event rfl
theorem timerExpiry (x0) : Statement (.timerExpiry x0) := of_event rfl
theorem sleepEnd (x0 x1) : Statement (.sleepEnd x0 x1) := of_event rfl
theorem wcbLineDrain (x0 x1) : Statement (.wcbLineDrain x0 x1) := of_event rfl
theorem storePerform (x0 x1 x2) : Statement (.storePerform x0 x1 x2) := of_event rfl
theorem combiningEntrySend (x0 x1) : Statement (.combiningEntrySend x0 x1) := of_event rfl
theorem atomicAtHome (x0) : Statement (.atomicAtHome x0) := of_event rfl
theorem granuleClearDone (x0) : Statement (.granuleClearDone x0) := of_event rfl
theorem patrolScrub (x0) : Statement (.patrolScrub x0) := of_event rfl
theorem faultRecordRetry (x0 x1) : Statement (.faultRecordRetry x0 x1) := of_event rfl
theorem pageMappedWake (x0 x1) : Statement (.pageMappedWake x0 x1) := of_event rfl
theorem faultTimeout (x0 x1) : Statement (.faultTimeout x0 x1) := of_event rfl
theorem translationInvalidate (x0) : Statement (.translationInvalidate x0) := of_event rfl
theorem stagedTransition (x0) : Statement (.stagedTransition x0) := of_event rfl
theorem chainedTransition (x0) : Statement (.chainedTransition x0) := of_event rfl
theorem parkWake (x0 x1) : Statement (.parkWake x0 x1) := of_event rfl
theorem parkTableRetry (x0 x1) : Statement (.parkTableRetry x0 x1) := of_event rfl
theorem copyChunk (x0 x1) : Statement (.copyChunk x0 x1) := of_event rfl
theorem copyCompletion (x0 x1) : Statement (.copyCompletion x0 x1) := of_event rfl
theorem anvilInstructionDone (x0) : Statement (.anvilInstructionDone x0) := of_event rfl
theorem linkReqReceived (x0 x1) : Statement (.linkReqReceived x0 x1) := of_event rfl
theorem linkRespReceived (x0 x1) : Statement (.linkRespReceived x0 x1) := of_event rfl
theorem linkAckReceived (x0 x1) : Statement (.linkAckReceived x0 x1) := of_event rfl
theorem linkNakReceived (x0 x1) : Statement (.linkNakReceived x0 x1) := of_event rfl
theorem linkAckTimer (x0 x1 x2) : Statement (.linkAckTimer x0 x1 x2) := of_event rfl
theorem linkRetxTimeout (x0 x1 x2) : Statement (.linkRetxTimeout x0 x1 x2) := of_event rfl
theorem linkStreamTimeout (x0 x1 x2) : Statement (.linkStreamTimeout x0 x1 x2) := of_event rfl
theorem kick (x0 x1) : Statement (.kick x0 x1) := of_event rfl
theorem slotFetch (x0 x1) : Statement (.slotFetch x0 x1) := of_event rfl
theorem mappingPass (x0) : Statement (.mappingPass x0) := of_event rfl
theorem queueAgeStep (x0 x1) : Statement (.queueAgeStep x0 x1) := of_event rfl
theorem qcbPageOut (x0 x1 x2) : Statement (.qcbPageOut x0 x1 x2) := of_event rfl
theorem qcbPageIn (x0 x1) : Statement (.qcbPageIn x0 x1) := of_event rfl
theorem watchdogExpiry (x0) : Statement (.watchdogExpiry x0) := of_event rfl
theorem stateTableWrite (x0) : Statement (.stateTableWrite x0) := of_event rfl
theorem liveUpdate (x0 x1 x2 x3) : Statement (.liveUpdate x0 x1 x2 x3) := of_event rfl
theorem monitorSetParams (x0 x1) : Statement (.monitorSetParams x0 x1) := of_event rfl
theorem monitorServiceFault (x0 x1 x2) : Statement (.monitorServiceFault x0 x1 x2) := of_event rfl
theorem debugWrite (x0 x1 x2) : Statement (.debugWrite x0 x1 x2) := of_event rfl
theorem attestationReport (x0 x1) : Statement (.attestationReport x0 x1) := of_event rfl
theorem contextMigration (x0 x1) : Statement (.contextMigration x0 x1) := of_event rfl
theorem partitionReset (x0) : Statement (.partitionReset x0) := of_event rfl
theorem coldReset : Statement (.coldReset) := of_event rfl
theorem warmReset : Statement (.warmReset) := of_event rfl
theorem bringUpPhase (x0 x1) : Statement (.bringUpPhase x0 x1) := of_event rfl
theorem monitorSample (x0) : Statement (.monitorSample x0) := of_event rfl
theorem refClockLoss : Statement (.refClockLoss) := of_event rfl
theorem hearthMemoryError (x0) : Statement (.hearthMemoryError x0) := of_event rfl
theorem hostCompletionTimeout (x0 x1 x2) : Statement (.hostCompletionTimeout x0 x1 x2) := of_event rfl
theorem farRequestTimeout (x0 x1 x2) : Statement (.farRequestTimeout x0 x1 x2) := of_event rfl
theorem piece : Statement (.piece) := of_event rfl
theorem start : Statement (.start) := of_event rfl
theorem abort : Statement (.abort) := of_event rfl
theorem recoveryPieceCopied : Statement (.recoveryPieceCopied) := of_event rfl
theorem recoveryVerifyDone : Statement (.recoveryVerifyDone) := of_event rfl
theorem registerWrite (x0 x1) : Statement (.registerWrite x0 x1) := of_event rfl
theorem queueCreate (x0 x1 x2) : Statement (.queueCreate x0 x1 x2) := of_event rfl
theorem queueDestroy (x0 x1) : Statement (.queueDestroy x0 x1) := of_event rfl
theorem regionRegister (x0 x1 x2) : Statement (.regionRegister x0 x1 x2) := of_event rfl
theorem regionRevoke (x0 x1) : Statement (.regionRevoke x0 x1) := of_event rfl
theorem pageTableEntryChange (x0 x1 x2 x3) : Statement (.pageTableEntryChange x0 x1 x2 x3) := of_event rfl
theorem contextCreate (x0 x1 x2 x3 x4) : Statement (.contextCreate x0 x1 x2 x3 x4) := of_event rfl
theorem exportTableWrite (x0 x1 x2) : Statement (.exportTableWrite x0 x1 x2) := of_event rfl
theorem peerTableWrite (x0 x1 x2) : Statement (.peerTableWrite x0 x1 x2) := of_event rfl
theorem partitionSetup (x0 x1) : Statement (.partitionSetup x0 x1) := of_event rfl
theorem linkChunkSend (x0 x1) : Statement (.linkChunkSend x0 x1) := of_event rfl

end Sys2Proof.Laws.RoundTrip
end

