-- ==== Sys2Proof/Laws/Results.lean ====
section
/-!
SUPPORT. Results.lean: what an instruction that computes registers or predicates from registers does, said once for each frame
(06 R100, 07 R119).
-/
namespace Sys2Proof.Machine
open Sys2Proof.Claims

/-! ### Register writes -/

theorem Wg.modTh_modTh (g : Wg) (t : Nat) (f k : Thread → Thread) : (g.modTh t f).modTh t k = g.modTh t (fun th => k (f th)) := by
  simp only [Wg.modTh_eq_mapTh, Wg.mapTh_mapTh]
  congr 1; funext u th
  by_cases h : u = t <;> simp [h]

@[simp] theorem Wg.modTh_id (g : Wg) (t : Nat) : g.modTh t (fun th => th) = g := by
  simp [Wg.modTh_eq_mapTh]

/-- A workgroup with each group's registers changed by its number. -/
theorem Wg.modGroup_eq (g : Wg) (k : Nat) (f : Group → Group) :
    g.modGroup k f = g.mapBoth (fun _ th => th) (fun j x => if j = k then f x else x) := by
  have h1 : g.threads.mapIdx (fun _ th => th) = g.threads := List.ext_getElem? (fun i => by simp)
  have h2 : g.groups.set k (f (getGroup g k)) = g.groups.mapIdx (fun j x => if j = k then f x else x) := by
    apply List.ext_getElem?
    intro i
    rw [List.getElem?_set, List.getElem?_mapIdx]
    by_cases hi : k = i
    · subst hi
      by_cases ht : k < g.groups.length
      · simp [ht, getGroup, List.getD_eq_getElem?_getD]
      · simp [ht]
    · rw [if_neg hi]
      cases g.groups[i]? <;> simp [Ne.symm hi]
  simp only [Wg.modGroup, Wg.mapBoth, h1, h2]

theorem Wg.modGroup_modGroup (g : Wg) (k : Nat) (f f' : Group → Group) :
    (g.modGroup k f).modGroup k f' = g.modGroup k (fun x => f' (f x)) := by
  simp only [Wg.modGroup_eq, Wg.mapBoth_mapBoth]
  congr 1; funext j x
  by_cases h : j = k <;> simp [h]

theorem writeAll_vector (g : Wg) (t n : Nat) (vals : List Word) :
    g.writeAll t (vals.mapIdx (fun i x => { uni := false, reg := n + i, val := x })) = g.modTh t (fun th => putV th n vals) := by
  induction vals generalizing g n with
  | nil => simp [Wg.writeAll, putV]
  | cons x xs ih =>
    have := ih (g.modTh t (fun th => th.wv n x)) (n + 1)
    simp only [Wg.writeAll, List.mapIdx_cons, List.foldl_cons, Wg.write] at this ⊢
    simp only [Nat.add_zero, Nat.add_assoc, Nat.add_comm 1] at this ⊢
    simp only [Bool.false_eq_true, if_false]
    rw [this, Wg.modTh_modTh]; rfl

theorem writeAll_uniform (g : Wg) (t n : Nat) (vals : List Word) :
    g.writeAll t (vals.mapIdx (fun i x => { uni := true, reg := n + i, val := x })) =
      g.modGroup (grpOf t) (fun x => putU x n vals) := by
  induction vals generalizing g n with
  | nil =>
    rw [Wg.modGroup_eq]
    simp [Wg.writeAll, putU]
  | cons x xs ih =>
    have := ih (g.modGroup (grpOf t) (fun y => y.wu n x)) (n + 1)
    simp only [Wg.writeAll, List.mapIdx_cons, List.foldl_cons, Wg.write] at this ⊢
    simp only [Nat.add_zero, Nat.add_assoc, Nat.add_comm 1] at this ⊢
    simp only [if_true]
    rw [this, Wg.modGroup_modGroup]; rfl

/-- The writes of a result to a destination that is no uniform register. -/
theorem writeAll_regWrites_vector (g : Wg) (t : Nat) (d : Opnd) (vals : List Word) (hd : isUni d = false) :
    g.writeAll t (regWrites d vals) = g.modTh t (gotV d vals) := by
  cases d <;> simp only [isUni, Bool.true_eq_false] at hd <;>
    first | exact writeAll_vector g t _ vals | exact (Wg.modTh_id g t).symm

/-- The writes of a result to a destination that is a uniform register. -/
theorem writeAll_regWrites_uniform (g : Wg) (t : Nat) (d : Opnd) (vals : List Word) (hd : isUni d = true) :
    g.writeAll t (regWrites d vals) = g.modGroup (grpOf t) (gotU d vals) := by
  cases d <;> simp only [isUni, Bool.false_eq_true] at hd
  exact writeAll_uniform g t _ vals

theorem orFlags_eq (h : Hdr) (fl : Word) (g : Wg) (t : Nat) : orFlags h fl g t = g.modTh t (raised h fl) := by
  have : raised h fl = if h.nf then (fun th => th) else (fun th => { th with fflags := th.fflags ||| fl }) := by
    funext th; unfold raised; split <;> rfl
  rw [orFlags, this]
  split
  · rw [Wg.modTh_id]
  · rfl

theorem foldl_orFlags (h : Hdr) (fl : Word) (g : Wg) (al : List Nat) (hn : al.Nodup) :
    al.foldl (orFlags h fl) g = g.mapTh (fun u th => if u ∈ al then raised h fl th else th) := by
  induction al generalizing g with
  | nil => simp
  | cons t al ih =>
    obtain ⟨h1, h2⟩ := List.nodup_cons.1 hn
    rw [List.foldl_cons, ih _ h2, orFlags_eq, Wg.modTh_eq_mapTh, Wg.mapTh_mapTh]
    congr 1; funext u th
    by_cases hu : u = t
    · subst hu; simp [h1]
    · simp [hu]

/-! ### Active lanes -/

theorem mem_acting {h : Hdr} {helpers : Bool} {s : State} {u : Nat} :
    u ∈ acting h helpers s ↔ u ∈ s.bundle.lanes ∧ activeIn h helpers (lane s u) = true := List.mem_filter

theorem mem_actingIn {h : Hdr} {helpers : Bool} {s : State} {k u : Nat} :
    u ∈ actingIn h helpers s k ↔ u ∈ acting h helpers s ∧ grpOf u = k := by simp [actingIn]

theorem acting_nodup {h : Hdr} {helpers : Bool} {s : State} (hr : Rising s.bundle.lanes) : (acting h helpers s).Nodup :=
  (hr.imp (fun h => Nat.ne_of_lt h)).sublist List.filter_sublist

theorem actingIn_nodup {h : Hdr} {helpers : Bool} {s : State} {k : Nat} (hr : Rising s.bundle.lanes) :
    (actingIn h helpers s k).Nodup := (acting_nodup hr).sublist List.filter_sublist

theorem source_uni {h : Hdr} {helpers : Bool} {s : State} {d : Opnd} {u : Nat} (hd : isUni d = true) :
    source h helpers s d u = (actingIn h helpers s (grpOf u)).headD 0 := by simp [source, hd]

/-- A function of a lane that looks at what an instruction of another lane, or of another group, leaves as it was. -/
def LaneLocal {α : Type} (s : State) (f : State → Nat → α) : Prop :=
  ∀ s' u, SameRegs s s.bundle.wg s' → thOf s' s.bundle.wg u = lane s u →
    getGroup (getWg s' s.bundle.wg) (grpOf u) = getGroup (cur s) (grpOf u) → f s' u = f s u

theorem SameBut.regs {s s' : State} {w : Nat} (h : SameBut s w s') : SameRegs s w s' := by
  obtain ⟨F, rfl⟩ := h
  exact ⟨F, fun _ x => x, by congr 1; funext g; rw [Wg.mapTh_eq_mapBoth]⟩

theorem SameBut.group {s s' : State} {w : Nat} (h : SameBut s w s') (k : Nat) :
    getGroup (Machine.getWg s' w) k = getGroup (Machine.getWg s w) k := by
  obtain ⟨F, hF⟩ := h.getWg
  rw [hF]; rfl

theorem onActing_gotV (h : Hdr) (s : State) (d : Opnd) (f : Nat → Res) (hd : isUni d = false) :
    gotAll h d f s = onActing h true s (fun u th => raised h (f u).flags (gotV d (f u).vals th)) := by
  have hG : ∀ (x : Group) vals, gotU d vals x = x := by
    intro x vals; cases d <;> simp_all [isUni, gotU]
  have hs : ∀ u, source h true s d u = u := by simp [source, hd]
  have hid : ∀ (F : Nat → Group → Group) (s : State), (∀ k x, F k x = x) → mapGroups s F = s := by
    intro F s hF
    have e : F = fun _ x => x := by funext k x; exact hF k x
    subst e
    have : ∀ l : List Group, l.mapIdx (fun _ x => x) = l := fun l => List.ext_getElem? (fun i => by simp)
    simp only [mapGroups, onCur_eq, this]
    exact setWg_self s s.bundle.wg
  rw [gotAll, hid]
  · simp only [hs]
  · intro k x
    split
    · exact hG _ _
    · rfl

/-- `execReg` (06 R100, 07 R119): the active lanes, or the groups, have the results in the destination, and every lane leaves. -/
theorem execReg_eq {h : Hdr} {d : Opnd} {f : Wg → Nat → Res} {s : State} (hr : Rising s.bundle.lanes)
    (hf : LaneLocal s (fun s' u => f (getWg s' s.bundle.wg) u)) :
    execReg h d f s = leaveAll false (gotAll h d (f (cur s)) s) := by
  by_cases hd : isUni d = true
  · rw [execReg, if_pos hd]
    rw [perGroup_adv
      (F := fun u th => if u ∈ actingIn h true s (grpOf u) then
        raised h (f (cur s) ((actingIn h true s (grpOf u)).headD 0)).flags th else th)
      (G := fun k x => gotU d (f (cur s) ((actingIn h true s k).headD 0)).vals x) hr]
    · have hb : SameRegs s s.bundle.wg (gotAll h d (f (cur s)) s) := by
        rw [gotAll, mapGroups, onCur_eq, onActing, mapLanes_eq]
        exact ⟨_, _, by
          rw [show (modWg s s.bundle.wg _).bundle = s.bundle from rfl, modWg_modWg]; rfl⟩
      have hl : ∀ th, leave false (gotAll h d (f (cur s)) s) th = leave false s th := by
        intro th
        have := hb.seqLen th.seqM
        simp only [leave, cur, hb.bundle, this]
      rw [leaveAll, mapLanes_eq, hb.bundle]
      simp only [hl]
      rw [gotAll, mapGroups, onCur_eq, onActing, mapLanes_eq]
      rw [show (modWg s s.bundle.wg _).bundle = s.bundle from rfl, modWg_modWg, modWg_modWg]
      congr 1; funext g
      have e2 : ∀ (g : Wg) (A : Nat → Group → Group), { g with groups := g.groups.mapIdx A } = g.mapBoth (fun _ th => th) A := by
        intro g A
        have : g.threads.mapIdx (fun _ th => th) = g.threads := List.ext_getElem? (fun i => by simp)
        simp only [Wg.mapBoth, this]
      rw [e2, Wg.mapTh_eq_mapBoth, Wg.mapTh_eq_mapBoth, Wg.mapBoth_mapBoth, Wg.mapBoth_mapBoth]
      have hv : ∀ vals th, gotV d vals th = th := by intro vals th; cases d <;> simp_all [isUni, gotV]
      congr 1
      · funext u th
        simp only [hv, source_uni hd]
        by_cases ha : u ∈ acting h true s
        · have hm : u ∈ actingIn h true s (grpOf u) := mem_actingIn.2 ⟨ha, rfl⟩
          have hb : u ∈ s.bundle.lanes := (mem_acting.1 ha).1
          have hne : actingIn h true s (grpOf u) ≠ [] := List.ne_nil_of_mem hm
          simp [ha, hm, hb, hne]
        · have hm : u ∉ actingIn h true s (grpOf u) := fun h => ha (mem_actingIn.1 h).1
          simp [ha, hm]
      · funext j x
        cases hj : actingIn h true s j <;> simp
    · intro s' k hk hs hg
      have hmem : ∀ u ∈ actingIn h true s k, grpOf u = k := fun u hu => (mem_actingIn.1 hu).2
      have hh : (actingIn h true s k).headD 0 ∈ actingIn h true s k := by
        obtain ⟨a, l, hal⟩ := List.exists_cons_of_ne_nil hk; rw [hal]; simp
      have hgrp := hmem _ hh
      have hfe : f (getWg s' s.bundle.wg) ((actingIn h true s k).headD 0) = f (cur s) ((actingIn h true s k).headD 0) :=
        hf s' _ hs (hg.2 _ hgrp) (by rw [hgrp]; exact hg.1)
      simp only
      rw [hfe, writeAll_regWrites_uniform _ _ _ _ hd, hgrp, foldl_orFlags _ _ _ _ (actingIn_nodup hr)]
      refine Prod.ext ?_ rfl
      simp only
      rw [show setWg s' s.bundle.wg _ = modWg s' s.bundle.wg (fun g => Wg.mapTh (g.modGroup k
        (gotU d (f (cur s) ((actingIn h true s k).headD 0)).vals)) (fun u th => if u ∈ actingIn h true s k then
          raised h (f (cur s) ((actingIn h true s k).headD 0)).flags th else th)) from rfl]
      congr 1; funext g
      rw [Wg.modGroup_eq, Wg.mapTh_eq_mapBoth, Wg.mapBoth_mapBoth]
      congr 1
      · funext u th
        by_cases hu : grpOf u = k
        · subst hu; simp
        · have : u ∉ actingIn h true s k := fun h => hu (hmem u h)
          simp [hu, this]
      · funext j x
        by_cases hj : j = k
        · subst hj; simp
        · simp [hj]
  · have hd : isUni d = false := by simpa using hd
    rw [execReg, if_neg (by simp [hd]), onActing_gotV h s d _ hd]
    refine perLane_adv _ hr (fun s' u hu hs hth => ?_)
    have hfe : f (getWg s' s.bundle.wg) u = f (cur s) u := hf s' u hs.regs hth (hs.group _)
    simp only [hfe, writeAll_regWrites_vector _ _ _ _ hd, orFlags_eq, Wg.modTh_modTh]
    rfl

/-- `execPred` (06 R112). -/
theorem execPred_eq {h : Hdr} {d : Opnd} {f : Wg → Nat → Bool × Word} {s : State} (hr : Rising s.bundle.lanes)
    (hf : LaneLocal s (fun s' u => f (getWg s' s.bundle.wg) u)) :
    execPred h d f s = leaveAll false (onActing h true s (fun u th => raised h (f (cur s) u).2 (gotP d (f (cur s) u).1 th))) := by
  have hp : ∀ g t b, writePred g t d b = g.modTh t (gotP d b) := by
    intro g t b; cases d <;> simp only [writePred] <;> first | rfl | exact (Wg.modTh_id g t).symm
  refine perLane_adv _ hr (fun s' u hu hs hth => ?_)
  have hfe : f (getWg s' s.bundle.wg) u = f (cur s) u := hf s' u hs.regs hth (hs.group _)
  simp only [hfe, hp, orFlags_eq, Wg.modTh_modTh]
  rfl

/-! ### Long-latency results -/

/-- A state that differs only in the threads of workgroup w and in the next unused number. -/
def SameNum (s : State) (w : Nat) (s' : State) : Prop := ∃ F k, s' = withFresh (modWg s w (fun g => g.mapTh F)) k

theorem SameNum.same {s s' : State} {w : Nat} (h : SameNum s w s') : SameBut s w (withFresh s' s.fresh) := by
  obtain ⟨F, k, rfl⟩ := h
  exact ⟨F, rfl⟩

@[simp] theorem withFresh_fresh (s : State) : withFresh s s.fresh = s := rfl

theorem SameNum.refl (s : State) (w : Nat) : SameNum s w s := ⟨fun _ th => th, s.fresh, by simp [modWg]⟩

theorem SameNum.map {s s' : State} {w : Nat} (h : SameNum s w s') (F) (n : Nat) :
    SameNum s w (withFresh (modWg s' w (fun g => g.mapTh F)) n) := by
  obtain ⟨F', k, rfl⟩ := h
  refine ⟨fun u th => F u (F' u th), n, ?_⟩
  have := modWg_modWg s w (fun g => g.mapTh F') (fun g => g.mapTh F)
  simp only [Wg.mapTh_mapTh] at this
  rw [← this]; rfl

theorem SameNum.bundle {s s' : State} {w : Nat} (h : SameNum s w s') : s'.bundle = s.bundle := by
  obtain ⟨F, k, rfl⟩ := h; rfl

theorem SameNum.seqLen {s s' : State} {w : Nat} (h : SameNum s w s') (m : Nat) :
    seqLen s' (getWg s' w) m = seqLen s (getWg s w) m := h.same.seqLen m

/-- The numbers taken before item i of a list, by the items that pass a test. -/
def takenBefore (A : Nat → Bool) (ls : List Nat) (i : Nat) : Nat := (ls.filter A).idxOf i

/-- A pass over items, each of which changes the threads it owns, and takes a number when it passes a test. -/
theorem foldl_numbered {step : State → Nat → State} {w : Nat} {s : State} {owner : Nat → Nat} {A : Nat → Bool}
    {X : Nat → Nat → Thread → Thread} (ls : List Nat) (hn : ls.Nodup)
    (hstep : ∀ s' i, i ∈ ls → SameNum s w s' → (∀ u, owner u = i → thOf s' w u = thOf s w u) →
      step s' i = withFresh (modWg s' w (fun g => g.mapTh (fun u th => if owner u = i then X s'.fresh u th else th)))
        (if A i then s'.fresh + 1 else s'.fresh))
    (hX : ∀ m n u th, A (owner u) = false → X m u th = X n u th) :
    ls.foldl step s = withFresh (modWg s w (fun g => g.mapTh (fun u th =>
        if owner u ∈ ls then X (s.fresh + takenBefore A ls (owner u)) u th else th)))
      (s.fresh + (ls.filter A).length) := by
  suffices H : ∀ s0, SameNum s w s0 → (∀ i ∈ ls, ∀ u, owner u = i → thOf s0 w u = thOf s w u) →
      ls.foldl step s0 = withFresh (modWg s0 w (fun g => g.mapTh (fun u th =>
          if owner u ∈ ls then X (s0.fresh + takenBefore A ls (owner u)) u th else th)))
        (s0.fresh + (ls.filter A).length) from
    H s (SameNum.refl s w) (fun _ _ _ _ => rfl)
  induction ls with
  | nil => intro s0 _ _; simp [modWg]
  | cons i ls ih =>
    intro s0 h0 hth
    have hi : i ∉ ls := (List.nodup_cons.1 hn).1
    simp only [List.foldl_cons]
    rw [hstep s0 i List.mem_cons_self h0 (hth i List.mem_cons_self)]
    rw [ih (List.nodup_cons.1 hn).2 (fun s' v hv => hstep s' v (List.mem_cons_of_mem _ hv)) _ (h0.map _ _)]
    · have e : ∀ (x : State) (n : Nat) (f : Wg → Wg), modWg (withFresh x n) w f = withFresh (modWg x w f) n :=
        fun _ _ _ => rfl
      rw [e, modWg_modWg]
      have e2 : ∀ (x : State) (m n : Nat), withFresh (withFresh x m) n = withFresh x n := fun _ _ _ => rfl
      have e4 : ∀ (x : State) (n : Nat), (withFresh x n).fresh = n := fun _ _ => rfl
      rw [e2, e4]
      have hlen : (if A i then s0.fresh + 1 else s0.fresh) + (ls.filter A).length = s0.fresh + ((i :: ls).filter A).length := by
        by_cases ha : A i = true
        · simp [ha]; omega
        · simp [ha]
      have hth : (fun g : Wg => Wg.mapTh (g.mapTh (fun u th => if owner u = i then X s0.fresh u th else th)) (fun u th =>
            if owner u ∈ ls then X ((if A i then s0.fresh + 1 else s0.fresh) + takenBefore A ls (owner u)) u th else th))
          = fun g => g.mapTh (fun u th =>
            if owner u ∈ i :: ls then X (s0.fresh + takenBefore A (i :: ls) (owner u)) u th else th) := by
        funext g
        rw [Wg.mapTh_mapTh]
        congr 1; funext u th
        by_cases hu : owner u = i
        · simp only [hu, if_true, hi, if_false, List.mem_cons_self]
          by_cases ha : A i = true
          · simp [takenBefore, ha]
          · exact hX _ _ _ _ (by simpa [hu] using ha)
        · by_cases hm : owner u ∈ ls
          · simp only [hu, if_false, hm, if_true, List.mem_cons_of_mem]
            by_cases ha : A i = true
            · simp only [ha, if_true, takenBefore, List.filter_cons, List.idxOf_cons]
              have : (i == owner u) = false := by simpa using Ne.symm hu
              simp only [this, cond_false]
              congr 1; omega
            · simp [ha, takenBefore]
          · simp [hu, hm]
      simp only [hth, hlen]
    · intro j hj u hu
      have hji : j ≠ i := fun h => hi (h ▸ hj)
      rw [← hth j (List.mem_cons_of_mem _ hj) u hu]
      have e3 : ∀ (x : State) (n : Nat), getWg (withFresh x n) w = getWg x w := fun _ _ => rfl
      rw [thOf, e3]
      by_cases hw : w < s0.wgs.length
      · rw [getWg_modWg_self _ _ _ hw, getTh_mapTh_id]
        · rfl
        · intro th; simp [hu, hji]
      · rw [modWg_of_le _ (by omega)]; rfl

/-- Two rising lists with the same members are one. -/
theorem rising_ext {l m : List Nat} (hl : Rising l) (hm : Rising m) (h : ∀ x, x ∈ l ↔ x ∈ m) : l = m := by
  induction l generalizing m with
  | nil =>
    cases m with
    | nil => rfl
    | cons b m => exact absurd ((h b).2 List.mem_cons_self) (by simp)
  | cons a l ih =>
    cases m with
    | nil => exact absurd ((h a).1 List.mem_cons_self) (by simp)
    | cons b m =>
      have hl' := List.pairwise_cons.1 hl
      have hm' := List.pairwise_cons.1 hm
      have hab : a = b := by
        have h1 : a = b ∨ a ∈ m := by simpa using (h a).1 List.mem_cons_self
        have h2 : b = a ∨ b ∈ l := by simpa using (h b).2 List.mem_cons_self
        rcases h1 with h1 | h1
        · exact h1
        · rcases h2 with h2 | h2
          · exact h2.symm
          · have := hm'.1 a h1; have := hl'.1 b h2; omega
      subst hab
      congr 1
      refine ih hl'.2 hm'.2 (fun x => ?_)
      have hx := h x
      simp only [List.mem_cons] at hx
      constructor
      · intro hxl
        rcases hx.1 (.inr hxl) with rfl | h'
        · exact absurd (hl'.1 x hxl) (Nat.lt_irrefl _)
        · exact h'
      · intro hxm
        rcases hx.2 (.inr hxm) with rfl | h'
        · exact absurd (hm'.1 x hxm) (Nat.lt_irrefl _)
        · exact h'

theorem groupsOf_acting {h : Hdr} {helpers : Bool} {s : State} :
    (groupsOf s.bundle.lanes).filter (fun k => decide (actingIn h helpers s k ≠ [])) = groupsOf (acting h helpers s) := by
  refine rising_ext ((groupsOf_rising _).sublist List.filter_sublist) (groupsOf_rising _) (fun k => ?_)
  rw [List.mem_filter, mem_groupsOf, mem_groupsOf, decide_eq_true_eq]
  constructor
  · rintro ⟨_, hk⟩
    obtain ⟨u, hu⟩ := List.exists_mem_of_ne_nil _ hk
    exact ⟨u, (mem_actingIn.1 hu).1, (mem_actingIn.1 hu).2⟩
  · rintro ⟨u, hu, hk⟩
    exact ⟨⟨u, (mem_acting.1 hu).1, hk⟩, List.ne_nil_of_mem (mem_actingIn.2 ⟨hu, hk⟩)⟩

theorem SameBut.num {s s' : State} {w : Nat} (h : SameBut s w s') : SameNum s w s' := by
  obtain ⟨F, rfl⟩ := h
  exact ⟨F, s.fresh, rfl⟩

theorem finish_adv_num {s s' : State} {t : Nat} {closes : Bool} (h : SameNum s s.bundle.wg s') :
    finish s' s.bundle.wg t closes .adv = modTh s' s.bundle.wg t (leave closes s) := by
  rw [finish_adv]
  congr 1; funext th
  simp only [h.seqLen]; rfl

theorem sharePend_eq (s : State) (w : Nat) (al : List Nat) (p : Pend) (hn : (laneGroup s (grpOf (al.headD 0))).Nodup) :
    sharePend s w al p = modWg s w (fun g => g.mapTh (fun u th => if u ∈ laneGroup s (grpOf (al.headD 0)) then
      { th with pend := th.pend ++ [if al.contains u then p else p.shared] } else th)) :=
  foldl_lanes (F := fun u th => { th with pend := th.pend ++ [if al.contains u then p else p.shared] }) _ hn (fun _ _ _ _ _ => rfl)

/-- Only a lane of the bundle awaits anything. -/
theorem awaits_of_not_mem {h : Hdr} {d : Opnd} {p : Nat → Nat → Pend} {s : State} {n u : Nat} {th : Thread} (hu : u ∉ s.bundle.lanes) :
    awaits h d p s n u th = th := by
  have : u ∉ acting h true s := fun ha => hu (mem_acting.1 ha).1
  simp [awaits, this, hu]

/-- A lane of a group without an active one awaits nothing. -/
theorem awaits_of_none {h : Hdr} {d : Opnd} {p : Nat → Nat → Pend} {s : State} {n u : Nat} {th : Thread}
    (ha : actingIn h true s (grpOf u) = []) : awaits h d p s n u th = th := by
  have : u ∉ acting h true s := fun hu => by
    have : u ∈ actingIn h true s (grpOf u) := mem_actingIn.2 ⟨hu, rfl⟩
    simp [ha] at this
  simp [awaits, this, ha]

theorem foldl_adv_num {s s' : State} {closes : Bool} (ls : List Nat) (hn : ls.Nodup) (h : SameNum s s.bundle.wg s') :
    ls.foldl (fun s' t => finish s' s.bundle.wg t closes .adv) s' =
      modWg s' s.bundle.wg (fun g => g.mapTh (fun u th => if u ∈ ls then leave closes s th else th)) := by
  refine foldl_lanes (F := fun _ => leave closes s) ls hn (fun s2 u _ h2 _ => ?_)
  obtain ⟨F, rfl⟩ := h2
  exact finish_adv_num (h.map F s'.fresh)

/-- `awaitAll` and the leave of every lane, in one change. -/
theorem leaveAll_awaitAll (h : Hdr) (d : Opnd) (p : Nat → Nat → Pend) (s : State) :
    leaveAll false (awaitAll h d p s) = withFresh (modWg s s.bundle.wg (fun g => g.mapTh (fun u th =>
      if u ∈ s.bundle.lanes then leave false s (awaits h d p s (numberOf h d s u) u th)
      else th))) (s.fresh + (numbered h d s).length) := by
  have hb : SameNum s s.bundle.wg (awaitAll h d p s) := ⟨_, _, rfl⟩
  have hl : ∀ th, leave false (awaitAll h d p s) th = leave false s th := by
    intro th
    have := hb.seqLen th.seqM
    simp only [leave, cur, hb.bundle, this]
  rw [leaveAll, mapLanes_eq, hb.bundle]
  simp only [hl]
  rw [awaitAll, mapLanes_eq]
  have e : ∀ (x : State) (n : Nat) (f : Wg → Wg), modWg (withFresh x n) s.bundle.wg f =
      withFresh (modWg x s.bundle.wg f) n := fun _ _ _ => rfl
  rw [e, modWg_modWg]
  congr 1
  · congr 1; funext g
    rw [Wg.mapTh_mapTh]
    congr 1; funext u th
    by_cases hu : u ∈ s.bundle.lanes
    · simp [hu]
    · simp [hu, awaits_of_not_mem]

/-- `execLoad` where every lane or group that acts has a pending result (02 R26, 06 R100). -/
theorem execLoad_eq {h : Hdr} {d : Opnd} {act : State → Nat → Nat → State × Except End Pend} {s : State} {p : Nat → Nat → Pend}
    (hr : Rising s.bundle.lanes)
    (hact : ∀ s' u, u ∈ acting h true s → (isUni d = true → (actingIn h true s (grpOf u)).headD 0 = u) → SameNum s s.bundle.wg s' →
      thOf s' s.bundle.wg u = lane s u → act s' s.bundle.wg u = (s', .ok (p u s'.fresh))) :
    execLoad h d act s = leaveAll false (awaitAll h d p s) := by
  have hn : s.bundle.lanes.Nodup := hr.imp (fun h => Nat.ne_of_lt h)
  rw [leaveAll_awaitAll]
  by_cases hd : isUni d = true
  · rw [execLoad, if_pos hd]
    unfold perGroup
    refine Eq.trans (foldl_numbered (s := s) (w := s.bundle.wg) (owner := grpOf)
      (A := fun k => decide (actingIn h true s k ≠ []))
      (X := fun n u th => if u ∈ s.bundle.lanes then leave false s (awaits h d p s n u th) else th)
      (groupsOf s.bundle.lanes) ((groupsOf_rising _).imp (fun h => Nat.ne_of_lt h)) ?_ ?_) ?_
    · intro s' k hk hs hg
      have hal : (s.bundle.lanes.filter (fun t => grpOf t == k)).filter (fun t => activeIn h true (thOf s' s.bundle.wg t))
          = actingIn h true s k := by
        rw [actingIn, acting, List.filter_filter, List.filter_filter]
        refine List.filter_congr (fun t _ => ?_)
        by_cases ht : grpOf t = k
        · simp only [ht, beq_self_eq_true, Bool.and_true, Bool.true_and]
          rw [hg t ht]; rfl
        · have : (grpOf t == k) = false := by simpa using ht
          simp [this]
      have hln : (s.bundle.lanes.filter (fun t => grpOf t == k)).Nodup := hn.sublist List.filter_sublist
      simp only [hs.bundle, hal]
      by_cases he : actingIn h true s k = []
      · rw [if_pos (by simp [he]), foldl_adv_num _ hln hs]
        have hc : (fun g : Wg => g.mapTh (fun u th => if u ∈ s.bundle.lanes.filter (fun t => grpOf t == k) then
            leave false s th else th)) = fun g => g.mapTh (fun u th => if grpOf u = k then
            (if u ∈ s.bundle.lanes then leave false s (awaits h d p s s'.fresh u th) else th) else th) := by
          funext g; congr 1; funext u th
          by_cases hu : grpOf u = k
          · simp [hu, awaits_of_none (h := h) (s := s) (u := u) (by rw [hu]; exact he)]
          · simp [hu]
        have hf : decide (actingIn h true s k ≠ []) = false := by simp [he]
        rw [hc, hf]; rfl
      · rw [if_neg (by simp [he])]
        have hmem : ∀ u ∈ actingIn h true s k, grpOf u = k := fun u hu => (mem_actingIn.1 hu).2
        have hh : (actingIn h true s k).headD 0 ∈ actingIn h true s k := by
          obtain ⟨a, l, hal⟩ := List.exists_cons_of_ne_nil he; rw [hal]; simp
        have hgrp := hmem _ hh
        rw [hact s' _ (mem_actingIn.1 hh).1 (fun _ => by rw [hgrp]) hs (hg _ hgrp)]
        have hlg : laneGroup s' k = s.bundle.lanes.filter (fun t => grpOf t == k) := by rw [laneGroup, hs.bundle]
        simp only [if_pos hd]
        rw [sharePend_eq _ _ _ _ (by rw [hgrp, hlg]; exact hln), hgrp, hlg]
        have hb : SameNum s s.bundle.wg (State.bump (modWg s' s.bundle.wg (fun g => g.mapTh (fun u th =>
            if u ∈ s.bundle.lanes.filter (fun t => grpOf t == k) then { th with pend := th.pend ++
              [if (actingIn h true s k).contains u then p ((actingIn h true s k).headD 0) s'.fresh
                else (p ((actingIn h true s k).headD 0) s'.fresh).shared] } else th)))) :=
          hs.map _ _
        rw [foldl_adv_num _ hln hb]
        have e : ∀ (x : State) (f : Wg → Wg), modWg x.bump s.bundle.wg f = (modWg x s.bundle.wg f).bump := fun _ _ => rfl
        rw [e, modWg_modWg]
        have hc : (fun g : Wg => Wg.mapTh (g.mapTh (fun u th => if u ∈ s.bundle.lanes.filter (fun t => grpOf t == k) then
            { th with pend := th.pend ++ [if (actingIn h true s k).contains u then p ((actingIn h true s k).headD 0) s'.fresh
                else (p ((actingIn h true s k).headD 0) s'.fresh).shared] } else th))
            (fun u th => if u ∈ s.bundle.lanes.filter (fun t => grpOf t == k) then leave false s th else th)) =
            fun g => g.mapTh (fun u th => if grpOf u = k then
            (if u ∈ s.bundle.lanes then leave false s (awaits h d p s s'.fresh u th) else th) else th) := by
          funext g; rw [Wg.mapTh_mapTh]; congr 1; funext u th
          by_cases hu : grpOf u = k
          · by_cases hb : u ∈ s.bundle.lanes
            · by_cases ha : u ∈ acting h true s
              · have hm : u ∈ actingIn h true s k := mem_actingIn.2 ⟨ha, hu⟩
                simp [hu, ha, hb, hm, awaits, source, hd]
              · have hm : u ∉ actingIn h true s k := fun hm => ha (mem_actingIn.1 hm).1
                simp [hu, ha, hb, hm, awaits, source, hd, he]
            · simp [hu, hb]
          · simp [hu]
        have hf : decide (actingIn h true s k ≠ []) = true := by simp [he]
        rw [hc, hf]; rfl
    · intro m n u th hA
      have hA : actingIn h true s (grpOf u) = [] := by simpa using hA
      simp [awaits_of_none hA]
    · rw [groupsOf_acting]
      have hnum : numbered h d s = groupsOf (acting h true s) := by simp [numbered, hd]
      rw [hnum]
      congr 1
      congr 1; funext g; congr 1; funext u th
      by_cases hb : u ∈ s.bundle.lanes
      · have hk : grpOf u ∈ groupsOf s.bundle.lanes := mem_groupsOf.2 ⟨u, hb, rfl⟩
        simp only [hb, hk, if_true, hd, numberOf, takenBefore, groupsOf_acting, hnum]
      · simp [hb]
  · have hd : isUni d = false := by simpa using hd
    rw [execLoad, if_neg (by simp [hd])]
    unfold perLane
    have hfil : s.bundle.lanes.filter (fun u => decide (u ∈ acting h true s)) = acting h true s := by
      rw [acting]
      refine List.filter_congr (fun u hu => ?_)
      simp [hu]
    refine Eq.trans (foldl_numbered (s := s) (w := s.bundle.wg) (owner := fun u => u)
      (A := fun u => decide (u ∈ acting h true s))
      (X := fun n u th => leave false s (if u ∈ acting h true s then { th with pend := th.pend ++ [p u n] } else th))
      s.bundle.lanes hn ?_ ?_) ?_
    · intro s' u hu hs hg
      have hth : thOf s' s.bundle.wg u = lane s u := hg u rfl
      by_cases ha : activeIn h true (thOf s' s.bundle.wg u) = true
      · have hm : u ∈ acting h true s := mem_acting.2 ⟨hu, by rw [← hth]; exact ha⟩
        simp only [if_pos ha]
        rw [hact s' u hm (by simp [hd]) hs hth]
        simp only [hd, Bool.false_eq_true, if_false]
        have hb : SameNum s s.bundle.wg (State.bump (addPend s' s.bundle.wg u (p u s'.fresh))) := by
          have := hs.map (fun v th => if v = u then { th with pend := th.pend ++ [p u s'.fresh] } else th) (s'.fresh + 1)
          rw [addPend, modTh_eq]
          simp only [Wg.modTh_eq_mapTh]
          exact this
        rw [finish_adv_num hb, addPend]
        have e : ∀ (x : State) (f : Thread → Thread), modTh x.bump s.bundle.wg u f = (modTh x s.bundle.wg u f).bump :=
          fun _ _ => rfl
        rw [e, modTh_modTh, modTh_eq]
        simp only [Wg.modTh_eq_mapTh, hm, decide_true, if_true]
        have hc : (fun g : Wg => g.mapTh (fun v th => if v = u then leave false s { th with pend := th.pend ++ [p u s'.fresh] } else th))
            = fun g => g.mapTh (fun v th => if v = u then leave false s (if v ∈ acting h true s then
              { th with pend := th.pend ++ [p v s'.fresh] } else th) else th) := by
          funext g; congr 1; funext v th
          by_cases hv : v = u
          · subst hv; simp [hm]
          · simp [hv]
        rw [hc]; rfl
      · have hm : u ∉ acting h true s := fun hm => ha (by rw [hth]; exact (mem_acting.1 hm).2)
        simp only [if_neg ha]
        rw [finish_adv_num hs, modTh_eq]
        simp only [Wg.modTh_eq_mapTh, hm, decide_false]
        have hc : (fun g : Wg => g.mapTh (fun v th => if v = u then leave false s th else th))
            = fun g => g.mapTh (fun v th => if v = u then leave false s (if v ∈ acting h true s then
              { th with pend := th.pend ++ [p v s'.fresh] } else th) else th) := by
          funext g; congr 1; funext v th
          by_cases hv : v = u
          · subst hv; simp [hm]
          · simp [hv]
        rw [hc]; rfl
    · intro m n u th hA
      have hA : u ∉ acting h true s := by simpa using hA
      simp [hA]
    · rw [hfil]
      have hnum : numbered h d s = acting h true s := by simp [numbered, hd]
      rw [hnum]
      congr 1
      congr 1; funext g; congr 1; funext u th
      simp only [awaits, source, hd, numberOf, takenBefore, hfil, hnum]
      simp

/-- `execRegLL` (02 R26): every active lane awaits the result of its operands. -/
theorem execRegLL_eq {h : Hdr} {d : Opnd} {f : Wg → Nat → Res} {s : State} (hr : Rising s.bundle.lanes)
    (hf : ∀ s' u, SameNum s s.bundle.wg s' → thOf s' s.bundle.wg u = lane s u → f (getWg s' s.bundle.wg) u = f (cur s) u) :
    execRegLL h d f s = leaveAll false (awaitAll h d (fun u n =>
      Pend.start h n .known (regWrites d (f (cur s) u).vals) (f (cur s) u).flags) s) := by
  have e : execRegLL h d f s = execLoad h d (fun s w t =>
      (s, .ok (Pend.start h s.fresh .known (regWrites d (f (getWg s w) t).vals) (f (getWg s w) t).flags))) s := by
    unfold execRegLL execLoad
    by_cases hd : isUni d = true <;> simp only [hd, if_true, if_false, Bool.false_eq_true]
  rw [e]
  refine execLoad_eq hr (fun s' u _ _ hs hth => ?_)
  simp only [hf s' u hs hth]

/-! ### What an operand's value depends on -/

/-- An operand's value depends on its thread and its group's registers. -/
theorem readTy_local {g g' : Wg} {u : Nat} (h1 : getTh g u = getTh g' u) (h2 : getGroup g (grpOf u) = getGroup g' (grpOf u))
    (ty : Ty) (o : Opnd) (imm : Word) : readTy g u ty o imm = readTy g' u ty o imm := by
  cases o <;> simp only [readTy, h1, h2]

theorem readPred_local {g g' : Wg} {u : Nat} (h1 : getTh g u = getTh g' u) (o : Opnd) : readPred g u o = readPred g' u o := by
  cases o <;> simp only [readPred, h1]

/-- A special register depends on its thread and on what no other lane's instruction changes. -/
theorem readSp_regs {s s' : State} {u : Nat} (hs : SameRegs s s.bundle.wg s') (h1 : thOf s' s.bundle.wg u = lane s u) (n : Nat) :
    readSp s' s.bundle.wg u n = readSp s s.bundle.wg u n := by
  obtain ⟨F, G, rfl⟩ := hs
  by_cases hw : s.bundle.wg < s.wgs.length
  · have h1' : getTh ((getWg s s.bundle.wg).mapBoth F G) u = getTh (getWg s s.bundle.wg) u := by
      have := h1
      rwa [thOf, getWg_modWg_self _ _ _ hw] at this
    have hc : ∀ c, getCore (modWg s s.bundle.wg (fun g => g.mapBoth F G)) c = getCore s c := fun _ => rfl
    simp only [readSp, getWg_modWg_self _ _ _ hw, h1', hc]
    rfl
  · rw [modWg_of_le _ (by omega)]

end Sys2Proof.Machine
end

