-- ==== Sys2Proof/Laws/Traps.lean ====
section
/-!
SUPPORT. Traps.lean: the laws of taking a trap and of returning from one.
-/
namespace Sys2Proof.Machine

/-! ### The record (18 R302) -/

section
variable (th : Thread) (cause : Nat) (info addr : DWord) (gi : Option Word) (traph : Nat)

@[simp] theorem trapTo_tcause : (th.trapTo cause info addr gi traph).tcause = BitVec.ofNat 32 cause := rfl
@[simp] theorem trapTo_tinfo : (th.trapTo cause info addr gi traph).tinfo = info := rfl
@[simp] theorem trapTo_taddr : (th.trapTo cause info addr gi traph).taddr = addr := rfl
@[simp] theorem trapTo_tnpc : (th.trapTo cause info addr gi traph).tnpc = th.npc := rfl
@[simp] theorem trapTo_tsq : (th.trapTo cause info addr gi traph).tsq = th.pos := rfl
@[simp] theorem trapTo_th : (th.trapTo cause info addr gi traph).th = true := rfl
@[simp] theorem trapTo_npc : (th.trapTo cause info addr gi traph).npc = BitVec.ofNat 32 traph := rfl
@[simp] theorem trapTo_seqS : (th.trapTo cause info addr gi traph).seqS = false := rfl
/-- Registers, predicates, %fflags, %gpc and %meet are unchanged (18 R302). -/
@[simp] theorem trapTo_v : (th.trapTo cause info addr gi traph).v = th.v := rfl
@[simp] theorem trapTo_preds : (th.trapTo cause info addr gi traph).preds = th.preds := rfl
@[simp] theorem trapTo_fflags : (th.trapTo cause info addr gi traph).fflags = th.fflags := rfl
@[simp] theorem trapTo_gpc : (th.trapTo cause info addr gi traph).gpc = th.gpc := rfl
@[simp] theorem trapTo_meet : (th.trapTo cause info addr gi traph).meet = th.meet := rfl

end

/-! ### Entry (18 R300, R302, R304) -/

section
variable {s : State} {w t cause : Nat} {info addr : DWord}

/-- Outside a handler the lane goes to it, with its record. -/
theorem enterTrap_record (h : (thOf s w t).th = false) : enterTrap s w t cause info addr =
    modTh s w t (fun th => th.trapTo cause info addr (dispatchIndex s (getWg s w) t) (getWg s w).hdr.traph) := by
  unfold thOf at h
  simp [enterTrap, h]

/-- In a handler the lane ends, with a double-trap record. -/
theorem enterTrap_double (h : (thOf s w t).th = true) : enterTrap s w t cause info addr =
    postDouble (modTh s w t Thread.exit) (getWg s w).part
      (.doubleTrap cause (thOf s w t).pos (getWg s w).core (getWg s w).wgid (grpOf t) (t % 32)) := by
  unfold thOf at h ⊢
  simp [enterTrap, h]

/-- A trap of a lane with nothing outstanding is entered at once. -/
theorem raiseTrap_now (h : (thOf s w t).pend = []) : raiseTrap s w t cause info addr = enterTrap s w t cause info addr := by
  simp [raiseTrap, h]

/-- A trap of a lane with something outstanding waits for it. -/
theorem raiseTrap_later (h : (thOf s w t).pend ≠ []) : raiseTrap s w t cause info addr =
    modTh s w t (fun th => { th with due := some (cause, info, addr) }) := by
  simp [raiseTrap, h]

/-- A trap changes no memory. -/
theorem enterTrap_mem : (enterTrap s w t cause info addr).mem = s.mem := by
  cases h : (thOf s w t).th
  · rw [enterTrap_record h]; rfl
  · rw [enterTrap_double h]; rfl

theorem raiseTrap_mem : (raiseTrap s w t cause info addr).mem = s.mem := by
  unfold raiseTrap; split
  · exact enterTrap_mem
  · rfl

end

/-! ### Return (18 R320) -/

/-- Every return leaves the handler, with %irs at the position it goes to. -/
theorem rtiTo_th (th : Thread) (k : Rti) (len : Nat) : (th.rtiTo k len).th = false := rfl

theorem rtiTo_irs (th : Thread) (k : Rti) (len : Nat) : (th.rtiTo k len).irs = (th.rtiTo k len).pos := rfl

end Sys2Proof.Machine
end

