-- ==== Sys2Proof/Tests/Slice0.lean ====
section
/-!
SUPPORT. Slice0.lean: the tests: words written out from the spec's encodings, ill-formed words, single steps on small states with results from the
spec's examples, and for each obligation a state that meets its hypotheses.
-/
namespace Sys2Proof.Tests
open Sys2Proof.Machine Sys2Proof.Claims
set_option Elab.async false

/-! ### Small states -/

/-- A state with one workgroup of 32 threads on core 0, and two of its lanes in the bundle. -/
def two : State := { State.reset.withFetchWord 96 0 with bundle := { wg := 0, lanes := [0, 1] } }

/-- The same with one lane in the bundle. -/
def one : State := { two with bundle := { wg := 0, lanes := [0] } }

/-- A state with registers of a thread set. -/
def withV (s : State) (u : Nat) (l : List (Nat × Word)) : State := modTh s 0 u (fun th => l.foldl (fun th p => th.wv p.1 p.2) th)

/-- A state with uniform registers of group 0 set. -/
def withU (s : State) (l : List (Nat × Word)) : State := modWg s 0 (fun g => g.modGroup 0 (fun x => l.foldl (fun x p => x.wu p.1 p.2) x))

/-- A state with its workgroup changed. -/
def withWg (s : State) (f : Wg → Wg) : State := modWg s 0 f

/-- A state with thread 0 changed. -/
def with0 (s : State) (f : Thread → Thread) : State := modTh s 0 0 f

/-- An outstanding result. -/
def aPend : Pend := Pend.start plain 0 .known [{ uni := false, reg := 3, val := 7 }] 0

/-! ### States that meet the hypotheses of the obligations -/

/-- `Computes`, `Awaits`, `Decides`, `Changes`: a bundle in rising order with active lanes. -/
theorem witness_rising : Rising two.bundle.lanes ∧ acting plain true two = [0, 1] := by decide

/-- `Exchanges`, `Votes`: a bundle that lies in one group. -/
theorem witness_oneGroup : Rising two.bundle.lanes ∧ OneGroup plain true two 0 := by
  refine ⟨by decide, ?_, ?_⟩ <;> decide

/-- `Lanewise`: no active lane is in a handler. -/
theorem witness_lanewise : Rising two.bundle.lanes ∧ ∀ u ∈ acting plain true two, (lane two u).pend = [] → (lane two u).th = false := by
  decide

/-- `Raises`, `RaisesIf`: one active lane, outside a handler; or with something outstanding. -/
theorem witness_sole : Sole plain true one 0 ∧ ((lane one 0).pend = [] → (lane one 0).th = false) := by
  refine ⟨⟨?_, ?_⟩, ?_⟩ <;> decide
theorem witness_sole_outstanding : let s := with0 one (fun th => { th with pend := [aPend] }); Sole plain true s 0 ∧ (lane s 0).pend ≠ [] := by
  refine ⟨⟨?_, ?_⟩, ?_⟩ <;> decide

/-- `cvt`: a pair of types for each clause. -/
theorem witness_cvt :
    (isFloat .i8 = false ∧ isFloat .f16 = true ∧ isPacked .f16 = false) ∧ (isPacked .f32 = false ∧ isFloat .f32 = true ∧ isFloat .bf16 = true) ∧
    (isPacked .f32 = false ∧ isFloat .f32 = true ∧ isFloat .n64 = false) ∧ (isFloat .f32 = true ∧ isPacked .f16x2 = true) ∧
    (isPacked .f16x2 = true ∧ isPacked .bf16x2 = true) ∧ (isPacked .bf16x2 = true ∧ isFloat .f32 = true ∧ isPacked .f32 = false) := by decide

/-- `scan`, `redux`: an operation for each case, and a vector destination. -/
theorem witness_scan : (if Ty.f32 = .f32 then (6 = 1 ∨ 6 = 2 ∨ 6 = 6) else 6 < 6) ∧ (if Ty.b64 = .f32 then (5 = 1 ∨ 5 = 2 ∨ 5 = 6) else 5 < 6) ∧
    isUni (.v 2) = false := by decide

/-- A branch to the last instruction of the text, and one beyond it. -/
theorem witness_jump_last : 87380 < (cur two).hdr.tlen ∧ ¬ 87381 < (cur two).hdr.tlen := by decide

/-- `dispatch`: a table of one handler, 5, at data address 64; and each trap of its checks. -/
def table : State := withWg two (fun g => { g with data := SMap.setMany 0 [] 64 [1, 0, 0, 0, 5, 0, 0, 0] })
theorem witness_dispatch : Rising table.bundle.lanes ∧ guestTrap table 0 = none ∧ handlerOf table 64 0 = .ok 5 := ⟨by decide, by decide, by rfl⟩
/-- A context that arms a guest step of group 0 of workgroup 0, and a breakpoint at guest position 0. -/
def guarded (dctl : DWord) : State := { two with ctxs := [(0, { Ctx.fresh 0 [] 0 0 with dctl := dctl, swg := 0, gbp := [(2, 0x8000000000000000)] })] }
theorem witness_guestTraps : guestTrap (guarded 4) 0 = some (0x13, 0, 0) ∧ guestTrap (guarded 12) 0 = some (0x13, 0, 0) ∧
    guestTrap (guarded 0) 0 = some (0x12, 2, 0) ∧ guestTrap (with0 (guarded 4) (fun th => { th with oneShot := true })) 0 = none := by decide
theorem witness_dispatch_traps : handlerOf table 64 1 = .error (0x16, 1, 0) ∧ handlerOf table 66 0 = .error (0x04, 0, 66) ∧
    handlerOf table (7 * 2 ^ 20) 0 = .error (0x0A, 0x104, 0x700000) := ⟨by rfl, by rfl, by rfl⟩

/-- `raiseTrap` and the event that enters a trap that has waited. -/
def due : State := with0 one (fun th => { th with due := some (0x14, 1, 2) })
theorem witness_trapEntry : (getWg due 0).status = .resident ∧ (thOf due 0 0).live = true ∧ (thOf due 0 0).pend = [] ∧
    (thOf due 0 0).th = false ∧ (thOf due 0 0).due = some (0x14, 1, 2) := by decide
theorem witness_trapEntry_later : (thOf (with0 one (fun th => { th with pend := [aPend] })) 0 0).pend ≠ [] := by decide

/-- A lane in a handler. -/
def handler : State := with0 one (fun th => { th with th := true })
theorem witness_doubleTrap : Sole plain true handler 0 ∧ (thOf handler 0 0).pend = [] ∧ (thOf handler 0 0).th = true := by
  refine ⟨⟨?_, ?_⟩, ?_, ?_⟩ <;> decide
theorem witness_doubleTrap_found : let s := with0 handler (fun th => { th with due := some (0x14, 1, 2) })
    (getWg s 0).status = .resident ∧ (thOf s 0 0).live = true ∧ (thOf s 0 0).due = some (0x14, 1, 2) ∧ (thOf s 0 0).th = true := by decide

/-- `lds`, `sts`: the last word of the region, and an address for each trap. -/
theorem witness_lds : spFits two (spAt two 1 (.s 0) (.imm 0) 0 0x6FFFFC) 4 := by
  unfold spFits; decide
theorem witness_lds_traps : spTrap one false (spAt one 0 (.s 0) (.imm 0) 0 2) 4 = some (0x04, 0, 2) ∧
    spTrap one true (spAt one 0 (.s 0) (.imm 0) 0 0x700000) 4 = some (0x0A, 0x204, 0x700000) := by decide

/-- A buffer of 256 bytes at data address 256, index 0, given by position 0 and held there; its handle lies in s0, s1. -/
def buffer : State :=
  withU (setOwn two 0 0 { live := true, gen := 1, owner := ownerOf (cur two), spos := 0, base := 1, lenm := 0, holder := 0 })
    [(0, 0x20000000), (1, 0x4000)]
def buffer1 : State := { buffer with bundle := one.bundle }
/-- The same, held elsewhere. -/
def lent : State := setOwn buffer1 0 0 { getOwn buffer1 0 0 with holder := 1 }
theorem witness_current : Current buffer (rd64 buffer 0 (.s 0)) ∧ (ownOf buffer (rd64 buffer 0 (.s 0))).holder = (cur buffer).clid := by
  unfold Current Matches; decide
theorem witness_ldh : ∀ u ∈ acting plain true buffer, BufferAt buffer (rd64 buffer u (.s 0)) (bufAt buffer u (.imm 0) 0 252) 4 0 508 := by
  unfold BufferAt Current Matches; decide
theorem witness_ldh_traps : BufRefused buffer1 false (rd64 buffer1 0 (.s 0)) (bufAt buffer1 0 (.imm 0) 0 2) 4 (0x04, 0, 2) ∧
    BufRefused buffer1 true (rd64 buffer1 0 (.s 0)) (bufAt buffer1 0 (.imm 0) 0 256) 4 (0x0A, 0x404, 256) := by
  refine ⟨.inr (.inr ⟨?_, ?_, .inl ?_⟩), .inr (.inr ⟨?_, ?_, .inr ?_⟩)⟩ <;> (try unfold Current Matches) <;> decide
theorem witness_handle_traps : Refused buffer1 (rd64 (withU buffer1 [(0, 0x20000001)]) 0 (.s 0)) (0x0B, 3, 0x400020000001) ∧
    Refused buffer1 (rd64 (withU buffer1 [(0, 0)]) 0 (.s 0)) (0x0B, 2, 0x400000000000) := by
  refine ⟨.inl ?_, .inr ?_⟩ <;> (try unfold Matches) <;> decide
theorem witness_lent : Current lent (rd64 lent 0 (.s 0)) ∧ (ownOf lent (rd64 lent 0 (.s 0))).holder ≠ (cur lent).clid ∧
    heldElsewhere lent (cur lent) 256 4 ≠ none := by
  unfold Current Matches; decide

/-- `gld`, `ldqe`, `spzero`. -/
theorem witness_gld : guestAt two 0 (.imm 4) 0 + 1 ≤ (cur two).hdr.sdata ∧
    ¬ guestAt (with0 one (fun th => { th with gbase := 0x700000 })) 0 (.imm 0) 0 + 1 ≤ (cur one).hdr.sdata := by decide
def anEntry : Entry :=
  { qe := 0, raw := 0, ctx := 0, d := 1000, budget := 1, charge := 0, fresh := 0, order := 0, demoted := false, overrun := none
    hdr := fetchHeader, kernel := 0, chip := { saved := [], lo := 0, n := 0 }, dies := [], cls := [], pinned := [], ended := [], lastEnd := 0, status := none }
def entered : State := modPart two 0 (fun p => { p with entries := [anEntry] })
theorem witness_ldqe : getEntry entered (cur entered).part (cur entered).qe = some anEntry ∧ rd entered 0 .n32 .lit 0x7C % 128 % 4 = 0 ∧
    rd entered 0 .n32 .lit 0x7E % 128 % 4 ≠ 0 := by decide +kernel
theorem witness_spzero : OneGroup plain false two 0 ∧ SMap.wf 0 (cur two).data = true ∧ 64 % 64 = 0 ∧ 64 + 0x6FFFC0 ≤ (cur two).hdr.sdata := by
  refine ⟨⟨?_, ?_⟩, ?_, ?_, ?_⟩ <;> decide

/-- The tag table: a set that holds keys 0x10 to 0x16, the oldest of them pinned. -/
def tags : State := withWg one (fun g => { g with hdr := { g.hdr with tsets := 2 }, tags := [(0, ⟨true, 0x10, false, true, 3⟩),
  (1, ⟨true, 0x12, true, false, 2⟩), (2, ⟨true, 0x14, false, false, 1⟩), (3, ⟨true, 0x16, false, false, 0⟩)] })
/-- One with an invalid way. -/
def tagsFree : State := withWg tags (fun g => { g with tags := g.tags.eraseIdx 2 })
/-- One with every way pinned. -/
def tagsFull : State := withWg tags (fun g => { g with tags := g.tags.map (fun e => (e.1, { e.2 with p := true })) })
theorem witness_tagKey (d : Opnd) : TagKey plain d tags 0 (rd tags 0 .n64 .lit 0x12) := by
  refine ⟨.inl ⟨?_, ?_⟩, ?_, ?_, ?_, ?_⟩ <;> decide
theorem witness_tagKey_free (d : Opnd) : TagKey plain d tagsFree 0 (rd tags 0 .n64 .lit 0x18) ∧ TagKey plain d tagsFull 0 (rd tags 0 .n64 .lit 0x18) := by
  refine ⟨⟨.inl ⟨?_, ?_⟩, ?_, ?_, ?_, ?_⟩, ⟨.inl ⟨?_, ?_⟩, ?_, ?_, ?_, ?_⟩⟩ <;> decide
/-- With a uniform destination, once for a group of two lanes; and a bundle of two lanes whose instruction acts in one after the other. -/
def tags2 : State := { tags with bundle := two.bundle }
theorem witness_tagOnce : TagKey plain (.s 3) tags2 0 (rd tags 0 .n64 .lit 0x12) ∧ TagSlot plain (.s 3) tags2 0 (rd tags 0 .n32 .lit 7) := by
  refine ⟨⟨.inr ⟨rfl, ?_, 0, ⟨?_, ?_⟩, ?_⟩, ?_, ?_, ?_, ?_⟩, ⟨.inr ⟨rfl, ?_, 0, ⟨?_, ?_⟩, ?_⟩, ?_, ?_, ?_⟩⟩ <;> decide
theorem witness_laneByLane : tags2.bundle.lanes = [0, 1] ∧ Rising tags2.bundle.lanes ∧ isUni (.v 2) = false := by decide
theorem inSet {j : Nat} (P : Nat → Prop) (h0 : P 0) (h1 : P 1) (h2 : P 2) (h3 : P 3) : j / 4 = 0 → P j := fun h => by
  have : j = 0 ∨ j = 1 ∨ j = 2 ∨ j = 3 := by omega
  rcases this with rfl | rfl | rfl | rfl <;> assumption
theorem witness_keyAt : KeyAt tags 0x12 1 := by
  refine ⟨by decide, by decide, by decide, fun j => ?_⟩
  exact inSet (P := fun j => (way tags j).v = true → (way tags j).key = 0x12 → j = 1) (by decide) (by decide) (by decide) (by decide)
theorem witness_keyAbsent : KeyAbsent tags 0x18 := by
  intro j
  exact inSet (P := fun j => ¬ ((way tags j).v = true ∧ (way tags j).key = 0x18)) (by decide) (by decide) (by decide) (by decide)
theorem witness_givesPlace : GivesPlace tags 0 1 := by
  refine ⟨by decide, .inr ⟨fun j => ?_, by decide, fun j => ?_⟩⟩
  · exact inSet (P := fun j => (way tags j).v = true) (by decide) (by decide) (by decide) (by decide)
  · exact inSet (P := fun j => (way tags j).p = false → j ≠ 1 → (way tags j).age < (way tags 1).age) (by decide) (by decide) (by decide)
      (by decide)
theorem witness_givesPlace_free : GivesPlace tagsFree 0 2 ∧ KeyAbsent tagsFree 0x18 := by
  refine ⟨⟨by decide, .inl ⟨by decide, fun j => ?_⟩⟩, fun j => ?_⟩
  · exact inSet (P := fun j => j < 2 → (way tagsFree j).v = true) (by decide) (by decide) (by decide) (by decide)
  · exact inSet (P := fun j => ¬ ((way tagsFree j).v = true ∧ (way tagsFree j).key = 0x18)) (by decide) (by decide) (by decide) (by decide)
theorem witness_full : KeyAbsent tagsFull 0x18 ∧ ∀ j, j / 4 = 0 → (way tagsFull j).v = true ∧ (way tagsFull j).p = true := by
  refine ⟨fun j => ?_, fun j => ?_⟩
  · exact inSet (P := fun j => ¬ ((way tagsFull j).v = true ∧ (way tagsFull j).key = 0x18)) (by decide) (by decide) (by decide) (by decide)
  · exact inSet (P := fun j => (way tagsFull j).v = true ∧ (way tagsFull j).p = true) (by decide) (by decide) (by decide) (by decide)
theorem witness_tagSlot (d : Opnd) : TagSlot plain d tags 0 (rd tags 0 .n32 .lit 7) ∧ (way tags 7).v = false ∧ (way tags 1).v = true := by
  refine ⟨⟨.inl ⟨?_, ?_⟩, ?_, ?_, ?_⟩, ?_, ?_⟩ <;> decide

/-- The buffer instructions of a group: a free index with room, none free, and each clause. -/
theorem witness_hgiveNew : Rising two.bundle.lanes ∧ OneGroup plain true two 0 ∧ isUni (.s 2) = true ∧ 0x6FFF00 + 256 ≤ (cur two).hdr.sdata ∧
    (∀ j < 64, (getOwn two 0 j).overlaps (cur two) 0x6FFF00 256 = false) ∧ (getOwn two 0 0).live = false := by
  refine ⟨?_, ⟨?_, ?_⟩, ?_, ?_, ?_, ?_⟩ <;> decide
def allLive : State := { two with owns := (List.range 64).map (fun j => (j, { Own.free with live := true, owner := (9, 9, 9) })) }
theorem witness_hgiveNew_none : (∀ j < 64, (getOwn allLive 0 j).live = true) ∧
    (∀ j < 64, (getOwn allLive 0 j).overlaps (cur allLive) 0 256 = false) := by decide
theorem witness_hgive : NothingOut buffer (liveIn buffer 0) 2 ∧ (memberAt buffer (cur buffer) (rd buffer 0 .n32 (.imm 0) 0)).isSome = true ∧
    (ownOf buffer (rd64 buffer 0 (.s 0))).spos = (cur buffer).clid ∧
    ∀ v ∈ acting plain true buffer, (rd64 buffer (source plain true buffer (.v 2) v) (.s 0)).toNat % 2 ^ 14 = 0 := by
  unfold NothingOut; decide
theorem witness_hgive_traps : memberAt buffer1 (cur buffer1) 3 = none ∧ (rd64 (withU buffer1 [(0, 1)]) 0 (.s 0)).toNat % 2 ^ 14 ≠ 0 := by decide
/-- `GroupRaisesIf`: two lanes of a group outside handlers; and a live buffer that a new one would overlap. -/
theorem witness_groupTraps : Rising buffer.bundle.lanes ∧ OneGroup plain true buffer 0 ∧
    ∀ v ∈ buffer.bundle.lanes, (lane buffer v).pend = [] → (lane buffer v).th = false := by
  refine ⟨?_, ⟨?_, ?_⟩, ?_⟩ <;> decide
theorem witness_hgiveNew_overlap : (getOwn buffer (clusterOf (cur buffer).core) 0).overlaps (cur buffer) 256 512 = true ∧
    256 + 512 ≤ (cur buffer).hdr.sdata := by decide
/-- An `htake` of the second lane that waits for the buffer, outside a handler. -/
theorem witness_hgiveRetire : let s := modTh buffer 0 1 (fun th => { th with wait := .take 0 1 })
    (∃ g ∈ s.wgs, ∃ th ∈ g.threads, th.wait = .take 0 (ownOf s (rd64 s 0 (.s 0))).gen) ∧
    ∀ g ∈ s.wgs, ∀ th ∈ g.threads, th.wait = .take 0 (ownOf s (rd64 s 0 (.s 0))).gen → th.early = [] ∧ (th.pend = [] → th.th = false) := by
  decide +kernel
/-! Memory: a root table at 0x40000000, and a table of 2 GiB pages: 0 plain, 1 staged, 2 read-only, 3 write-only, 4 not valid, 5 malformed. -/
def entryOf (hi base : Nat) : Nat := hi * 2 ^ 56 + base
def aCtx : Ctx := Ctx.fresh 0 [0x40000000] 0 0
def aSetup : PartSetup := { dies := [0], weights := [], far := [], udpPort := none, ring := 0, ringLen := 0, table := 0x60000000, tableLen := 4096 }
def pages (s : State) : State :=
  let s := { modPart s 0 (fun p => { p with setup := some aSetup }) with ctxs := [(0, aCtx)] }
  let s := memWrite s 0x40000000 8 (entryOf 0x80 0x40010000)
  let s := memWrite s 0x40010000 8 (entryOf 0xE1 0)
  let s := memWrite s 0x40010008 8 (entryOf 0xF1 0)
  let s := memWrite s 0x40010010 8 (entryOf 0xC1 0)
  let s := memWrite s 0x40010018 8 (entryOf 0xA1 0)
  let s := memWrite s 0x40010020 8 (entryOf 0x61 0)
  memWrite s 0x40010028 8 (entryOf 0xE1 1)
def mapped : State := pages one
def page (k : Nat) (staged : Bool) : Leaf :=
  { r := true, w := true, staged := staged, repl := false, prop := false, uns := false, base := 0, size := 2 ^ 31, level := 1, at0 := 0x40010000 + 8 * k }
def rlx : MemW := { scope := 0, ss := 15, ord := 0, rpro := false, ch := 0 }
def rel : MemW := { rlx with ord := 2, scope := 2 }
def relDie : MemW := { rlx with ord := 2, scope := 3 }
/-- With an address in s0, s1. -/
def addr (s : State) (va : Nat) : State := withU s [(0, BitVec.ofNat 32 va), (1, BitVec.ofNat 32 (va / 2 ^ 32))]
def at1000 : State := addr mapped 0x1000
def staged1000 : State := addr mapped 0x80001000

/-- Whether an address check ends well, at an address by a leaf. -/
def endsAt (x : Xlat) (pa : Nat) (l : Leaf) : Bool :=
  match x with
  | .ok p m => p == pa && m.r == l.r && m.w == l.w && m.staged == l.staged && m.repl == l.repl && m.prop == l.prop && m.uns == l.uns &&
      m.base == l.base && m.size == l.size && m.level == l.level && m.at0 == l.at0
  | _ => false
theorem of_endsAt {x : Xlat} {pa : Nat} {l : Leaf} (h : endsAt x pa l = true) : x = .ok pa l := by
  cases x with
  | ok p m => cases m; cases l; simp [endsAt] at h; simp [h]
  | _ => simp [endsAt] at h
/-- Without an invalidation in progress a walk has one outcome. -/
theorem walk_pick {s : State} (hs : s.stale = []) (p va : Nat) (wr : Bool) (pick : Nat) (ls : List (Nat × Nat × Nat × Nat)) (t : Nat) :
    walk s p va wr pick ls t = walk s p va wr 0 ls t := by
  induction ls generalizing t with
  | nil => rfl
  | cons e ls ih =>
    have hr : ∀ a k, readPte s p a k = readPte s p a 0 := fun a k => by simp [readPte, staleEntry, hs]
    simp only [walk, hr _ pick, ih]
theorem reaches {s : State} {va pa : Nat} {n : Need} {l : Leaf} (hs : s.stale = [])
    (h : endsAt (checkAddr s (cur s).ctx (dieOf (cur s).core) va n 0) pa l = true) (hl : l.uns = false)
    (hf : s.fixMem = [] := by rfl) : Reaches s va n pa l := by
  refine ⟨fun pick => ?_, by simp [hl], fun pick => by simp [cleanWalk, cleanFor, hf]⟩
  rw [← of_endsAt h]
  simp only [checkAddr, walk_pick hs _ _ _ pick]

theorem witness_ld : Rising at1000.bundle.lanes ∧ ∀ u ∈ acting plain true at1000,
    Reaches at1000 (dataAt at1000 u (.s 0) (.imm 0) 0 0) (loadNeed .n32 rlx) 0x1000 (page 0 false) := by
  refine ⟨by decide, fun u hu => ?_⟩
  have : acting plain true at1000 = [0] := by decide +kernel
  rw [this, List.mem_singleton] at hu
  subst hu
  exact reaches rfl (by decide +kernel) rfl
theorem witness_st : Sole plain false at1000 0 ∧ Reaches at1000 (dataAt at1000 0 (.s 0) (.imm 0) 0 0) (storeNeed .n32 rlx) 0x1000 (page 0 false) ∧
    OwnClear at1000 0 0x1000 4 ∧ OrderedClear at1000 0 0x1000 ∧ NothingOut at1000 [0] 2 ∧ (getCore at1000 0).lines.length < 64 ∧
    SMap.wf Core.empty at1000.cores = true ∧ mergeable at1000 rlx 0x1000 0x1000 4 [] = none := by
  refine ⟨⟨by decide +kernel, by decide +kernel⟩, reaches rfl (by decide +kernel) rfl, ?_, ?_, ?_, ?_, ?_, ?_⟩
  · unfold OwnClear; decide +kernel
  · unfold OrderedClear; decide +kernel
  · unfold NothingOut; decide +kernel
  · decide +kernel
  · decide +kernel
  · decide +kernel
theorem witness_stqry : Reaches staged1000 (dataAt staged1000 0 (.s 0) (.imm 0) 0 0) (stagedNeed true false 15) 0x1000 (page 1 true) :=
  reaches rfl (by decide +kernel) rfl
theorem witness_fence : Waits 0 relDie ∧ Waits 1 rel ∧ ¬ Waits 0 rel ∧ SMap.wf Core.empty two.cores = true := by decide
theorem witness_fence_clear : NothingOut two [0] 2 ∧ NothingOut two [1] 2 ∧ NothingOut two (acting plain true two) 0 := by
  unfold NothingOut; decide
def aLine : Line := { stamp := 0, pa := 0x1000, bytes := [(0, 1)], draining := false, ctx := 0, part := 0, prop := false, vgran := 0, after := [], repl := [], done := [] }
def lined : State := modCore one 0 (fun c => { c with lines := [aLine] })
theorem witness_releaseWaits : Sole plain true lined 0 ∧ Waits 0 relDie ∧ Waits 1 rel ∧ (∀ p ∈ (lane lined 0).pend, p.range = none) ∧
    SMap.wf Core.empty lined.cores = true ∧ aLine ∈ (getCore lined (cur lined).core).lines ∧
    aLine.stamp < (lane lined 0).relAt.getD lined.fresh := by
  refine ⟨⟨?_, ?_⟩, ?_, ?_, ?_, ?_, ?_, ?_⟩ <;> decide
/-- `st` into a line that is there. -/
theorem witness_st_merge : mergeable (modCore at1000 0 (fun c => { c with lines := [aLine] })) rlx 0x1000 0x1000 4 [] = some aLine := by decide +kernel
/-- Each outcome of a walk: a read-only page, a write-only page, one that is not valid, a malformed entry, a staged page. -/
def outcome (x : Xlat) : Nat := match x with
  | .ok _ l => b2n l.r + 2 * b2n l.w + 4 * b2n l.staged
  | .trap c i => 0x100000 * c + i
  | _ => 0
def walkOf (va : Nat) : Nat := outcome (walk mapped 0 va true mapped.fresh walkLevels (rootOf mapped 0 0))
theorem witness_addressTraps : walkOf 0x100000000 = 1 ∧ walkOf 0x180000000 = 2 ∧ walkOf 0x200000000 = 0x601105 ∧
    walkOf 0x280000000 = 0x601104 ∧ walkOf 0x80000000 = 7 := by decide +kernel
theorem witness_addressTraps_space : dataAt (addr mapped 0x1002) 0 (.s 0) (.imm 0) 0 0 % 4 ≠ 0 ∧
    dataAt (addr mapped (2 ^ 56)) 0 (.s 0) (.imm 0) 0 0 / 2 ^ 56 ≠ 0 ∧ dataAt (addr mapped (3 * 2 ^ 54)) 0 (.s 0) (.imm 0) 0 0 / 2 ^ 54 = 3 ∧
    ({ rlx with ss := 2 } : MemW).ss.getLsbD (dataAt (addr mapped (2 ^ 54)) 0 (.s 0) (.imm 0) 0 0 / 2 ^ 54 + 1) = false := by decide +kernel

/-- Atomics: `atom` to page 0, and the three cases of `red`. -/
def comb : Comb := { pa := 0x1000, ty := .n32, op := 0, val := 5, who := [{ core := 1, stamp := 3, ctx := 0, part := 0, prop := false, vgran := 0 }] }
def combined1 : State := setCombs at1000 0 [comb]
theorem witness_atom : AtomReady plain at1000 0 (dataAt at1000 0 (.s 0) (.imm 0) 0 0) 0x1000 0 (page 0 false) .n32 rlx := by
  refine ⟨⟨by decide +kernel, by decide +kernel⟩, reaches rfl (by decide +kernel) rfl, by decide, ?_, fun h => ?_, by decide +kernel⟩
  · unfold OwnClear; decide +kernel
  · rcases h with h | h <;> exact absurd h (by decide)
theorem witness_red : (getCombs at1000 0).length < 32 ∧ (∀ e ∈ getCombs at1000 0, overlap e.pa (e.ty.width / 8) 0x1000 4 = false) := by
  decide +kernel
theorem witness_red_merge : AtomReady plain combined1 0 (dataAt combined1 0 (.s 0) (.imm 0) 0 0) 0x1000 0 (page 0 false) .n32 rlx ∧
    getCombs combined1 0 = [comb] := by
  refine ⟨⟨⟨by decide +kernel, by decide +kernel⟩, reaches rfl (by decide +kernel) rfl, by decide, ?_, fun h => ?_, by decide +kernel⟩,
    by decide +kernel⟩
  · unfold OwnClear; decide +kernel
  · rcases h with h | h <;> exact absurd h (by decide)
def aReq (kind : ReqKind) (size : Nat) : Req :=
  { id := 7, stamp := 0, origin := .thread 0 0 9, who := [0], wg := 0, core := 0, ctx := 0, part := 0, die := 0, pa := 0x1000, ret := true, prop := false
    vgran := 0, kind := kind, size := size, scope := 0, ss := 15, after := [], behind := [], held := false }
def atomReq : Req := aReq (.atom 0 .n32 false [(0, 9, 3, 0)]) 4
def homing : State := { mapped with reqs := [atomReq] }
theorem witness_atomicAtHome : homing.reqs.find? (fun x => x.id == 7) = some atomReq ∧ mayPerform homing atomReq = true ∧
    getCombs homing (clusterOf atomReq.core) = [] ∧ memBad homing atomReq.pa 4 = false ∧ ([(0, 9, 3, 0)].map (fun l : Nat × Nat × Nat × Nat => l.2.1)).Nodup := by
  decide +kernel

/-- A result that is known, and a load that may read. -/
def known : State := with0 one (fun th => { th with pend := [aPend] })
theorem witness_longLatency : (getWg known 0).status = .resident ∧ (thOf known 0 0).pend[0]? = some aPend ∧
    (∀ q ∈ (thOf known 0 0).pend, q.tok = aPend.tok → q = aPend) ∧ aPend.src = .known ∧ aPend.bad = none ∧
    ∀ q ∈ (thOf known 0 0).pend, q ≠ aPend → q.meetsDest aPend = false := by decide +kernel
theorem no_other {v : Nat} (h : v ≠ 0) : ∀ q ∈ (thOf known 0 v).pend, q.tok ≠ aPend.tok := by
  intro q hq
  have : (thOf known 0 v).pend = [] := by
    by_cases hv : v < 32
    · have hall : ∀ v < 32, v ≠ 0 → (thOf known 0 v).pend = [] := by decide +kernel
      exact hall v hv h
    · have hl : (getWg known 0).threads.length = 32 := by decide +kernel
      rw [thOf, getTh_of_le (by omega)]; rfl
  simp [this] at hq
def aLoad : Pend := loadOf plain 0 0x1000 0x1000 .n32 (.v 3) rlx false
def loading : State := with0 mapped (fun th => { th with pend := [aLoad] })
theorem witness_load : (thOf loading 0 0).pend[0]? = some aLoad ∧ (∀ q ∈ (thOf loading 0 0).pend, q ≠ aLoad → q.range = none) ∧
    canCapture loading 0 0 aLoad = true ∧ getCombs loading (clusterOf (getWg loading 0).core) = [] ∧
    coreBad loading (getWg loading 0).core 0x1000 4 = false := by decide +kernel

/-- Staged objects. -/
theorem witness_stx : Sole plain false staged1000 0 ∧
    Reaches staged1000 (dataAt staged1000 0 (.s 0) (.imm 0) 0 0) (stagedNeed true true 15) 0x1000 (page 1 true) ∧
    (getCore staged1000 0).parks.length < 256 ∧
    (∀ e ∈ (getCore staged1000 0).parks, ¬ (e.pa = some 0x1000 ∧ e.wg = 0 ∧ e.grp = 0)) :=
  ⟨⟨by decide +kernel, by decide +kernel⟩, reaches rfl (by decide +kernel) rfl, by decide +kernel, by decide +kernel⟩
theorem witness_stinit : Reaches staged1000 (dataAt staged1000 0 (.s 0) (.imm 0) 0 0) (stagedNeed false true 15) 0x1000 (page 1 true) ∧
    (cur staged1000).hdr.stcls.testBit ((rd64 staged1000 0 (.imm 0x35)).toNat / 16 % 16) = true ∧ clearingAt staged1000 0x1000 = false ∧
    ∀ r ∈ staged1000.reqs, r.held = true → r.pa ≠ 0x1000 :=
  ⟨reaches rfl (by decide +kernel) rfl, by decide +kernel, by decide +kernel, by decide +kernel⟩
/-- Two lanes that name one object. -/
def sharing : State := { staged1000 with bundle := two.bundle }
theorem witness_sharers : Rising sharing.bundle.lanes ∧
    sharers (acting plain false sharing) (fun u => dataAt sharing u (.s 0) (.imm 0) 0 0) = [0, 1] ∧
    (∀ u ∈ acting plain false sharing, (lane sharing u).pend = [] → (lane sharing u).th = false) := by decide +kernel
/-- `stload`: an image at 0x1000 in page 0: with one state, with none, and with a wrong entry. -/
def image : State := memWrite at1000 0x1000 1 1
def imageBad : State := memWrite image 0x1010 1 1
theorem witness_stload : Sole plain true image 0 ∧ Reaches image (rd64 image 0 (.s 0)).toNat imageNeed 0x1000 (page 0 false) ∧
    Reaches image ((rd64 image 0 (.s 0)).toNat + 512) imageNeed (0x1000 + 512) (page 0 false) ∧ 0x1000 % 2 ^ 31 + 528 ≤ 2 ^ 31 ∧
    (∀ k < 528, coreBad image (cur image).core (0x1000 + k) 1 = false) ∧ NothingOut image [0] 0 ∧
    getCombs image (clusterOf (cur image).core) = [] ∧ clearingAt image 0x1000 = false ∧
    clearingAt image (0x1000 + 512) = false ∧ (cur image).hdr.stcls.testBit 3 = true := by
  refine ⟨⟨by decide +kernel, by decide +kernel⟩, reaches rfl (by decide +kernel) rfl, reaches rfl (by decide +kernel) rfl, by decide,
    by decide +kernel, ?_, by decide +kernel, by decide +kernel, by decide +kernel, by decide +kernel⟩
  unfold NothingOut; decide +kernel
theorem witness_stload_image : (coreByte image 0 0x1000).toNat = 1 ∧ (∀ k < 15, (coreByte image 0 (0x1001 + k)).toNat = 0) ∧
    (∀ k < 256, coreByte image 0 (0x1010 + 2 * k) = 0 ∧ coreByte image 0 (0x1011 + 2 * k) = 0) ∧ (coreByte at1000 0 0x1000).toNat = 0 ∧
    (coreByte imageBad 0 0x1010).toNat % 16 ≥ (coreByte imageBad 0 0x1000).toNat ∧
    (withWg image (fun g => { g with hdr := { g.hdr with stcls := 0 } }) |> cur).hdr.stcls.testBit 3 = false := by decide +kernel

/-- Transitions: an object of class 1 in state 0 at 0x1000, whose payload is an address, and a table with an entry of each ACT. -/
def acts : STable := { n := 2, ent := [(0, 0x0001), (1, 0x0010), (2, 0x0020), (3, 0x0031), (4, 0x0041), (5, 0x0051), (6, 0x0100)] }
def transReq (t : Nat) : Req := aReq (.trans t 0 0x80001000) 16
def staging (r : Req) : State :=
  let s := memWrite (modCtx mapped 0 (fun c => { c with classes := [(1, acts)] })) 0x1000 8 (if r = transReq 5 then 0x80002000_0010 else 0x2000_0010)
  { s with reqs := [r] }
def chainReq (t : Nat) : Req := aReq (.chain t 0 0x80001000 (0, none)) 16
/-- Where no error is correctable, a read counts none. -/
theorem noFix {s : State} (h : s.fixMem = []) (pa n : Nat) : countReads s pa n = s := by simp [countReads, h]
theorem consults {r : Req} {t e : Nat} (h1 : turnOf (staging r) r = true ∧ memBad (staging r) r.pa 16 = false ∧ (staging r).fixMem = [] ∧ r.prop = false ∧
    0 = memRead (staging r) r.pa 8 % 16 ∧ 1 = memRead (staging r) r.pa 8 / 16 % 16 ∧ memRead (staging r) r.pa 8 / 2 ^ 9 % 2 ^ 7 = 0)
    (h2 : ((getCtx (staging r) r.ctx).bind (fun x => SMap.find x.classes 1)) = some acts) (h3 : e = acts.entry 0 t) :
    Consults (staging r) r t 1 0 e := by
  obtain ⟨a, b, n, c, d, f, g⟩ := h1
  refine ⟨a, b, noFix n _ _, c, d, f, g, ?_⟩
  cases hc : getCtx (staging r) r.ctx with
  | none => simp [hc] at h2
  | some x => exact ⟨x, acts, rfl, by simpa [hc] using h2, by decide, h3⟩
theorem witness_transition : ∀ t < 6, (staging (transReq t)).reqs.find? (fun q => q.id == 7) = some (transReq t) ∧ (transReq t).kind = .trans t 0 0x80001000 ∧
    actOf (acts.entry 0 t) = t ∧ (transReq t).byThread = true := by decide +kernel
theorem witness_consults_all : ∀ t, t < 7 → Consults (staging (transReq t)) (transReq t) t 1 0 (acts.entry 0 t) := by
  intro t ht
  have h : ∀ t < 7, (turnOf (staging (transReq t)) (transReq t) = true ∧ memBad (staging (transReq t)) (transReq t).pa 16 = false ∧
      (staging (transReq t)).fixMem = [] ∧
      (transReq t).prop = false ∧ 0 = memRead (staging (transReq t)) (transReq t).pa 8 % 16 ∧
      1 = memRead (staging (transReq t)) (transReq t).pa 8 / 16 % 16 ∧ memRead (staging (transReq t)) (transReq t).pa 8 / 2 ^ 9 % 2 ^ 7 = 0) ∧
      ((getCtx (staging (transReq t)) (transReq t).ctx).bind (fun x => SMap.find x.classes 1)) = some acts := by decide +kernel
  exact consults (h t ht).1 (h t ht).2 rfl
theorem witness_consults_chain : ∀ t, t < 6 → Consults (staging (chainReq t)) (chainReq t) t 1 0 (acts.entry 0 t) := by
  intro t ht
  have h : ∀ t < 6, (turnOf (staging (chainReq t)) (chainReq t) = true ∧ memBad (staging (chainReq t)) (chainReq t).pa 16 = false ∧
      (staging (chainReq t)).fixMem = [] ∧
      (chainReq t).prop = false ∧ 0 = memRead (staging (chainReq t)) (chainReq t).pa 8 % 16 ∧
      1 = memRead (staging (chainReq t)) (chainReq t).pa 8 / 16 % 16 ∧ memRead (staging (chainReq t)) (chainReq t).pa 8 / 2 ^ 9 % 2 ^ 7 = 0) ∧
      ((getCtx (staging (chainReq t)) (chainReq t).ctx).bind (fun x => SMap.find x.classes 1)) = some acts ∧
      (acts.entry 0 t).testBit 8 = false := by decide +kernel
  exact consults (h t ht).1 (h t ht).2.1 rfl
/-- An entry with REL: with nothing left to release, and with a line of its core that has not drained. -/
def relReq : Req := { transReq 6 with scope := 3, stamp := 5 }
def relWaiting : State := modCore (staging relReq) 0 (fun c => { c with lines := [aLine] })
theorem witness_release : (acts.entry 0 6).testBit 8 = true ∧ actOf (acts.entry 0 6) = 0 ∧ relReq.byThread = true ∧ relReq.held = false ∧
    (∀ t < 6, (acts.entry 0 t).testBit 8 = false) := by decide +kernel
theorem witness_release_drained : LanesClear (staging relReq) relReq ∧ Drained (staging relReq) relReq ∧ LanesClear relWaiting relReq ∧
    ¬ Drained relWaiting relReq := by
  have ht : tokThreads (staging relReq) 0 9 = [] ∧ tokThreads relWaiting 0 9 = [] := by decide +kernel
  refine ⟨fun w u tok h v hv => ?_, by unfold Drained; decide +kernel, fun w u tok h v hv => ?_, by unfold Drained; decide +kernel⟩ <;> cases h
  · rw [ht.1] at hv; cases hv
  · rw [ht.2] at hv; cases hv
theorem witness_postEntry : let s := staging (transReq 4); (memRead s 0x1000 8).testBit 8 = false ∧ memRead s 0x1000 8 / 2 ^ 16 % 128 = 0 ∧
    (getPart s 0).store.length < 1024 := by decide +kernel
theorem witness_postEntry_at : let s := staging (transReq 4)
    EntryAt s (transReq 4) (memRead s 0x1000 8 / 2 ^ 16) 0x2000 := by
  refine ⟨page 0 false, of_endsAt (by decide +kernel), fun h => absurd h (by decide), by decide +kernel, by decide +kernel, by decide +kernel⟩
/-- A full store, and a full ring; a request of a thread and of a copy. -/
def fullStore : State := modPart (staging (transReq 4)) 0 (fun p => { p with store := List.replicate 1024 (0, 0) })
def fullRing : State := modCtx fullStore 0 (fun c => { c with spill := List.replicate 4096 0 })
theorem witness_spill : 1024 ≤ (getPart fullStore 0).store.length ∧ ((getCtx fullStore 0).map (fun y => decide (y.spill.length < 4096))) = some true ∧
    1024 ≤ (getPart fullRing 0).store.length ∧ ((getCtx fullRing 0).map (fun y => decide (4096 ≤ y.spill.length))) = some true ∧
    (transReq 4).byThread = true ∧ ({ transReq 4 with origin := .copy 0 0 } : Req).byThread = false := by decide +kernel
theorem witness_chainEntry : let s := staging (transReq 5); endsAt (checkAddr s 0 0 (memRead s 0x1000 8 / 2 ^ 16) (stagedNeed true true 0b1111) s.fresh)
    0x2000 (page 1 true) = true := by decide +kernel

/-- The ends of waits. -/
def waiting (w : Wait) : State := with0 one (fun th => { th with wait := w })
theorem witness_waits : (thOf (waiting .parkRetry) 0 0).wait = .parkRetry ∧ (thOf (waiting .faultRetry) 0 0).wait = .faultRetry ∧
    (thOf (waiting (.sleep 0)) 0 0).wait = .sleep 0 ∧ (getWg one 0).status = .resident ∧ (thOf one 0 0).live = true := by decide
def parkEnt : ParkEnt := { pa := some 0x1000, ctx := 0, wg := 0, grp := 0, mask := [0], wait := [] }
def parked : State := { modCore (waiting (.park 0x1000)) 0 (fun c => { c with parks := [parkEnt] }) with wakes := [(0, some 0x1000, 0)] }
theorem witness_parkWake : parked.wakes[0]? = some (0, some 0x1000, 0) ∧ (∀ x ∈ parked.wakes.take 0, x.1 ≠ 0) ∧ (getCore parked 0).parks = [parkEnt] ∧
    ∀ t ∈ parkEnt.mask, (thOf parked parkEnt.wg t).wait = .park 0x1000 := by decide
/-! Barriers and queues. -/
def withBar (s : State) (f : Barrier → Barrier) : State := modBar s 0 0 f
theorem witness_barrier : AtBarrier plain two 0 0 (.imm 0) 0 ∧ AtBarrier plain two 0 15 (.imm 15) 0 := by
  refine ⟨⟨by decide, ⟨by decide, by decide⟩, ?_⟩, ⟨by decide, ⟨by decide, by decide⟩, ?_⟩⟩ <;> decide +kernel
theorem witness_binit : rd two 0 .n32 (.imm 1) 0 = (cur two).groups.length ∧ (bar two 0).arr = 0 ∧ (bar two 0).e = 0 ∧ (bar two 0).wait = 0 := by
  decide +kernel
theorem witness_barrive : (bar two 0).arr.getLsbD 0 = false ∧ (bar two 0).flt = false ∧ NothingOut two (acting plain true two) 1 ∧
    isUni (.s 3) = true ∧ ∀ u ∈ two.bundle.lanes, (lane two u).arrived = none := by
  unfold NothingOut; decide +kernel
theorem witness_bsync : phaseMet { bar two 0 with arr := (bar two 0).arr ||| bitOf 0 } ∧ (bar two 0).wait.getLsbD 0 = false ∧
    ¬ phaseMet { bar (withBar two (fun b => { b with g := 2 })) 0 with arr := (bar two 0).arr ||| bitOf 0 } := by decide +kernel
theorem witness_bwait : (bar two 0).ph ≠ (rd two 0 .n32 (.imm 1) 0).testBit 0 ∧ (bar two 0).lf = false ∧
    (bar two 0).ph = (rd two 0 .n32 (.imm 0) 0).testBit 0 := by decide +kernel
theorem witness_bexpect : (bar two 0).e + (BitVec.ofNat 32 (rd two 0 .n32 .lit 511)).toInt = 511 ∧
    (bar two 0).e + (BitVec.ofNat 32 (rd two 0 .n32 .lit 0xFFFFFE00)).toInt = -512 ∧ (bar two 0).held = [] := by decide +kernel
theorem witness_barrier_traps : rd one 0 .n32 (.imm 16) 0 ≥ (cur one).hdr.bars ∧ rd one 0 .n32 (.imm 0) 0 < 1 ∧
    rd one 0 .n32 (.imm 2) 0 > (cur one).groups.length ∧ (bar (withBar one (fun b => { b with arr := 1 })) 0).arr &&& bitOf 0 ≠ 0 ∧
    (bar one 0).e + (BitVec.ofNat 32 (rd one 0 .n32 .lit 512)).toInt > 511 ∧
    (bar (withBar one (fun b => { b with ph := true, lf := true })) 0).ph ≠ (rd one 0 .n32 (.imm 0) 0).testBit 0 := by decide +kernel

/-- A misuse in a bundle of two lanes of a group. -/
theorem witness_group_misuse : Rising two.bundle.lanes ∧ OneGroup plain true two 0 ∧ (∀ v ∈ two.bundle.lanes, (lane two v).pend = [] → (lane two v).th = false) ∧
    rd two ((acting plain true two).headD 0) .n32 (.imm 16) 0 ≥ (cur two).hdr.bars ∧ rd two ((acting plain true two).headD 0) .n32 (.imm 16) 0 ≥ (cur two).hdr.queues := by
  refine ⟨?_, ⟨?_, ?_⟩, ?_, ?_, ?_⟩ <;> decide +kernel

def queue : State := withWg two (fun g => { g with queues := modAt g.queues 0 (fun q => { q with depth := 4, allow := [(0, 2)] }) })
def queued : State := withWg queue (fun g => { g with queues := modAt g.queues 0 (fun q => { q with fifo := [(7, 0)] }) })
theorem witness_queue : AtQueue plain true two 0 0 (.imm 0) 0 ∧ AtQueue plain false queue 0 0 (.imm 0) 0 ∧ AtQueue plain false queued 0 0 (.imm 0) 0 := by
  refine ⟨⟨by decide, ⟨by decide, by decide⟩, ?_⟩, ⟨by decide +kernel, ⟨by decide +kernel, by decide +kernel⟩, ?_⟩,
    ⟨by decide +kernel, ⟨by decide +kernel, by decide +kernel⟩, ?_⟩⟩ <;> decide +kernel
theorem witness_qinit : rd two 0 .n32 (.imm 64) 0 = 64 ∧ (que two 0).fifo = [] ∧ (que two 0).pushW = [] ∧ (que two 0).popW = [] := by decide +kernel
theorem witness_qallow : (que queue 0).depth ≠ 0 ∧ rd queue 0 .n32 (.imm 0) 0 < (cur queue).groups.length ∧
    ((allowing (que queue 0) 0 4).allow.map Prod.snd).sum + (que queue 0).fifo.length = (que queue 0).depth := by decide +kernel
theorem witness_qpush : rd64 queue 0 (.imm 7) ≠ 0 ∧ 0 < SMap.get 0 (que queue 0).allow 0 ∧ NothingOut queue (acting plain false queue) 1 ∧
    SMap.get 0 (que queue 0).allow 1 = 0 := by
  unfold NothingOut; decide +kernel
theorem witness_qpush_waits : SMap.get 0 (que (withWg queue (fun g => { g with queues := modAt g.queues 0 (fun q => { q with allow := [] }) })) 0).allow 0 = 0 := by
  decide +kernel
theorem witness_qpop : (que queued 0).fifo = [(7, 0)] ∧ (que queue 0).fifo = [] := by decide +kernel
theorem witness_queue_traps : rd one 0 .n32 (.imm 8) 0 ≥ (cur one).hdr.queues ∧ rd one 0 .n32 .lit 65 > 64 ∧ (que queued 0).fifo ≠ [] ∧
    (que one 0).depth = 0 ∧ ((allowing (que queue 0) 0 5).allow.map Prod.snd).sum > (que queue 0).depth ∧ rd64 queue 0 (.imm 0) = 0 := by decide +kernel

/-! Copies: of 64 bytes from region 1 to data address 0x1000, and a tensor copy of four words by the descriptor at data address 0. -/
def block (len : Word) : List (Nat × Word) := [(8, 0), (9, 0x1001), (10, 0x1000), (11, 0), (12, len), (13, 0x8000), (14, 0), (15, 0)]
def region1 : Region := { base := 0x100000, len := 0x10000, r := true, w := false, staged := false, prop := false, repl := [], gen := 1 }
def regioned : State := modCtx mapped 0 (fun c => { c with regions := [(1, region1)] })
def copying : State := withU regioned (block 64)
def tensor : State := withWg (withU { regioned with bundle := two.bundle } (block 0)) (fun g =>
  { g with data := [(0, 0x21), (32, 4), (36, 4), (44, 4), (48, 4)] })
def aDesc : Desc := { kind := 2, rank := 1, pad := 0, auxs := 0, auxd := 0, dims := [{ dstr := 4, sstr := 4, soff := 0, sext := 4, dext := 4 }] }
theorem witness_cpy : isUni (.s 20) = true ∧ CopyReady plain copying 0 ∧ cpyTrap (cur copying) (cmdOf copying 0 (.s 8)) = none := by
  refine ⟨rfl, ⟨by decide +kernel, ⟨by decide +kernel, by decide +kernel⟩, by decide +kernel, by decide +kernel, ?_⟩, by decide +kernel⟩
  unfold NothingOut; decide +kernel
theorem witness_cpyt : CopyReady plain tensor 0 ∧ spBad (cur tensor) 0 256 = none ∧ toDesc (spRead (cur tensor) 0 256) = some aDesc ∧
    commandCheck (cur tensor) (cmdOf tensor 0 (.s 8)) (some aDesc) = none := by
  refine ⟨⟨by decide +kernel, ⟨by decide +kernel, by decide +kernel⟩, by decide +kernel, by decide +kernel, ?_⟩, by decide +kernel,
    by decide +kernel, by decide +kernel⟩
  unfold NothingOut; decide +kernel
theorem witness_cpy_traps :
    cpyTrap (cur copying) (cmdOf (withU copying [(12, 2)]) 0 (.s 8)) = some (0x0C, 2, 0) ∧
    cpyTrap (withWg copying (fun g => { g with hdr := { g.hdr with bars := 0 } }) |> cur) (cmdOf (withU copying [(13, 0x208000)]) 0 (.s 8)) = some (0x0C, 3, 0) ∧
    cpyTrap (cur copying) (cmdOf (withU copying [(10, 0x1002)]) 0 (.s 8)) = some (0x04, 0, 0x1002) ∧
    cpyTrap (cur copying) (cmdOf (withU copying [(10, 0x6FFFC4)]) 0 (.s 8)) = some (0x0A, 0x200, 0x6FFFC4) ∧
    cpyTrap (cur copying) (cmdOf (withU copying [(10, 0x6FFFC0)]) 0 (.s 8)) = none ∧ ¬ Producer copying 1 ∧
    toDesc (spRead (cur copying) 0 256) = none := by decide +kernel
def aCopy : Copy := { num := 0, chan := 0, ticket := 64, len := 64, ctl := 0x8000, src := 0x1001_00000000, dst := 0x1000, cobj := 0, desc := none, chunk := 0
                      failed := none, relAt := 0, begun := false, moved := false, held := none }
/-- Channel 0 with a copy in progress; and with a fault record. -/
def streaming (c : Copy) : State := withWg regioned (fun g => { g with copies := [c], chans := modAt g.chans 0 (fun x => { x with ip := 64 }) })
def faulted : State := withWg (streaming aCopy) (fun g =>
  { g with copies := [], chans := modAt g.chans 0 (fun x => { x with ip := 64, wp := 64, fault := some (0, ⟨1, 2, 0x0D⟩) }) })
theorem witness_cpwait : (∀ c ∈ (cur (streaming aCopy)).copies, c.chan < 4) ∧ hasReached (getChan (cur (streaming aCopy)) 0).ip 64 ∧
    ¬ hasReached (getChan (cur (streaming aCopy)) 0).wp 64 ∧ hasReached (getChan (cur (streaming aCopy)) 0).wp 0 ∧
    faultBelow (streaming aCopy) 0 0 = none ∧ ¬ hasReached (getChan (cur (streaming aCopy)) 0).ip 65 := by decide +kernel
theorem witness_cpfence : (cur (streaming aCopy)).copies.filter (fun c => Nat.testBit 2 c.chan) = [] ∧
    (cur (streaming aCopy)).copies.filter (fun c => Nat.testBit 1 c.chan) ≠ [] ∧
    (∀ c < 4, Nat.testBit 2 c = true → faultBelow (streaming aCopy) c (getChan (cur (streaming aCopy)) c).ip = none) := by decide +kernel
theorem witness_cpwait_fault : Sole plain true faulted 0 ∧ hasReached (getChan (cur faulted) 0).ip 64 ∧ hasReached (getChan (cur faulted) 0).wp 64 ∧
    faultBelow faulted 0 64 = some ⟨1, 2, 0x0D⟩ := by
  refine ⟨⟨?_, ?_⟩, ?_, ?_, ?_⟩ <;> decide +kernel
/-- Two lanes at a channel with a fault record, and none below it. -/
def faulted2 : State := { faulted with bundle := two.bundle }
theorem witness_cpfence_fault : Rising faulted2.bundle.lanes ∧ OneGroup plain true faulted2 0 ∧
    (∀ v ∈ faulted2.bundle.lanes, (lane faulted2 v).pend = [] → (lane faulted2 v).th = false) ∧
    (cur faulted2).copies.filter (fun c => Nat.testBit 1 c.chan) = [] ∧ Nat.testBit 1 0 = true ∧
    faultBelow faulted2 0 (getChan (cur faulted2) 0).ip = some ⟨1, 2, 0x0D⟩ := by
  refine ⟨?_, ⟨?_, ?_⟩, ?_, ?_, ?_, ?_⟩ <;> decide +kernel
theorem heads {s : State} {w ch : Nat} {c : Copy} (h1 : (getWg s w).status = .resident ∧ ((getCtx s (getWg s w).ctx).map Ctx.dead) = some false ∧
    (∀ th ∈ (getWg s w).threads, th.wait = .none) ∧ (getWg s w).copies.find? (fun x => x.chan == ch) = some c ∧ c.chan = ch ∧ w < s.wgs.length) :
    Heads s w ch c := by
  obtain ⟨a, b, c, d, e, f⟩ := h1
  refine ⟨a, ?_, c, d, e, f⟩
  obtain ⟨x, hx, hd⟩ := Option.map_eq_some_iff.1 b
  exact ⟨x, hx, hd⟩
theorem witness_copyChunk : Heads (streaming aCopy) 0 0 aCopy ∧ aCopy.failed = none ∧ 4096 * aCopy.chunk < aCopy.len ∧ aCopy.desc = none ∧
    SMap.wf 0 (getWg (streaming aCopy) 0).data = true ∧ (0, 0) ∉ (getCore (streaming aCopy) 0).served ∧
    getCombs (streaming aCopy) 0 = [] ∧
    turnedAway { aCtx with regions := [(1, region1)] } aCopy.src 0 64 false false = none ∧
    clearingAt (streaming aCopy) 0x100000 = false ∧ clearingAt (streaming aCopy) 0x10003F = false ∧ coreBad (streaming aCopy) 0 0x100000 64 = false :=
  ⟨heads (by decide +kernel), by decide, by decide, by decide, by decide +kernel, by decide +kernel, by decide +kernel, by decide, by decide +kernel, by decide +kernel,
    by decide +kernel⟩
/-- Channel 0 has been served, and channel 1 with work has not been served since. -/
def turns : State := modCore (withWg (streaming aCopy) (fun g => { g with copies := [aCopy, { aCopy with num := 1, chan := 1 }] })) 0 (fun c =>
  { c with served := [(0, 0)] })
theorem witness_turn : Heads turns 0 0 aCopy ∧ (0, 1) ∈ workOf turns 0 ∧ (0, 0) ∈ (getCore turns 0).served ∧
    (0, 1) ∉ (getCore turns 0).served.takeWhile (· != (0, 0)) := ⟨heads (by decide +kernel), by decide +kernel, by decide +kernel, by decide +kernel⟩
theorem witness_copyChunk_first : ¬ { aCopy with len := 4097 }.len ≤ 4096 * (aCopy.chunk + 1) ∧ aCopy.len ≤ 4096 * (aCopy.chunk + 1) ∧
    turnedAway { aCtx with regions := [(1, region1)] } aCopy.src 0 4096 false false = none := by decide
theorem witness_copyChunk_fault :
    turnedAway aCtx aCopy.src 0 64 false false = some 1 ∧
    turnedAway { aCtx with regions := [(1, { region1 with gen := 2 })] } aCopy.src 0 64 false false = some 2 ∧
    turnedAway { aCtx with regions := [(1, region1)] } (aCopy.src + 0xFFC1) 0 64 false false = some 3 ∧
    turnedAway { aCtx with regions := [(1, region1)] } (aCopy.src + 0xFFC0) 0 64 false false = none ∧
    turnedAway { aCtx with regions := [(1, { region1 with r := false })] } aCopy.src 0 64 false false = some 4 ∧
    turnedAway { aCtx with regions := [(1, { region1 with staged := true })] } aCopy.src 0 64 false false = some 5 := by decide
def delivered : Copy := { aCopy with chunk := 1 }
theorem witness_copyCompletion : Heads (streaming delivered) 0 0 delivered ∧ delivered.len ≤ 4096 * delivered.chunk ∧ delivered.ctl.getLsbD 26 = false ∧
    delivered.ctl.getLsbD 28 = false ∧ delivered.ctl.getLsbD 21 = false ∧ ∀ b ∈ (getWg (streaming delivered) 0).bars, b.held = [] :=
  ⟨heads (by decide +kernel), by decide, by decide, by decide, by decide, by decide +kernel⟩
def arriving : Copy := { delivered with ctl := 0x208000 }
theorem witness_copyArrival : Heads (streaming arriving) 0 0 arriving ∧ arriving.ctl.getLsbD 21 = true ∧
    -512 ≤ (getBar (getWg (streaming arriving) 0) 0).e - 1 ∧
    ¬ phaseMet { getBar (getWg (streaming arriving) 0) 0 with e := (getBar (getWg (streaming arriving) 0) 0).e - 1 } :=
  ⟨heads (by decide +kernel), by decide, by decide +kernel, by decide +kernel⟩
/-! The matrix array. -/
def whole : State := { two with bundle := { wg := 0, lanes := List.range 32 } }
theorem witness_array : OnArray plain whole 0 Anvil.fresh ∧ Anvil.fresh.wf = true ∧ Anvil.fresh.queue.length < 8 ∧ (cur whole).badd = [] ∧
    Anvil.fresh.fa < 5 ∧ Anvil.fresh.fb < 5 ∧ (Anvil.fresh.pBank false).bad = [] ∧ (Anvil.fresh.cBank true).bad = [] ∧
    NothingOut whole whole.bundle.lanes 1 := by
  refine ⟨⟨?_, ⟨?_, ?_⟩, ?_, ?_, ?_⟩, ?_, ?_, ?_, ?_, ?_, ?_, ?_, ?_⟩ <;> (try unfold NothingOut) <;> decide +kernel
/-- The array with one instruction in its queue, of which nothing has been done. -/
def aJob (cmd : ACmd) : AJob := { num := 0, grp := 0, moves := 0, arv := none, cmd := cmd, span := cmd.span, got := [], wrote := 0, acted := false, errs := [] }
def beginning (cmd : ACmd) : State := withWg whole (fun g => { g with anvil := some { Anvil.fresh with queue := [aJob cmd] } })
theorem witness_begins (cmd : ACmd) : Begins (beginning cmd) 0 { Anvil.fresh with queue := [aJob cmd] } (aJob cmd) [] cmd ∧
    (getWg (beginning cmd) 0).badd = [] :=
  have hf : Anvil.fresh.wf = true := by decide
  have hb : ∀ b ∈ (getWg whole 0).bars, b.held = [] := by decide +kernel
  ⟨⟨rfl, hf, rfl, by simp, rfl, rfl, rfl, rfl, show 0 < 1 by decide, hb⟩, rfl⟩
theorem witness_tile : TileOk whole true 15 0 0x6FFC00 0x6FFF80 ∧ TileOk whole false 0 4 0x6FFC00 0 ∧ ¬ TileOk whole false 0 2 0x6FFC00 0 := by
  unfold TileOk; decide +kernel
theorem witness_rect : RectOk whole 0 0 (.imm 0) ∧ RectOk (withU whole [(4, 0x01007F00)]) 0 2 (.s 4) = False ∧ cWord (.s 4) 0x104 := by
  refine ⟨by unfold RectOk; decide +kernel, ?_, by unfold cWord; decide +kernel⟩
  unfold RectOk
  exact eq_false (fun h => absurd (h (by decide)) (by decide +kernel))
theorem witness_rect_edge : RectOk (withU whole [(4, 0x00007F7F)]) 0 2 (.s 4) := by
  intro _; refine ⟨?_, ?_, ?_, ?_, ?_, ?_⟩ <;> decide +kernel
theorem witness_bank : rd whole 0 .n32 (.imm 0) 0 % 4 = 0 ∧ 4 * (rectAt whole 0 0 (.imm 0)).w ≤ rd whole 0 .n32 .lit 0xDE00 ∧
    (∀ i < (rectAt whole 0 0 (.imm 0)).h, rd whole 0 .n32 .lit 0x400 + i * rd whole 0 .n32 .lit 0xDE00 + 4 * (rectAt whole 0 0 (.imm 0)).w ≤
      (cur whole).hdr.sdata) ∧ SMap.wf 0 (cur whole).data = true ∧
    (rectAt (withU whole [(4, 0x0F107F)]) 0 2 (.s 4)).w % 16 ≠ 0 ∧ (rectAt (withU whole [(4, 0x0F00107F)]) 0 2 (.s 4)).w % 16 = 0 := by decide +kernel
def job : AJob := { aJob (.zero false) with acted := true, errs := [0x6000000000000001] }
def busy : State := withWg whole (fun g => { g with anvil := some { Anvil.fresh with queue := [job] } })
theorem witness_merr : isUni (.s 3) = true ∧ Anvil.fresh.queue = [] ∧ OnArray plain busy 0 { Anvil.fresh with queue := [job] } ∧ [job] ≠ [] := by
  refine ⟨rfl, rfl, ⟨?_, ⟨?_, ?_⟩, ?_, ?_, ?_⟩, ?_⟩ <;> decide +kernel
theorem witness_group_raises : Rising whole.bundle.lanes ∧ (∀ u ∈ whole.bundle.lanes, grpOf u = 0 ∧ (lane whole u).th = false) ∧
    Rising two.bundle.lanes ∧ (∀ u ∈ two.bundle.lanes, grpOf u = 0 ∧ (lane two u).th = false) := by
  refine ⟨?_, ?_, ?_, ?_⟩ <;> decide +kernel
theorem witness_array_traps : missing plain (modTh whole 0 31 (fun th => { th with live := false })) 0 = 0x80000000 ∧ missing plain whole 0 = 0 ∧
    (cur (withWg whole (fun g => { g with anvil := none }))).anvil = none ∧
    tileTrap (withWg whole (fun g => { g with hdr := { g.hdr with bars := 3 } })) true 3 0 0 0 = some (misused 0 3 1) ∧
    tileTrap whole false 0 0 0x101 0 = some (0x04, 1, 0x101) ∧ tileTrap whole false 0 0 0x100 0x7F = some (0x04, 2, 0x7F) ∧
    tileTrap whole false 0 0 0x6FFD00 0 = some (0x0A, 0x100, 0x6FFD00) ∧ tileTrap whole false 0 0 0 0x700000 = some (0x0A, 0x100, 0x700000) ∧
    tileTrap whole false 0 3 0 1 = none := by decide +kernel
/-- `mldc`, `mdrain`: a rectangle word at s4 with a reserved bit, one that leaves the bank, and one whose last row leaves the data region. -/
theorem witness_rect_traps : rd whole 0 .n32 (.imm 2) 0 % 4 ≠ 0 ∧ cWord (.s 4) 0x104 ∧
    ¬ RectOk (withU whole [(4, 0x80)]) 0 2 (.s 4) ∧
    rd whole 0 .n32 .lit 0x6F0000 + 127 * rd whole 0 .n32 .lit 0x200 + 4 * (rectAt whole 0 0 (.imm 0)).w = (cur whole).hdr.sdata ∧
    rd whole 0 .n32 .lit 0x6F0004 + 127 * rd whole 0 .n32 .lit 0x200 + 4 * (rectAt whole 0 0 (.imm 0)).w > (cur whole).hdr.sdata := by
  exact ⟨by decide +kernel, by unfold cWord; decide +kernel, fun h => absurd (h (by decide)) (by decide +kernel), by decide +kernel, by decide +kernel⟩
theorem witness_anvilDone : (getWg busy 0).status = .resident ∧ (getWg busy 0).anvil = some { Anvil.fresh with queue := [job] } ∧
    job.arv = none ∧ job.acted = true ∧ 0 < busy.wgs.length ∧ (∀ b ∈ (getWg busy 0).bars, b.held = []) ∧
    (-512 : Int) ≤ (getBar (getWg busy 0) 3).e - 1 ∧ ¬ phaseMet { getBar (getWg busy 0) 3 with e := (getBar (getWg busy 0) 3).e - 1 } := by
  decide +kernel

/-! Launches. -/
theorem witness_tmset : Rising two.bundle.lanes ∧ OneGroup plain true two 0 := ⟨by decide, by decide, by decide⟩
theorem witness_enq : Sole plain false at1000 0 ∧ (rd64 at1000 0 (.s 0)).toNat = 0x1000 ∧
    Reaches at1000 0x1000 { align := 128, rd := true, wr := false, ss := 0b0010 } 0x1000 (page 0 false) ∧ NothingOut at1000 [0] 4 ∧
    clearingAt at1000 0x1000 = false ∧ coreBad at1000 (cur at1000).core 0x1000 128 = false :=
  ⟨⟨by decide +kernel, by decide +kernel⟩, by decide +kernel, reaches rfl (by decide +kernel) rfl, by unfold NothingOut; decide +kernel,
    by decide +kernel, by decide +kernel⟩
theorem witness_timer : (getWg (withWg two (fun g => { g with tmrDue := true })) 0).tmrDue = true := by decide +kernel

/-! Admission: launch entries of one workgroup whose kernel header lies at virtual 0x2000. -/
def aHeader : Nat := 0x5A4B + 0x0940 * 2 ^ 16 + 2 ^ 32 + 8 * 2 ^ 128 + 2 * 2 ^ 144 + 32 * 2 ^ 304
def aRaw (kobj grid deadline budget cfut : Nat) : BitVec 1024 :=
  BitVec.ofNat 1024 (kobj + grid * 2 ^ 64 + 2 ^ 96 + deadline * 2 ^ 128 + budget * 2 ^ 256 + cfut * 2 ^ 320)
def launched (raw : BitVec 1024) : State := modPart (memWrite mapped 0x2000 64 aHeader) 0 (fun p => { p with store := [(raw, 0)] })
def fine : BitVec 1024 := aRaw 0x2000 1 1000 5000 0
/-- An entry for it. -/
def kernelEntry : Entry :=
  { qe := 0, raw := fine, ctx := 0, d := 1000000, budget := 5000, charge := 0, fresh := 0, order := 0, demoted := false, overrun := none, hdr := headerOf aHeader
    kernel := 0x2000, chip := { saved := [], lo := 0, n := 1 }, dies := [], cls := [], pinned := [], ended := [], lastEnd := 0, status := none }
def cl (lo n : Nat) : Range := { saved := [], lo := lo, n := n }
def after (s : State) : State := logAdmission (Claims.taken s 0 []) 0 0 ((getPart s 0).store.headD (0, 0)).1
def headerEnds (s : State) (kobj : Nat) : Bool :=
  endsAt (checkAddr (after s) 0 (firstDie (after s) 0) kobj (Need.plainRead 64) 0) kobj (page 0 false) &&
  endsAt (checkAddr (after s) 0 (firstDie (after s) 0) kobj (Need.plainRead 1) 0) kobj (page 0 false) && !memBad (after s) kobj 64
def statusOf (s : State) (kobj : Nat) : Option Nat :=
  headerStatus (after s) 0 (firstDie (after s) 0) kobj (headerOf ((readVirtNat (after s) 0 (firstDie (after s) 0) kobj 64).getD 0))
theorem witness_admission : 0 < (launched fine).parts.length ∧ (getPart (launched fine) 0).store = [(fine, 0)] ∧
    (∀ x ∈ (getPart (launched fine) 0).slots, x.present = []) ∧ (∀ c ∈ (launched fine).ctxs, c.2.part = 0 → c.2.migrants = []) ∧
    dtime (launched fine) / 1000 * 1000 ≤ (getPart (launched fine) 0).lastFold ∧ ((getCtx (launched fine) 0).map Ctx.dead) = some false ∧ headerEnds (launched fine) 0x2000 = true ∧
    malformed (getPart (launched fine) 0).cores fine = false ∧ (getPart (launched fine) 0).quiet = false ∧
    statusOf (launched fine) 0x2000 = none := by decide +kernel
theorem witness_admission_refused : malformed (getPart mapped 0).cores (aRaw 0x2000 0 1000 5000 0) = true ∧
    headerEnds (launched (aRaw 0x3000 1 1000 5000 0)) 0x3000 = true ∧ statusOf (launched fine) 0x3000 = some 0x15 ∧
    outcome (checkAddr (after (launched fine)) 0 (firstDie (after (launched fine)) 0) 0x200000000 (Need.plainRead 64) 0) ≠ 0 ∧
    outcome (checkAddr (after (launched fine)) 0 (firstDie (after (launched fine)) 0) 0x200000000 (Need.plainRead 1) 0) ≠ 0 ∧
    malformed (getPart mapped 0).cores (aRaw 0x200000000 1 1000 5000 0) = false ∧
    (fieldsOf (aRaw 0x2000 1 1000 5000 0x80001000)).cfut = 0x80001000 := by decide +kernel
/-- The deadlines and budgets at the borders of the checks, at instant 0. -/
theorem witness_admission_borders : dtime mapped = 0 ∧ (getPart mapped 0).params.lbound = 60000 ∧ (fieldsOf (aRaw 0x2000 1 60 1 0)).deadline = 60 ∧
    ¬ ((1000 * 61 : Nat) : Int) - 0 ≤ 60000 ∧ 2 ^ 47 < (fieldsOf (aRaw 0x2000 1 1000 (2 ^ 47 + 1) 0)).budget := by decide +kernel
theorem witness_feasible : Feasible (getPart mapped 0) 0 1000000 37600000 ∧ ¬ Feasible (getPart mapped 0) 0 1000000 37600001 := by
  have he : (getPart mapped 0).entries = [] := by decide +kernel
  have hc : (getPart mapped 0).cores.length = 32 := by decide +kernel
  have hl : (getPart mapped 0).params.lbound = 60000 := by decide +kernel
  constructor
  · intro dk h
    simp [he] at h
    subst h
    simp [he, hc, hl]
  · intro h
    have h := h 1000000 (.inl rfl)
    simp [he, hc, hl] at h
theorem witness_admission_full : 4096 ≤ ((getPart (modPart mapped 0 (fun p => { p with entries := List.replicate 4096 { kernelEntry with status := none } })) 0).entries.filter
    (fun e => e.status.isNone)).length := by decide +kernel

/-! Placement: an entry with clusters to place, and core 0 free or granted. -/
def listed (e : Entry) : State := modPart (memWrite (pages State.reset) 0x2000 64 aHeader) 0 (fun p => { p with entries := [e] })
def toGrant : State := listed { kernelEntry with chip := cl 0 4 }
theorem witness_grant : (getCore toGrant 0).grant = none ∧ wgsOn toGrant 0 = [] ∧ partOfDie toGrant (0 / 32) = some 0 ∧
    { kernelEntry with chip := cl 0 4 } ∈ (getPart toGrant 0).entries ∧ canHold toGrant 0 { kernelEntry with chip := cl 0 4 } 0 = true ∧
    (∀ x ∈ (getPart toGrant 0).entries, canHold toGrant 0 x 0 = true → x = { kernelEntry with chip := cl 0 4 } ∨ Earlier { kernelEntry with chip := cl 0 4 } x) :=
  ⟨by decide +kernel, by decide +kernel, by decide +kernel, by decide +kernel, by decide +kernel, fun x hx _ => .inl (by simpa using (show x ∈ [{ kernelEntry with chip := cl 0 4 }] from hx))⟩
def granted (e : Entry) (cores : List Nat) : State := cores.foldl (fun s c => modCore s c (fun x => { x with grant := some (0, 0) })) (listed e)
def dieEntry : Entry := { kernelEntry with chip := cl 4 0, dies := [(1, cl 0 3)] }
def clsEntry : Entry := { kernelEntry with chip := cl 4 0, cls := [(1, cl 0 1), (2, cl 1 3)] }
theorem witness_steal : getEntry (granted dieEntry [0]) 0 0 = some dieEntry ∧ SMap.wf Range.empty dieEntry.dies = true ∧ (rangeOf dieEntry.dies 0).len = 0 ∧
    SMap.wf Range.empty clsEntry.cls = true ∧ (rangeOf clsEntry.cls 0).len = 0 := by decide +kernel
/-- The thief gains a cluster that its granted core 0 could take; without that core it could not. -/
theorem witness_gains : let t (cores : List Nat) := modEntry (granted dieEntry cores) 0 0 (fun x => { x with dies := stolen x.dies 1 0 })
    ((getEntry (t [0]) 0 0).bind (fun y => (rangeOf y.dies 0).first)) = some 2 ∧ canTake (t [0]) 0 dieEntry 2 0 = true ∧
    canTake (t []) 0 dieEntry 2 0 = false := by decide +kernel
theorem rangeOf_one (k : Nat) (r : Range) (j : Nat) : rangeOf [(k, r)] j = if j = k then r else Range.empty := by
  by_cases h : j = k <;> simp [rangeOf, SMap.get, h]
theorem witness_richest : Richest dieEntry.dies (fun _ => True) 1 ∧ (∀ k, (rangeOf [(1, cl 0 1)] k).len < 2) := by
  have h3 : (cl 0 3).len = 3 := by decide
  have h1 : (cl 0 1).len = 1 := by decide
  have h0 : Range.empty.len = 0 := by decide
  refine ⟨⟨trivial, by decide, fun j _ => ?_⟩, fun k => ?_⟩
  · simp only [dieEntry, rangeOf_one]; split <;> simp [h3, h0] <;> omega
  · simp only [rangeOf_one]; split <;> simp [h1, h0]
def toPlace : State := granted { kernelEntry with chip := cl 1 0, cls := [(0, cl 0 1)] } [0]
def placing (s : State) (x : Entry) (j : Nat) (anv : Bool) : Bool := match takeCluster s 0 x j 0 with
  | some s1 => roomFor s1 0 x.hdr anv && (makeRoom s1 0 x.ctx (fieldsOf x.raw).kobj x.kernel x.hdr).isSome
  | none => false
theorem witness_placement : (getCore toPlace 0).grant = some (0, 0) ∧ (getCore toPlace 0).preq = false ∧ quietCtx toPlace 0 = false ∧
    toPlace.wgs = [] ∧ ((getEntry toPlace 0 0).map (fun x => (x.overrun, (fieldsOf x.raw).clw, (fieldsOf x.raw).pin, savedOf toPlace 0 x 0,
      pinAllows (fieldsOf x.raw) 0 0, placing toPlace x 0 x.hdr.array))) = some (none, 1, false, [], true, true) := by decide +kernel
def aSaved : Wg := { placed 0 0 0x2000 0 0 0 kernelEntry with status := .saved }
def toRestore : State := { granted { kernelEntry with chip := cl 1 0, cls := [(0, { saved := [0], lo := 1, n := 0 })] } [0] with wgs := [aSaved] }
theorem witness_restore : (getCore toRestore 0).grant = some (0, 0) ∧ (getWg toRestore 0).savedOwn = [] ∧ toRestore.links = [] ∧
    (∀ th ∈ (getWg toRestore 0).threads, th.wait = .none ∧ (th.live = true → th.th = true ∨ th.async = [])) ∧
    (∀ q ∈ (getWg toRestore 0).queues, q.popW = []) ∧ (∀ g ∈ toRestore.wgs, g.status = .saved) ∧
    ((getEntry toRestore 0 0).map (fun x => (savedOf toRestore 0 x 0, pinAllows (fieldsOf x.raw) 0 0,
      placing toRestore x 0 (getWg toRestore 0).anvil.isSome))) = some ([0], true, true) := by decide +kernel
def lastDone (n : Nat) : State :=
  let s := granted { kernelEntry with chip := cl 1 0, raw := aRaw 0x2000 n 1000 5000 0 } [0]
  { s with wgs := [let g := placed 0 0 0x2000 0 0 0 kernelEntry; { g with threads := g.threads.map (fun th => { th with live := false }) }] }
def counted (n : Nat) : State := modEntry (dropWg (lastDone n) 0) 0 0 (fun e => { e with ended := insNat e.ended 0, lastEnd := dtime (lastDone n) })
theorem witness_workgroupEnd : (getWg (lastDone 1) 0).status = .resident ∧ (∀ th ∈ (getWg (lastDone 1) 0).threads, th.live = false) ∧
    wgQuiet (lastDone 1) 0 = true ∧ ((getEntry (counted 1) 0 0).map (fun e => (e.overrun, e.ended.length, (fieldsOf e.raw).grid))) = some (none, 1, 1) ∧
    wgQuiet (lastDone 2) 0 = true ∧ ((getEntry (counted 2) 0 0).map (fun e => (e.overrun, e.ended.length, (fieldsOf e.raw).grid))) = some (none, 1, 2) := by
  decide +kernel
def over' (cfut : Nat) : State := modCtx (listed { kernelEntry with chip := cl 1 0, raw := aRaw 0x2000 1 1000 5000 cfut, status := some 0 }) 0 (fun c => { c with classes := [(0, { n := 1, ent := [] })] })
def overOut (cfut : Nat) : State := modPart (over' cfut) 0 (fun y => { y with entries := y.entries.filter (fun z => z.order != 0) })
theorem witness_entryCompletion : (((getPart (over' 0) 0).entries.find? (fun x => x.order == 0 && x.status.isSome)).map (fun e =>
      (e.status, entryQuiet (over' 0) 0 e, (fieldsOf e.raw).cfut))) = some (some 0, true, 0) ∧
    (((getPart (over' 0x80001000) 0).entries.find? (fun x => x.order == 0 && x.status.isSome)).map (fun e =>
      (e.status, entryQuiet (over' 0x80001000) 0 e, (fieldsOf e.raw).cfut))) = some (some 0, true, 0x80001000) ∧
    endsAt (checkAddr (overOut 0x80001000) 0 0 0x80001000 (stagedNeed true true 0b1111) 0) 0x1000 (page 1 true) = true ∧
    (let o : Obj := { ctx := 0, part := 0, die := 0, pa := 0x1000, va := 0x80001000, prop := false, via := none }
      let q := engineWaits (overOut 0x80001000) o 0
      q.2 = false ∧ (match (transition q.1 o 0 0 .engine).2 with | .done _ _ => true | _ => false) = true) := by decide +kernel
/-! Preemption: entry 1, with an earlier deadline, wants a core; entry 0 holds them all. -/
def late : Entry := { kernelEntry with chip := cl 0 0 }
def early : Entry := { kernelEntry with qe := 1, order := 1, d := 500000, chip := cl 0 1 }
def crowded : State :=
  let s := (List.range 32).foldl (fun s c => modCore s c (fun x => { x with grant := some (0, 0) })) (pages State.reset)
  modPart s 0 (fun p => { p with entries := [late, early] })
theorem witness_takeBack : (getCore crowded 5).preq = false ∧ TakenFor crowded 0 5 early late := by
  have hh : ∀ c ∈ (getPart crowded 0).cores, holderOf crowded 0 c = some late := by decide +kernel
  have hg : ∀ c ∈ (getPart crowded 0).cores, (getCore crowded c).grant ≠ none := by decide +kernel
  refine ⟨by decide +kernel, by decide +kernel, by decide +kernel, by decide, by decide +kernel, by decide +kernel, by decide, .inr fun c hc _ => ⟨.inl (hg c hc), fun x hx => ?_⟩⟩
  rw [hh c hc] at hx
  exact .inl (Option.some.inj hx).symm
theorem witness_takeBack_on : let s := { crowded with wgs := [placed 0 5 0x2000 0 0 0 kernelEntry] }
    (∃ w ∈ wgsOn s 5, (getWg s w).part = 0 ∧ (getWg s w).qe = late.qe) ∧ ¬ ∃ w ∈ wgsOn crowded 5, (getWg crowded w).part = 0 ∧ (getWg crowded w).qe = late.qe := by
  decide +kernel
def standing (f : Thread → Thread) : State :=
  { granted { kernelEntry with chip := cl 1 0 } [0] with wgs := [let g := placed 0 0 0x2000 0 0 0 kernelEntry; { g with threads := g.threads.map f }] }
def asked (s : State) : State := modCore s 0 (fun c => { c with preq := true, windowEnd := some 0 })
theorem witness_withdrawal : (getCore (asked (standing id)) 0).grant = some (0, 0) ∧ (getCore (asked (standing id)) 0).preq = true ∧
    (getCore (asked (standing id)) 0).windowEnd = some 0 ∧ coreWanted (asked (standing id)) 0 0 = false ∧ wgsOn (asked (standing id)) 0 = [0] ∧
    matesOf (asked (standing id)) 0 (· == .resident) = [0] ∧ (getWg (asked (standing id)) 0).status = .resident := by decide +kernel
theorem witness_save : Alone (asked (standing (fun th => { th with stopped := true }))) 0 ∧
    wgDrained (asked (standing (fun th => { th with stopped := true }))) 0 true = true ∧
    ∀ th ∈ (getWg (asked (standing (fun th => { th with stopped := true }))) 0).threads, th.pend = [] ∧ th.due = none ∧ th.wait = .none ∧ th.stopped = true := by
  refine ⟨⟨?_, ?_, ?_, ?_, ?_⟩, ?_, ?_⟩ <;> decide +kernel
theorem witness_save_asleep : Alone (asked (standing (fun th => { th with wait := .sleep 3 }))) 0 ∧
    wgDrained (asked (standing (fun th => { th with wait := .sleep 3 }))) 0 true = true := by
  refine ⟨⟨?_, ?_, ?_, ?_, ?_⟩, ?_⟩ <;> decide +kernel
def cut (f : Thread → Thread) : State := modWg (standing f) 0 (fun g => { g with status := .cutting, cutAt := some 0 })
def cutOne : State := cut (fun th => { th with pend := [aPend] })
theorem witness_freeze : Alone cutOne 0 ∧ (getWg cutOne 0).status = .cutting ∧ wgDrained cutOne 0 false = true ∧
    (∀ u < (getWg cutOne 0).threads.length, finishing cutOne (getWg cutOne 0) u = false) ∧
    (∀ th ∈ (getWg cutOne 0).threads, th.due = none ∧ (∀ q ∈ th.pend, q.closeTo = none) ∧ th.wait = .none ∧ th.pend ≠ []) := by
  refine ⟨⟨?_, ?_, ?_, ?_, ?_, ?_⟩, ?_, ?_, ?_, ?_⟩ <;> decide +kernel

/-- The same with an entry that overran, and with none. -/
def cutOver : State := modEntry cutOne 0 0 (fun e => { e with overrun := some 0 })
def cutGone : State := modPart cutOne 0 (fun p => { p with entries := [] })
theorem witness_freeze_stops : ((Machine.entryOf cutOver (getWg cutOver 0)).map Entry.overrun = some (some 0)) ∧ Machine.entryOf cutGone (getWg cutGone 0) = none ∧
    ∀ s ∈ [cutOver, cutGone], (getWg s 0).status = .cutting ∧ wgDrained s 0 false = true ∧
      (∀ u < (getWg s 0).threads.length, finishing s (getWg s 0) u = false) ∧
      ∀ th ∈ (getWg s 0).threads, th.live = true → ∀ q ∈ th.pend, q.closeTo = none := by decide +kernel

/-! Budgets and kills, a millisecond after reset. -/
def later (s : State) : State := { s with cyc := 4000000 }
def spent (flags : Nat) : Entry := { kernelEntry with chip := cl 1 0, charge := 4999, fresh := 1, raw := fine ||| BitVec.ofNat 1024 (flags * 2 ^ 160) }
def running (e : Entry) : State := later { granted e [0] with wgs := [placed 0 0 0x2000 0 0 0 kernelEntry] }
def folded (e : Entry) : State :=
  modPart (running e) 0 (fun x => { x with
    lastFold := dtime (running e) / 1000 * 1000, entries := x.entries.map (fun e => { e with charge := e.charge + e.fresh, fresh := 0 }) })
def overrunning (e : Entry) : List Entry := (getPart (folded e) 0).entries.filter (fun e =>
  e.status.isNone && !e.demoted && e.overrun.isNone && decide (e.budget ≤ e.charge))
theorem witness_fold : 0 < (running (spent 0)).parts.length ∧ (getPart (running (spent 0)) 0).lastFold < dtime (running (spent 0)) / 1000 * 1000 ∧
    overrunning kernelEntry = [] ∧ overrunning (spent 0) = [{ spent 0 with charge := 5000, fresh := 0 }] ∧
    overrunning (spent 0x40) = [{ spent 0x40 with charge := 5000, fresh := 0 }] ∧ (fieldsOf (spent 0).raw).ovc = false ∧
    (fieldsOf (spent 0x40).raw).ovc = true ∧ overrunning (spent 0x20) = [{ spent 0x20 with charge := 5000, fresh := 0 }] ∧ wgsOf (running (spent 0)) 0 0 (fun x => x != .ended) = [0] ∧ (getWg (running (spent 0)) 0).status = .resident := by
  decide +kernel
theorem witness_killDue : KillDue (running (spent 0x20)) 0 (spent 0x20) ∧ ¬ KillDue (running (spent 0)) 0 (spent 0) := by
  unfold KillDue; decide +kernel
theorem witness_overrun : getEntry (running { spent 0x40 with overrun := some 0 }) 0 0 = some { spent 0x40 with overrun := some 0 } ∧
    0 + (getPart (running { spent 0x40 with overrun := some 0 }) 0).params.polite ≤ dtime (running { spent 0x40 with overrun := some 0 }) ∧
    (fieldsOf (spent 0x20).raw).kom = true ∧ (spent 0x20).d ≤ dtime (running (spent 0x20)) ∧
    (getWg (running (spent 0x20)) 0).part = 0 ∧ (getWg (running (spent 0x20)) 0).qe = 0 := by decide +kernel
/-- Its workgroup is on a core, and is cut; it has none left, and its deadline has come too, or has not. -/
theorem witness_overrun_ends : let s := running { spent 0x40 with overrun := some 0 }
    wgsOf s 0 0 (fun x => x != .ended) = [0] ∧ matesOf s 0 (· == .resident) = [0] ∧ wgsOf { s with wgs := [] } 0 0 (fun x => x != .ended) = [] := by
  decide +kernel
theorem witness_overrun_kill : let s (n : Nat) : State := { running { spent n with overrun := some 0 } with wgs := [] }
    KillDue (s 0x60) 0 { spent 0x60 with overrun := some 0 } ∧ ¬ KillDue (s 0x40) 0 { spent 0x40 with overrun := some 0 } := by
  unfold KillDue; decide +kernel
theorem witness_killTimeout : (getWg (later (cut id)) 0).status = .cutting ∧ (getWg (later (cut id)) 0).cutAt = some 0 ∧
    5 * (getPart (later (cut id)) (getWg (later (cut id)) 0).part).params.killTimeout ≤ 4 * ((later (cut id)).cyc - 0) := by decide +kernel
def dying (s : State) : State := modCtx s 0 (fun c => { c with dead := true })
theorem witness_kill : getCtx mapped 0 = some aCtx ∧ aCtx.dead = false ∧ (∀ e ∈ (getPart mapped aCtx.part).entries, e.ctx = 0 → e.status ≠ none) ∧
    (getPart (running kernelEntry) aCtx.part).entries.filter (fun e => e.ctx == 0 && e.status.isNone) = [kernelEntry] := by decide +kernel
def dyingOne : State := modPart (dying (pages State.reset)) 0 (fun p => { p with store := [(fine, 0)] })
theorem witness_kill_rest : ((getCtx dyingOne 0).map (fun x => (x.dead, x.revoked))) = some (true, false) ∧
    killQuiet dyingOne 0 0 = true ∧ pendingOf dyingOne 0 0 = [fine] ∧ (fieldsOf fine).cfut = 0 := by decide +kernel
theorem witness_kill_end : ((getCtx (dying (pages State.reset)) 0).map (fun x => (x.dead, x.revoked))) = some (true, false) ∧
    killQuiet (dying (pages State.reset)) 0 0 = true ∧ pendingOf (dying (pages State.reset)) 0 0 = [] := by decide +kernel

/-! The bundler. -/
def isWord (f : Fetch) (x : IWord) : Bool := match f with | .word r => r == Raw.ofWord x | _ => false
theorem of_isWord {f : Fetch} {x : IWord} (h : isWord f x = true) : f = .word (Raw.ofWord x) := by
  cases f <;> simp_all [isWord]
theorem witness_rebundle : (getWg two 0).status = .resident ∧ 0 < two.wgs.length ∧ (∀ th ∈ (getWg two 0).threads, th.meet = 0 ∧ th.gather = none) ∧
    (∀ th ∈ (getWg two 0).threads, isWord (fetch two (getWg two 0) th) 0 = true) ∧ collectiveOp (Raw.ofWord 0).opc.toNat = false ∧
    (List.range 32) = (List.range (getWg two 0).threads.length).filter (fun t => (getTh (getWg two 0) t).ready && !([] : List Nat).contains t) ∧
    (∀ t ∈ List.range 32, (getTh (getWg two 0) t).pos = (getTh (getWg two 0) 0).pos) := by decide +kernel
theorem witness_bundled : Bundled two (getWg two 0) (List.range 32) (List.range 32) ∧ ¬ Bundled two (getWg two 0) (List.range 32) [0, 31] := by
  have hr : ∀ t < 32, (getTh (getWg two 0) t).pos = 0 := by decide +kernel
  have hp : (getWg two 0).hdr.policy = 0 := by decide +kernel
  have ht : ∀ t < 32, ∀ u < 32, Together two (getWg two 0) t u := fun t a u b => ⟨by rw [hr t a, hr u b], by simp [hp], by simp [hp]⟩
  refine ⟨⟨by decide, by decide, by decide, fun t h => ⟨fun u h' => ?_, fun u h' _ _ => h'⟩⟩, fun h => ?_⟩
  · exact ht t (List.mem_range.1 h) u (List.mem_range.1 h')
  · have := (h.2.2.2 0 (by simp)).2 1 (by decide) rfl (ht 0 (by decide) 1 (by decide))
    simp at this
/-- At a `dispatch`, in a kernel that gathers. -/
def atDispatch : State := withWg { State.reset.withFetchWord 96 0x02C1C000_00504000_00000000 with bundle := two.bundle } (fun g => { g with hdr := { g.hdr with policy := 2, gather := 3 } })
theorem witness_gather : (getWg atDispatch 0).hdr.policy = 2 ∧ 0 < (getWg atDispatch 0).hdr.gather ∧ (getTh (getWg atDispatch 0) 5).ready = true ∧
    (getTh (getWg atDispatch 0) 5).freed = false ∧ (getTh (getWg atDispatch 0) 5).seqS = false ∧
    isWord (fetch atDispatch (getWg atDispatch 0) (getTh (getWg atDispatch 0) 5)) 0x02C1C000_00504000_00000000 = true := by decide +kernel
def holding : State := with0 (with0 one (fun th => { th with meet := 0x4000000000000000, held := some 63 })) id
theorem witness_hold : 0 < (getWg holding 0).threads.length ∧ HeldWith holding (getWg holding 0) 0 0 ∧ (getTh (getWg holding 0) 0).held = some 63 ∧
    (if (getWg holding 0).hdr.hold = 0 then 64 else (getWg holding 0).hdr.hold) ≤ 63 + 1 :=
  ⟨by decide, ⟨⟨rfl, by decide +kernel, by decide +kernel, rfl⟩, by decide +kernel, by decide +kernel, by decide +kernel,
    .inl ⟨by decide +kernel, by decide +kernel, fun h => absurd (show isWord (fetch holding (getWg holding 0) (getTh (getWg holding 0) 0)) 0 = true by decide +kernel)
      (by rw [h]; decide)⟩⟩, by decide, by decide⟩
/-- The thread of the set that was held first may have left its place. -/
def heldFirst : State := modTh holding 0 1 (fun th => { th with meet := 0x4000000000000000, held := some 63, npc := 9 })
theorem witness_hold_left : MeetsWith (getWg heldFirst 0) 0 1 ∧ (getTh (getWg heldFirst 0) 1).held = some 63 ∧
    ¬ HeldWith heldFirst (getWg heldFirst 0) 0 1 ∧ ¬ MeetsWith (getWg heldFirst 0) 0 2 := by
  refine ⟨by unfold MeetsWith; decide +kernel, by decide +kernel, fun h => ?_, by unfold MeetsWith; decide +kernel⟩
  rcases h.2.2.2.2 with h | h
  · exact absurd h.2.1 (by decide +kernel)
  · exact absurd h.1 (by decide +kernel)
def holdingGuest : State := with0 atDispatch (fun th => { th with meet := 0x8000000000000007, gpc := 7, held := some 63 })
theorem witness_hold_dispatch : AtTarget holdingGuest (getWg holdingGuest 0) (getTh (getWg holdingGuest 0) 0) := by
  refine ⟨by decide +kernel, by decide +kernel, by decide +kernel, .inr ⟨by decide +kernel, ?_, by decide +kernel⟩⟩
  exact ⟨_, of_isWord (x := 0x02C1C000_00504000_00000000) (by decide +kernel), by decide +kernel⟩
theorem witness_gathered : (getTh (getWg (with0 one (fun th => { th with gather := some 2 })) 0) 0).gather = some 2 := by decide +kernel

/-! Buffers, clears, page-table entries and fault records. -/
def drainingLine : State := modCore one 0 (fun c => { c with lines := [{ aLine with draining := true }] })
theorem witness_line : (getCore lined 0).lines[0]? = some aLine ∧ (getCore drainingLine 0).lines[0]? = some { aLine with draining := true } ∧
    aLine.done = [] ∧ Line.ripe drainingLine 0 { aLine with draining := true } = true ∧ clearingAt drainingLine aLine.pa = false ∧ aLine.pa / 2 ^ 50 ≠ 2 ∧ (aLine.bytes.map Prod.fst).Nodup ∧ (∀ x ∈ aLine.bytes, x.1 < 128) ∧
    Memory.wf drainingLine.mem = true ∧ (getCore drainingLine 0).lines.length = 1 ∧ getCombs drainingLine (0 / 4) = [] := by decide +kernel
def aComb : Comb := { pa := 0x1000, ty := .n32, op := 5, val := 3, who := [{ core := 0, stamp := 0, ctx := 0, part := 0, prop := false, vgran := 0 }] }
theorem witness_comb : (getCombs (setCombs one 0 [aComb]) 0)[0]? = some aComb ∧ aComb.op ≤ 5 ∧ clearingAt (setCombs one 0 [aComb]) aComb.pa = false ∧
    memBad (setCombs one 0 [aComb]) aComb.pa (aComb.ty.width / 8) = false ∧ (∀ x ∈ aComb.who, x.prop = false) := by decide +kernel
theorem witness_clear : 1 ∈ { one with clearing := [1] }.clearing ∧ Memory.wf { one with clearing := [1] }.mem = true ∧
    0x1000 / 2 ^ 50 = 0 ∧ 0x1000 / 32 ∈ { one with fixMem := [0x1000 / 32] }.fixMem := by decide +kernel
theorem witness_pteChange : 0x40010020 % 8 = 0 ∧ 0x40010020 < 384 * 2 ^ 30 ∧ mapped.stale = [] := by decide
def aRec (k : Nat) : FaultRec := { num := 3, ctx := 0, page := 0, size := 2 ^ 16, leaf := 0x40010000 + 8 * k, level := 1, wr := false, at0 := 0 }
def parkedRec (k : Nat) : State :=
  let s := modPart (memWrite mapped 0x40010020 8 (entryOf 0x61 (2 ^ 52 + 2 ^ 50))) 0 (fun p => { p with setup := some { aSetup with far := [0] } })
  let s := modCore s 0 (fun c => { c with faults := [aRec k] })
  { with0 s (fun th => { th with wait := .fault 3 0x5000 false }) with cyc := 20000000 }
theorem witness_record : HasRecord (parkedRec 0) 0 3 (aRec 0) ∧ leafValid (parkedRec 0) (aRec 0) = true ∧ staleEntry (parkedRec 0) 0 (aRec 0).leaf = none ∧
    HasRecord (parkedRec 4) 0 3 (aRec 4) ∧ leafValid (parkedRec 4) (aRec 4) = false ∧ (aRec 4).at0 + 10000000 ≤ dtime (parkedRec 4) ∧
    (thOf (parkedRec 4) 0 0).wait = .fault 3 0x5000 false ∧ memRead (parkedRec 4) (aRec 4).leaf 8 / 2 ^ 52 % 16 = 1 ∧
    inFar (parkedRec 4) 0 (memRead (parkedRec 4) (aRec 4).leaf 8 / 2 ^ 16 % 2 ^ 36 * 65536) (aRec 4).size = true ∧
    0x10000 % (aRec 4).size = 0 ∧ inHbm (parkedRec 4) 0 0x10000 (aRec 4).size = true := by unfold HasRecord; decide +kernel
theorem witness_parkedIn : ∀ v u, parkedIn 3 (thOf (parkedRec 4) v u) = true ↔ v = 0 ∧ u = 0 := by
  have h0 : ∀ u < 32, parkedIn 3 (thOf (parkedRec 4) 0 u) = decide (u = 0) := by decide +kernel
  have h1 : (parkedRec 4).wgs.length = 1 := by decide +kernel
  have h2 : (getWg (parkedRec 4) 0).threads.length = 32 := by decide +kernel
  intro v u
  by_cases hv : v = 0
  · subst hv
    by_cases hu : u < 32
    · simp [h0 u hu]
    · have : thOf (parkedRec 4) 0 u = Thread.none := by simp only [thOf, getTh]; rw [List.getD_eq_getElem?_getD, List.getElem?_eq_none (by omega)]; rfl
      rw [this]; simp [parkedIn, Thread.none]; omega
  · have : getWg (parkedRec 4) v = Wg.none := by simp only [getWg]; rw [List.getD_eq_getElem?_getD, List.getElem?_eq_none (by omega)]; rfl
    have h3 : thOf (parkedRec 4) v u = Thread.none := by simp only [thOf, getTh, this]; rfl
    rw [h3]; simp [parkedIn, Thread.none, hv]
/-! User queues: control blocks at 0x10000 + 256 q, write index of queue 16 at virtual 0x8000, ring at virtual 0x4000. -/
def qcbVal (prio hpri wptr : Nat) : Nat := 0x4000 + 2 * 2 ^ 72 + prio * 2 ^ 76 + wptr * 2 ^ 128 + hpri * 2 ^ 300
def aQueue (q : Nat) : UQueue := { qcb := 0x10000 + 256 * q, paged := none, seen := some 0, mapped := some 0, unmapped := 0, lastW := 0 }
def up : State := let s := pages State.reset; { s with dev := { s.dev with phase := 6 }, cyc := 80000000 }
def served (inLoop : Bool) (last widx wptr : Nat) : State :=
  modPart (memWrite (memWrite up 0x11000 48 (qcbVal 5 0 wptr)) 0x8000 8 widx) 0 (fun p => { p with
    queues := [(16, { aQueue 16 with lastW := BitVec.ofNat 64 last })], pending := [16]
    slots := modAt p.slots 0 (fun y => { y with queue := some 16, inLoop := inLoop, qcb := qcbVal 5 0 wptr }) })
def slot16 (inLoop : Bool) (wptr : Nat) : Slot := { Slot.free with queue := some 16, inLoop := inLoop, qcb := qcbVal 5 0 wptr }
/-- A state with queue 16 in no slot and without work. -/
def noWork (s : State) : State := modPart (memWrite s 0x11000 48 (qcbVal 5 0 0)) 0 (fun p => { p with queues := [(16, aQueue 16)] })
theorem witness_kick : (getPart (served false 0 0 0x8000) 0).setup ≠ none ∧ slotOf (served false 0 0 0x8000) 0 (16 : Word).toNat ≠ none ∧
    slotOf (served false 0 0 0x8000) 0 (4095 : Word).toNat = none ∧ 2 ^ 12 ≤ (4096 : Word).toNat := by decide +kernel
theorem witness_kick_queue : getQ (noWork up) 0 16 = some (aQueue 16) ∧ slotOf (noWork up) 0 16 = none := by decide +kernel
def serves (b : Bool) (last widx wptr : Nat) : Prop :=
  (getPart (served b last widx wptr) 0).slots[0]? = some (slot16 b wptr) ∧ 0 < (served b last widx wptr).parts.length ∧
    (served b last widx wptr).dev.update = none ∧
    SMap.find (getPart (served b last widx wptr) 0).queues 16 = some { aQueue 16 with lastW := BitVec.ofNat 64 last } ∧
    fieldAt (qcbVal 5 0 wptr) 124 4 = 0
theorem witness_slot (b : Bool) (last widx wptr : Nat) (h : serves b last widx wptr) :
    Serves (served b last widx wptr) 0 0 16 (slot16 b wptr) { aQueue 16 with lastW := BitVec.ofNat 64 last } :=
  by refine ⟨h.1, h.2.1, rfl, rfl, fun x hx => ?_, h.2.2.2.1, rfl, h.2.2.2.2⟩
     rw [h.2.2.1] at hx; cases hx
/-- The write index at its greatest, and one beyond. -/
theorem witness_slot_index : Serves (served false 0 4 0x8000) 0 0 16 (slot16 false 0x8000) (aQueue 16) ∧ 16 ∈ (getPart (served false 0 4 0x8000) 0).pending ∧
    slotSees (served false 0 4 0x8000) 0 (slot16 false 0x8000) 0x8000 8 0b1110 (.ok 0x8000 (page 0 false)) ∧
    Readable (served false 0 4 0x8000) 0x8000 8 (page 0 false) ∧ memRead (served false 0 4 0x8000) 0x8000 8 = 0 + 2 ^ 2 ∧
    memRead (served false 0 5 0x8000) 0x8000 8 > 0 + 2 ^ 2 ∧ fieldAt (slot16 false 0x8000).qcb 72 4 = 2 ∧ fieldAt (slot16 false 0x8000).qcb 128 64 = 0x8000 := by
  refine ⟨witness_slot _ _ _ _ (by unfold serves; decide +kernel), by decide +kernel, ⟨of_endsAt (by decide +kernel), by decide +kernel⟩, ⟨rfl, by decide +kernel, by decide +kernel⟩,
    by decide +kernel, by decide +kernel, by decide +kernel, by decide +kernel⟩
theorem witness_slot_unmapped : outcome (checkAddr (served false 0 0 0x200000000) 0 0 0x200000000 { align := 8, rd := true, wr := false, ss := 0b1110 } 0) ≠ 0 ∧
    ((getPart (served false 0 0 0x8000) 0).dies.headD 0) = 0 := by decide +kernel
/-- An unmap: the write index is read once more, here 4, and RIDX is 0. -/
def unmapping : State := served false 0 4 0x8000
def unmapped1 : State :=
  memWrite unmapping 0x11000 48 (putAt (putAt (qcbOf unmapping (aQueue 16)) 192 64 (slot16 false 0x8000).ridx.toNat) 320 64 (slot16 false 0x8000).lact.toNat)
theorem witness_unmap : getSlot unmapping 0 0 = slot16 false 0x8000 ∧ getQ unmapping 0 16 = some (aQueue 16) ∧ Memory.wf unmapping.mem = true ∧
    slotSees unmapped1 0 (slot16 false 0x8000) (fieldAt (slot16 false 0x8000).qcb 128 64) 8 0b1110 (.ok 0x8000 (page 0 false)) ∧
    Readable unmapped1 0x8000 8 (page 0 false) ∧ memRead unmapped1 0x8000 8 ≠ (slot16 false 0x8000).ridx.toNat :=
  ⟨by decide +kernel, by decide +kernel, by decide +kernel, ⟨of_endsAt (by decide +kernel), by decide +kernel⟩,
    ⟨rfl, by decide +kernel, by decide +kernel⟩, by decide +kernel⟩
theorem witness_slot_copy : Serves (served true 1 1 0x8000) 0 0 16 (slot16 true 0x8000) { aQueue 16 with lastW := 1 } ∧ (slot16 true 0x8000).ridx ≠ 1 ∧
    slotSees (served true 1 1 0x8000) 0 (slot16 true 0x8000) 0x4000 128 0b1010 (.ok 0x4000 (page 0 false)) ∧
    Readable (served true 1 1 0x8000) 0x4000 128 (page 0 false) ∧ (slot16 true 0x8000).ridx = (aQueue 16).lastW :=
  ⟨witness_slot _ _ _ _ (by unfold serves; decide +kernel), by decide, ⟨of_endsAt (by decide +kernel), by decide +kernel⟩, ⟨rfl, by decide +kernel, by decide +kernel⟩, rfl⟩

/-- Sixteen mapped queues with one control block, and queue 16 unmapped with work; `busy`: they have work too. -/
def mate (q : Nat) : UQueue := if q < 16 then aQueue 0 else aQueue q
def sixteen (busy : Bool) (prio : Nat) : State :=
  modPart (memWrite (memWrite up 0x10000 48 (qcbVal 5 3 0)) 0x11000 48 (qcbVal prio 0 0)) 0 (fun p => { p with
    setup := some aSetup, queues := (List.range 17).map (fun q => (q, mate q)), pending := if busy then List.range 17 else [16], kicked := true
    slots := (List.range 16).map (fun q => { Slot.free with queue := some q, qcb := qcbVal 5 3 0 }) })
def noneMapped (work : Bool) : State :=
  modPart (memWrite up 0x11000 48 (qcbVal 5 0 0)) 0 (fun p => { p with
    queues := [(16, aQueue 16)], pending := if work then [16] else [], kicked := true
    slots := (Slot.free :: modAt p.slots.tail 0 id) })
theorem queue_none {s : State} {p k : Nat} (h : (getPart s p).slots.length = 16) (hk : 16 ≤ k) : (getSlot s p k).queue = none := by
  simp [getSlot, List.getD_eq_getElem?_getD, List.getElem?_eq_none (by omega : (getPart s p).slots.length ≤ k), Slot.free]
theorem clean_of {s : State} {p : Nat} (h0 : (getPart s p).slots.length = 16) (hd : (getPart s p).doubles = [])
    (h1 : ∀ q ∈ (getPart s p).pending, getQ s p q ≠ none) (h2 : ∀ k < 16, fieldAt (getSlot s p k).qcb 124 4 = 0)
    (h3 : ∀ e ∈ (getPart s p).queues, slotOf s p e.1 = none → hasWork s p e.1 e.2 = true → e.2.seen ≠ none) : Clean s p := by
  refine ⟨hd, h1, fun k q u hq hu => ?_, h3⟩
  by_cases hk : k < 16
  · exact h2 k hk
  · rw [queue_none h0 (by omega)] at hq; cases hq
def passIsDue (s : State) : Bool :=
  decide (s.dev.phase = 6) && s.dev.update.isNone && (getPart s 0).setup.isSome && (getPart s 0).slots.all (fun y => y.present.isEmpty) &&
    (getPart s 0).kicked && decide (0 < s.parts.length)
theorem passDue_of {s : State} (h : passIsDue s = true) : PassDue s 0 := by
  simp [passIsDue, Option.isSome_iff_ne_none, List.isEmpty_iff] at h
  exact ⟨⟨h.1.1.1.1.1, fun x hx => by rw [h.1.1.1.1.2] at hx; cases hx⟩, h.1.1.1.2, h.1.1.2, .inl h.1.2, h.2⟩
theorem witness_pass : PassDue (noneMapped false) 0 ∧ Clean (noneMapped false) 0 ∧ passQueues (noneMapped false) 0 = [] ∧
    PassDue (noneMapped true) 0 ∧ Clean (noneMapped true) 0 ∧ passQueues (noneMapped true) 0 = [16] ∧ getQ (noneMapped true) 0 16 = some (aQueue 16) ∧
    (getSlot (noneMapped true) 0 0).queue = none :=
  ⟨passDue_of (by decide +kernel), clean_of (by decide +kernel) (by decide +kernel) (by decide +kernel) (by decide +kernel) (by decide +kernel), by decide +kernel,
    passDue_of (by decide +kernel), clean_of (by decide +kernel) (by decide +kernel) (by decide +kernel) (by decide +kernel) (by decide +kernel), by decide +kernel,
    by decide +kernel, by decide +kernel⟩
theorem witness_pass_full (b : Bool) (h : passIsDue (sixteen b 5) = true ∧ passQueues (sixteen b 5) 0 = [16])
    (h1 : (getPart (sixteen b 5) 0).slots.length = 16 ∧ (getPart (sixteen b 5) 0).doubles = [] ∧ (∀ q ∈ (getPart (sixteen b 5) 0).pending, getQ (sixteen b 5) 0 q ≠ none) ∧
    (∀ k < 16, fieldAt (getSlot (sixteen b 5) 0 k).qcb 124 4 = 0) ∧
    (∀ e ∈ (getPart (sixteen b 5) 0).queues, slotOf (sixteen b 5) 0 e.1 = none → hasWork (sixteen b 5) 0 e.1 e.2 = true → e.2.seen ≠ none) ∧
    (∀ j < 16, (getSlot (sixteen b 5) 0 j).queue = some j) ∧ (∀ j < 16, getQ (sixteen b 5) 0 j = some (mate j))) :
    PassDue (sixteen b 5) 0 ∧ Clean (sixteen b 5) 0 ∧ passQueues (sixteen b 5) 0 = [16] ∧ ∀ j < 16, (getSlot (sixteen b 5) 0 j).queue ≠ none :=
  ⟨passDue_of h.1, clean_of h1.1 h1.2.1 h1.2.2.1 h1.2.2.2.1 h1.2.2.2.2.1, h.2, fun j hj => by simp [h1.2.2.2.2.2.1 j hj]⟩
theorem witness_pass_idle : PassDue (sixteen false 5) 0 ∧ Clean (sixteen false 5) 0 ∧ passQueues (sixteen false 5) 0 = [16] ∧
    ∀ j < 16, (getSlot (sixteen false 5) 0 j).queue ≠ none := witness_pass_full false (by decide +kernel) (by decide +kernel)
theorem witness_pass_busy : PassDue (sixteen true 5) 0 ∧ Clean (sixteen true 5) 0 ∧ passQueues (sixteen true 5) 0 = [16] ∧
    ∀ j < 16, (getSlot (sixteen true 5) 0 j).queue ≠ none := witness_pass_full true (by decide +kernel) (by decide +kernel)
theorem victim {b : Bool} {f : Nat → UQueue → Prop} (h : ∀ j < 16, (getSlot (sixteen b 5) 0 j).queue = some j ∧ getQ (sixteen b 5) 0 j = some (mate j) ∧
    (getSlot (sixteen b 5) 0 j).qcb = qcbVal 5 3 0) (hf : f 15 (mate 15)) :
    Victim (sixteen b 5) 0 f 15 := by
  refine ⟨15, mate 15, by decide, (h 15 (by decide)).1, (h 15 (by decide)).2.1, hf, fun j q u hj hne hq hu _ => .inr ?_⟩
  have hx := h j hj
  rw [hx.1] at hq; cases hq
  rw [hx.2.1] at hu; cases hu
  rw [hx.2.2, (h 15 (by decide)).2.2]; exact ⟨rfl, by omega⟩
theorem witness_victim_idle : Victim (sixteen false 5) 0 (fun j x => ¬ hasWork (sixteen false 5) 0 j x = true) 15 :=
  victim (by decide +kernel) (by decide +kernel)
theorem witness_victim_eligible : Victim (sixteen true 5) 0
    (fun _ x => ∃ t, x.mapped = some t ∧ t + (getPart (sixteen true 5) 0).params.eligible ≤ dtime (sixteen true 5)) 15 :=
  victim (by decide +kernel) ⟨0, rfl, by decide +kernel⟩
theorem witness_pass_priority : (∀ j < 16, hasWork (sixteen true 5) 0 j (mate j) = true) ∧
    fieldAt (getSlot (sixteen true 5) 0 15).qcb 300 4 < effPrio (sixteen true 5) (aQueue 16) ∧
    effPrio (sixteen true 3) (aQueue 16) ≤ fieldAt (getSlot (sixteen true 3) 0 15).qcb 300 4 := by decide +kernel
theorem witness_age : (noneMapped true).dev.phase = 6 ∧ (noneMapped true).dev.update = none ∧ (getPart (noneMapped true) 0).restarting = false ∧ getQ (noneMapped true) 0 16 = some (aQueue 16) ∧ slotOf (noneMapped true) 0 16 = none ∧
    hasWork (noneMapped true) 0 16 (aQueue 16) = true ∧ 0 + (getPart (noneMapped true) 0).params.ageStep ≤ dtime (noneMapped true) ∧
    0 < (getPart (noneMapped true) 0).slots.length ∧ Memory.wf (noneMapped true).mem = true := by decide +kernel
def far1 : State := modPart (noneMapped true) 0 (fun p => { p with setup := some { aSetup with far := [0] } })
def paged1 : State := modPart far1 0 (fun p => { p with queues := [(16, { aQueue 16 with paged := some (2 ^ 50) })] })
theorem witness_paging : getQ far1 0 16 = some (aQueue 16) ∧ slotOf far1 0 16 = none ∧ inFar far1 0 (2 ^ 50) 4352 = true ∧ (getPart far1 0).restarting = false ∧
    ((getCtx far1 (fieldAt (qcbOf far1 (aQueue 16)) 88 20)).map Ctx.part) = some 0 ∧ 2 ^ 50 % 256 = 0 ∧
    (getCtx far1 (fieldAt (qcbOf (memWrite far1 0x11000 48 (2 ^ 88)) (aQueue 16)) 88 20)) = none ∧
    (aQueue 16).unmapped + (getPart far1 0).params.pageOut ≤ dtime far1 ∧
    getQ paged1 0 16 = some { aQueue 16 with paged := some (2 ^ 50) } ∧ 16 ∈ (getPart paged1 0).pending := by decide +kernel
def aSpec : QueueSpec := { qcb := 0x11000, wptr := 0x8000, ctx := 0, prio := 15, logn := 12, base := 0x4000 }
theorem witness_queueCreate : aSpec.qcb % 256 = 0 ∧ inHbm up 0 aSpec.qcb 4352 = true ∧ getCtx up aSpec.ctx = some aCtx ∧ slotOf up 0 4095 = none ∧
    aSpec.base.toNat % 128 = 0 ∧ aSpec.wptr.toNat % 8 = 0 ∧ slotOf (served false 0 0 0x8000) 0 16 = some 0 ∧
    (getSlot (served false 0 0 0x8000) 0 0).present = [] := by decide +kernel

/-! Firmware and the device. -/
def aParams : PartParams := { lbound := 53000, polite := 0, killTimeout := 4000, eligible := 50000, ageStep := 50000, pageOut := 1000000 }
theorem witness_firmware : up.parts.length = 4 ∧ (getPart up 0).setup.isSome = true ∧ up.dev.phase = 6 ∧ up.dev.update = none ∧
    (getPart up 0).restarting = false ∧ (getPart up 0).table = none ∧ (getPart (noteTable up 0) 0).table.isSome = true ∧ InRange aParams ∧ ¬ InRange { aParams with lbound := 52999 } ∧
    InRange { lbound := 1000000, polite := 100000, killTimeout := 100000, eligible := 10000000, ageStep := 10000000, pageOut := 10000000000 } := by
  unfold InRange; decide +kernel
def updating (n : Nat) : State := withDev up { up.dev with update := some (n, 1, 2) }
theorem witness_update : UpdateDue up 1 ∧ ∀ n < 6, UpdateDue (updating n) (n + 1) :=
  ⟨⟨by decide, by decide, by decide, .inl (by decide)⟩, fun n _ => ⟨rfl, rfl, rfl, .inr ⟨(n, 1, 2), rfl, rfl⟩⟩⟩
theorem witness_debug : getCtx up 0 = some aCtx := by decide +kernel
def inPhase (n : Nat) (f : Dev → Dev) : State := withDev up (f { up.dev with phase := n })
theorem witness_warmReset : TakesReset up.dev ∧ TakesReset (inPhase 2 id).dev ∧ TakesReset (inPhase 0 (fun d => { d with tripped := true })).dev ∧
    ¬ TakesReset (inPhase 0 (fun d => { d with tripped := true, hot := true })).dev ∧ ¬ TakesReset (inPhase 1 id).dev ∧
    ¬ TakesReset (inPhase 2 (fun d => { d with sigFail := true })).dev ∧
    ¬ TakesReset (inPhase 2 (fun d => { d with hfailA := true, hfailB := true })).dev := by
  refine ⟨?_, ?_, ?_, ?_, ?_, ?_, ?_⟩ <;> (unfold TakesReset; decide)
theorem witness_bringUp : (∀ n < 7, (inPhase n id).dev.phase = n ∧ (inPhase n id).dev.tripped = false) ∧ up.dev.hfailA = false ∧
    (inPhase 2 (fun d => { d with hfailA := true, hfailB := true })).dev.hfailB = true ∧ up.dev.mailbox.state ≠ 4 ∧
    (inPhase 2 (fun d => { d with mailbox := { d.mailbox with state := 4 } })).dev.mailbox.state = 4 ∧ up.dev.sigFail = false ∧
    (inPhase 2 (fun d => { d with sigFail := true })).dev.sigFail = true ∧
    (∀ v ∈ up.dev.volts, v = 0) ∧ (∃ v ∈ (inPhase 3 (fun d => { d with volts := [0, 1, 0, 0] })).dev.volts, v ≠ 0) ∧
    up.dev.fail = false ∧ (inPhase 4 (fun d => { d with fail := true })).dev.fail = true := by decide
def sampled (t v p : Nat) : Sample := { dieTemp := [t, 40, 40, 40], ioTemp := 40, dieVolt := [v, 0, 0, 0], ioVolt := 0, power := p }
theorem witness_sample : up.dev.tripped = false ∧ 3 ≤ up.dev.phase ∧ FourDies (sampled 104 60 2200) ∧
    ¬ hotter (sampled 104 60 2200) 105 ∧ ¬ offBy (sampled 104 60 2200) 60 ∧ hotter (sampled 95 30 2000) 95 ∧
    ¬ hotter (sampled 94 30 2000) 95 ∧ ¬ offBy (sampled 94 30 2000) 30 ∧ offBy (sampled 94 31 2000) 30 ∧ hotter (sampled 105 0 0) 105 ∧
    offBy (sampled 0 61 0) 60 ∧ 2200 < (sampled 0 0 2201).power ∧ 1 ≤ up.dev.phase := by
  unfold FourDies hotter offBy; decide
/-! Recovery, registers, failed accesses. -/
def boxed (m : Recovery) : State := inPhase 2 (fun d => { d with sigFail := true, mailbox := m })
def box1 : Recovery := { Recovery.reset with state := 1, rofs := 0x3FF800, rlen := 2048, rtot := 0x400000 }
theorem witness_mailbox : ¬ Mailbox up ∧ Mailbox (boxed box1) ∧ PieceOk box1 ∧ PieceOk { box1 with rofs := 0, rlen := 4 } ∧
    ¬ PieceOk { box1 with rofs := 0x3FF804 } ∧ ¬ PieceOk { box1 with rlen := 0 } ∧ LengthOk box1 ∧ LengthOk { box1 with rtot := 4 } ∧
    ¬ LengthOk { box1 with rtot := 0x400004 } ∧ (boxed { box1 with state := 2 }).dev.mailbox.state = 2 ∧
    1 ≤ up.dev.phase ∧ (¬ (1 ≤ (inPhase 0 id).dev.phase ∨ (inPhase 0 id).dev.tripped = true)) ∧
    (inPhase 0 (fun d => { d with tripped := true })).dev.tripped = true := by
  unfold Mailbox PieceOk LengthOk; decide
def awaiting (src : LLSrc) : State := with0 one (fun th => { th with pend := [{ aPend with src := src, writes := [] }] })
def hostLoad : LLSrc := .load (2 ^ 51) .n32 (.v 3) false
def hostAtom : Req :=
  { id := 9, stamp := 0, origin := .none, who := [0], wg := 0, core := 0, ctx := 0, part := 0, die := 0, pa := 2 ^ 50, ret := true, prop := false, vgran := 0
    kind := .atom 5 .n32 false [(0, 0, 1, 0)], size := 4, scope := 3, ss := 15, after := [], behind := [], held := false }
theorem others {s : State} (h : (getWg s 0).threads.length = 32 ∧ (∀ v < 32, v ≠ 0 → (thOf s 0 v).pend = [])) :
    ∀ v, v ≠ 0 → ∀ q ∈ (thOf s 0 v).pend, q.tok ≠ 0 := by
  intro v hv q hq
  by_cases hl : v < 32
  · rw [h.2 v hl hv] at hq; cases hq
  · have : thOf s 0 v = Thread.none := by simp only [thOf, getTh]; rw [List.getD_eq_getElem?_getD, List.getElem?_eq_none (by omega)]; rfl
    rw [this] at hq; cases hq
theorem witness_failedLoad : (thOf (awaiting hostLoad) 0 0).pend[0]? = some { aPend with src := hostLoad, writes := [] } ∧
    (∀ q ∈ (thOf (awaiting hostLoad) 0 0).pend, q = { aPend with src := hostLoad, writes := [] }) ∧
    (∀ v, v ≠ 0 → ∀ q ∈ (thOf (awaiting hostLoad) 0 v).pend, q.tok ≠ 0) ∧ 2 ^ 51 / 2 ^ 50 = 2 ∧
    getCombs (awaiting hostLoad) (clusterOf (getWg (awaiting hostLoad) 0).core) = [] :=
  ⟨by decide +kernel, by decide +kernel, others (by decide +kernel), by decide, by decide +kernel⟩
theorem witness_failedAtom : (thOf { awaiting (.req 9 .n32 (.v 3) .lit) with reqs := [hostAtom] } 0 0).pend.length = 1 ∧
    { awaiting (.req 9 .n32 (.v 3) .lit) with reqs := [hostAtom] }.reqs.find? (fun q => q.id == 9) = some hostAtom ∧ hostAtom.pa / 2 ^ 50 = 1 ∧ hostAtom.wg = 0 ∧ hostAtom.kind = .atom 5 .n32 false [(0, 0, 1, 0)] ∧
    aPend.tok = 0 := by decide +kernel

/-! Partitions, contexts, attestation, migration. -/
def lone : PartSetup :=
  { dies := [2, 3], weights := [1, 15, 1, 1], far := [4095], udpPort := some 65535, ring := 2 ^ 51 + 32, ringLen := 1
    table := 2 * 96 * 2 ^ 30, tableLen := 96 * 2 ^ 30 }
theorem witness_setup : (∀ p < 4, p ≠ 0 → (getPart up p).setup = none) ∧ NoContext up 1 ∧ (getPart up 1).quiet = false ∧ Allowed up 1 lone ∧
    ¬ Allowed up 1 { lone with dies := [0, 1] } ∧ ¬ Allowed up 1 { lone with far := [4096] } ∧
    ¬ Allowed up 1 { lone with table := 2 * 96 * 2 ^ 30 + 1, dies := [2] } := by
  have h : ∀ q < 4, q ≠ 1 → ∀ o, (getPart up q).setup = some o → o = aSetup := by
    have h1 : ∀ q < 4, q ≠ 1 → ((getPart up q).setup.all (fun o => o.dies == [0] && o.far.isEmpty && o.weights.isEmpty && o.udpPort.isNone && o.ring == 0 && o.ringLen == 0 &&
      o.table == 0x60000000 && o.tableLen == 4096)) = true := by decide +kernel
    intro q hq hn o ho
    have := h1 q hq hn
    rw [ho] at this
    cases o; simp [List.isEmpty_iff] at this
    simp [this, aSetup]
  refine ⟨by decide +kernel, by unfold NoContext; decide +kernel, by decide +kernel, ⟨by decide, by decide, by decide, by decide, fun n hn => by cases hn; decide, by decide, by decide, by decide, by decide,
    fun q hq hn o ho => ?_⟩, fun hx => ?_, fun hx => ?_, fun hx => ?_⟩
  · rw [h q hq hn o ho]; decide
  · exact absurd ((hx.2.2.2.2.2.2.2.2.2 0 (by decide) (by decide) aSetup (by decide +kernel)).1 0 (by decide)) (by decide)
  · exact absurd (hx.2.2.2.1 4096 (by decide)) (by decide)
  · exact absurd hx.2.2.2.2.2.2.2.1 (by decide)
def resetting : State :=
  { modPart up 0 (fun x => { x with quiet := true }) with ctxs := [(0, { aCtx with dead := true, revoked := true })] }
theorem witness_partitionReset : (getPart up 0).setup = some aSetup ∧ (getPart up 0).quiet = false ∧ (getPart resetting 0).setup = some aSetup ∧
    (getPart resetting 0).quiet = true ∧ (∀ e ∈ resetting.ctxs, e.2.part = 0 → e.2.revoked = true) ∧ (getPart resetting 0).entries = [] ∧
    (getPart resetting 0).store = [] ∧ resetting.reqs = [] ∧ resetting.links = [] := by decide +kernel
theorem witness_contextCreate : getCtx up 7 = none ∧ [0x50000].length = (getPart up 0).dies.length ∧
    (∀ r ∈ [0x50000], r % 65536 = 0 ∧ inHbm up 0 r 65536 = true) ∧ inHbm up 0 0x40 64 = true ∧ inHbm up 0 0x100000 (8 * 65536) = true := by
  decide +kernel
theorem witness_region : getCtx regioned 0 = some { aCtx with regions := [(1, region1)] } ∧ region1.base % 65536 = 0 ∧ region1.len % 65536 = 0 ∧
    0 < region1.len ∧ paOk region1.base = true ∧ paOk (region1.base + region1.len - 1) = true ∧
    (1 : Nat) < 2 ^ 20 ∧ SMap.find [(1, region1)] 1 = some region1 ∧ SMap.find [(1, region1)] 2 = none := by decide +kernel
theorem witness_attestation : aSetup.dies.Nodup ∧ (∀ d ∈ aSetup.dies, d < 4) ∧ up.dev.phase = 6 ∧ (List.replicate 48 (0 : Byte)).length = 48 ∧
    up.dev.signed < 32768 ∧ 32768 ≤ (inPhase 6 (fun d => { d with signed := 32768 })).dev.signed := by decide
/-- A context with no page table, and one with one writable page. -/
def atStep (s : State) (n : Nat) : State := withDev s { s.dev with migrated := SMap.set 0 [] 0 n }
def bare : State := { State.reset with ctxs := [(0, aCtx)] }
def onePage : State := memWrite (memWrite bare 0x40000000 8 (entryOf 0x80 0x40010000)) 0x40010000 8 (entryOf 0xE1 0)
/-- A round: no page; one page that the log does not name, or does by OVF; one whose contents stand in host memory. -/
def onHost : State := memWrite onePage 0x40010000 8 (entryOf 0xE1 (2 ^ 51))
def overflowed : State := memWrite onePage 16 1 1
theorem witness_round : pagesOf bare aCtx = [] ∧ pagesOf onePage aCtx = [(0, 2 ^ 31, 0x40010000)] ∧ contentsAt (memRead onePage 0x40010000 8) = some 0 ∧
    pagesOf onHost aCtx = [(0, 2 ^ 31, 0x40010000)] ∧ contentsAt (memRead onHost 0x40010000 8) = none ∧
    pagesOf overflowed aCtx = [(0, 2 ^ 31, 0x40010000)] ∧ contentsAt (memRead overflowed 0x40010000 8) = some 0 := by decide +kernel
theorem witness_round_logged : Logged overflowed aCtx (0, 2 ^ 31, 0x40010000) ∧ ¬ Logged onePage aCtx (0, 2 ^ 31, 0x40010000) := by
  refine ⟨.inr (by decide +kernel), fun h => ?_⟩
  rcases h with ⟨k, hk, _⟩ | h
  · have hz : min 65536 ((memRead onePage aCtx.dlog 8 + 2 ^ 64 - memRead onePage (aCtx.dlog + 8) 8) % 2 ^ 64) = 0 := by decide +kernel
    omega
  · exact absurd h.1 (by decide +kernel)
/-- An image of context 0 with one queue, and a state that it stands beside. -/
def anImage (qs : List (Nat × Nat × Nat)) : CtxImage :=
  { ctx := 0, classes := [], regions := [], exports := [], queues := qs, pages := [], migrants := [], pending := [] }
def targetOf (qs : List (Nat × Nat × Nat)) : State := modPart (withDev bare { bare.dev with images := [anImage qs] }) 0 (fun x => { x with setup := some aSetup })
theorem witness_migration : aCtx.dead = false ∧ SMap.get 0 bare.dev.migrated 0 = 0 ∧
    (aCtx.roots.flatMap (writableLeaves bare)).eraseDups = [] ∧
    (aCtx.roots.flatMap (writableLeaves onePage)).eraseDups = [0x40010000] ∧
    memRead onePage 0x40010000 8 / 2 ^ 58 % 2 = 0 ∧ staleEntry onePage 0 0x40010000 = none ∧
    (∀ n ∈ [1, 2, 3, 4, 5], SMap.get 0 (atStep bare n).dev.migrated 0 = n ∧ (atStep bare n).wgs = [] ∧ (atStep bare n).links = [] ∧
      queuesOf (atStep bare n) 0 0 = []) := by decide +kernel
theorem witness_migration_still : Still (atStep bare 5) 0 0 ∧
    ¬ ∃ g ∈ (atStep bare 5).wgs, g.ctx = 0 ∧ g.part = 0 ∧ g.status = .saved := by unfold Still; decide +kernel
theorem witness_migration_waits : ¬ Still (atStep { bare with wgs := [placed 0 0 0x2000 0 0 0 kernelEntry] } 3) 0 0 := by
  intro h; exact absurd (h.1 _ (List.mem_cons_self ..) (by decide +kernel) (by decide +kernel)) (by decide +kernel)
theorem witness_migration_target : aCtx.quiet = false ∧
    (targetOf []).dev.images.find? (fun j => j.ctx == 0) = some (anImage []) ∧
    (targetOf [(16, 0x11000, 5)]).dev.images.find? (fun j => j.ctx == 0) = some (anImage [(16, 0x11000, 5)]) ∧
    inHbm (targetOf [(16, 0x11000, 5)]) 0 0x11000 4352 = true ∧ getQ (targetOf [(16, 0x11000, 5)]) 0 16 = none ∧
    0 < (targetOf [(16, 0x11000, 5)]).parts.length ∧ getCtx (targetOf [(16, 0x11000, 5)]) 0 = some aCtx := by decide +kernel
/-- An image with one page, which the target's tables have at 0x50000. -/
def aPage : CtxPage := { va := 0x50000, size := 65536, cells := [(3, 7), (65535, 9)], bad := [2047] }
def targetPage : State := withDev onePage { onePage.dev with images := [{ anImage [] with pages := [aPage] }] }
theorem witness_migration_page : arrives targetPage 0 aCtx = some { anImage [] with pages := [aPage] } ∧
    placesOf { targetPage with fresh := targetPage.fresh + 1 } aCtx aPage.va = [0x50000] ∧ (∀ e ∈ aPage.cells, e.1 < 65536) ∧ (∀ w ∈ aPage.bad, w < 2048) ∧
    SMap.wf Config.memDefault targetPage.mem = true ∧ SMap.wf Config.memDefault aPage.cells = true := by decide +kernel
/-! Link operations: `xput` of 64 bytes from data address 0x1000 to device 5. -/
def xblock (op ctl : Word) : List (Nat × Word) :=
  if op = 0 then [(8, 0x1000), (9, 0), (10, 0), (11, 0x5000), (12, 64), (13, ctl), (14, 0), (15, 0)]
  else [(8, 0), (9, 0x5000), (10, 0x1000), (11, 0), (12, if op = 1 then 64 else 0), (13, ctl), (14, 0), (15, 0)]
def putting : State := withU mapped (xblock 0 0x210000)
def getting (op : Word) : State := withU mapped (xblock op 0x208000)
theorem witness_xput : LinkReady plain putting 0 ∧ linkTrap (cur putting) 0 (linkSize 0 .b32 (cmdOf putting 0 (.s 8))) (linkAlign 0 .b32) (cmdOf putting 0 (.s 8)) = none := by
  refine ⟨⟨by decide, ⟨by decide, by decide +kernel⟩, by decide +kernel, by decide +kernel, ?_⟩, by decide +kernel⟩
  unfold NothingOut; decide +kernel
theorem witness_xget : LinkReady plain (getting 1) 0 ∧
    ∀ op ∈ [1, 2, 3], linkTrap (cur (getting (BitVec.ofNat 32 op))) op (linkSize op .n64 (cmdOf (getting (BitVec.ofNat 32 op)) 0 (.s 8))) (linkAlign op .n64)
      (cmdOf (getting (BitVec.ofNat 32 op)) 0 (.s 8)) = none := by
  refine ⟨⟨by decide, ⟨by decide, by decide +kernel⟩, by decide +kernel, by decide +kernel, ?_⟩, by decide +kernel⟩
  unfold NothingOut; decide +kernel
def aLink : LinkOp :=
  { num := 9, op := 0, wg := 0, die := 0, dev := 5, ch := 0, opsn := 0, ctl := 0x210000, len := 64, loc := 0x1000, rem := 0x5000_00000000, cobj := 0
    sub := 0, ty := 2, ord := 0, scope := 0, data := 7, data2 := 0, chunk := 0, got := 0, failed := none, answered := false, cancelled := false, result := []
    relAt := 0, performed := false, held := none }
theorem witness_link_waits : 1024 ≤ ({ putting with links := List.replicate 1024 aLink }.links.filter (fun (l : LinkOp) => l.die = (cur putting).core / 32)).length := by
  decide +kernel
theorem witness_link_traps : Sole plain false putting 0 ∧ ¬ Producer putting 1 ∧
    linkTrap (cur putting) 0 64 4 (cmdOf (withU putting [(13, 0x10000)]) 0 (.s 8)) = some (0x0C, 2, 0) ∧
    linkTrap (cur (withWg putting (fun g => { g with hdr := { g.hdr with bars := 0 } }))) 0 64 4 (cmdOf putting 0 (.s 8)) = some (0x0C, 3, 0) ∧
    linkTrap (cur putting) 0 64 4 (cmdOf (withU putting [(8, 0x1002)]) 0 (.s 8)) = some (0x04, 0, 0x1002) ∧
    linkTrap (cur putting) 0 64 4 (cmdOf (withU putting [(13, 0x4210000), (14, 8)]) 0 (.s 8)) = some (0x04, 0, 8) ∧
    linkTrap (cur putting) 0 64 4 (cmdOf (withU putting [(8, 0x6FFFC4)]) 0 (.s 8)) = some (0x0A, 0x100, 0x6FFFC4) ∧
    linkTrap (cur putting) 0 64 4 (cmdOf (withU putting [(8, 0x6FFFC0)]) 0 (.s 8)) = none := by
  refine ⟨⟨by decide +kernel, by decide +kernel⟩, ?_, ?_, ?_, ?_, ?_, ?_, ?_⟩ <;> decide +kernel
def aPeer : Peer := { addr := 1, tclass := 0, flow := 0, die := 0 }
/-- With the operation in progress; device 5 a peer, or not. -/
def linking (l : LinkOp) (peer : Bool) (next : Nat) : State :=
  let s := modPart { mapped with links := [l] } 0 (fun p => { p with peers := if peer then [(5, aPeer)] else [] })
  if next = 0 then s else putStream s (let st := Stream.fresh 0 5 0 true 0; { st with snd := { st.snd with next := next } })
theorem linkAt {s : State} {l : LinkOp} (h : s.links = [l] ∧ l.die = 0 ∧ l.cancelled = false ∧ (getWg s l.wg).status = .resident ∧
    ((getCtx s (getWg s l.wg).ctx).map Ctx.dead) = some false) : LinkAt s 0 l.num l := by
  obtain ⟨x, hx, hd⟩ := Option.map_eq_some_iff.1 h.2.2.2.2
  refine ⟨by simp [h.1, h.2.1], rfl, h.2.1, h.2.2.1, h.2.2.2.1, ⟨x, hx, hd⟩, fun m hm _ => ?_⟩
  simpa [h.1] using hm
theorem witness_linkSend : LinkAt (linking aLink true 0) 0 9 aLink ∧ (linking aLink true 0).links = [aLink] ∧ aLink.chunk < 1 ∧
    SMap.find (getPart (linking aLink true 0) 0).peers 5 ≠ none ∧ SMap.find (getPart (linking aLink false 0) 0).peers 5 = none ∧
    psnBefore (streamOf (linking aLink true 64) 0 5 0 true).snd.credit (streamOf (linking aLink true 64) 0 5 0 true).snd.next = true ∧
    psnBefore (streamOf (linking aLink true 0) 0 5 0 true).snd.credit (streamOf (linking aLink true 0) 0 5 0 true).snd.next = false ∧
    spBad (getWg (linking aLink true 0) 0) 0x1000 64 = none ∧ aLink.ctl.getLsbD 15 = false ∧ aLink.answered = false ∧ Ty.ofCode (BitVec.ofNat 4 aLink.ty) ≠ none ∧
    Machine.awaiting (linking aLink true 0) aLink (streamOf (linking aLink true 0) 0 5 0 true) < 256 := by
  refine ⟨linkAt (l := aLink) (by decide +kernel), ?_⟩
  decide +kernel
/-- An atomic of a stream that has 256 of them lost. -/
def fullLink : LinkOp := { aLink with op := 2, len := 0 }
def fullOf : State := putStream (linking fullLink true 0) { Stream.fresh 0 5 0 true 0 with lost := List.range 256 }
theorem witness_linkFull : LinkAt fullOf 0 9 fullLink ∧ 256 ≤ Machine.awaiting fullOf fullLink (streamOf fullOf 0 5 0 true) ∧ fullLink.chunk < 1 := by
  refine ⟨linkAt (l := fullLink) (by decide +kernel), ?_⟩
  decide +kernel
def answeredLink : LinkOp := { aLink with answered := true, failed := some 4 }
theorem witness_linkArrives : LinkAt (linking answeredLink true 0) 0 9 answeredLink ∧ answeredLink.ctl.getLsbD 26 = false ∧
    answeredLink.ctl.getLsbD 28 = false ∧ answeredLink.held = none ∧ (∀ b ∈ (getWg (linking answeredLink true 0) 0).bars, b.held = []) ∧
    (-512 : Int) ≤ (getBar (getWg (linking answeredLink true 0) 0) 0).e - 1 ∧
    ¬ phaseMet { getBar (getWg (linking answeredLink true 0) 0) 0 with e := (getBar (getWg (linking answeredLink true 0) 0) 0).e - 1 } := by
  refine ⟨linkAt (l := answeredLink) (by decide +kernel), ?_⟩
  decide +kernel

/-! Link packets from device 5. -/
def sealedPacket (p : Packet) : Packet := { p with icrc := crc32c (p.header ++ p.data) }
def aPacket (type op : Nat) : Packet := sealedPacket
  { ver := 1, type := type, srcDev := 5, dstDev := 0, sEpoch := 3, dEpoch := 0, ch := 0, op := op, last := true, retx := false, dir := 0, psn := 0
    opsn := 0, chunk := 0, exp := 2, offset := 0, sub := 0, ty := 2, ord := 0, scope := 0, reason := 0, credit := 70, rz := 0, icrc := 0
    data := [1, 2, 3, 4, 5, 6, 7, 8] }
def strange (type : Nat) : Packet := sealedPacket { aPacket type 0 with dEpoch := 77 }
def known' (out : Bool) : Stream := { Stream.fresh 0 5 0 out 0 with dEpoch := 3 }
def linked (out : Bool) : State := putStream (modPart mapped 0 (fun p => { p with epoch := 7 })) (known' out)
def early1 : Packet := sealedPacket { aPacket 1 0 with psn := 1 }
def old : Packet := sealedPacket { aPacket 1 0 with psn := 2 ^ 32 - 1, dEpoch := 7 }
def early2 : Packet := sealedPacket { early1 with dEpoch := 7 }
theorem witness_reception : partOfDie (linked true) 0 = some 0 ∧ (∀ t < 4, Sound t (aPacket t 0) ∧ Sound t (strange t)) ∧ ¬ Sound 1 (aPacket 0 0) ∧
    ¬ Sound 0 { aPacket 0 0 with icrc := (aPacket 0 0).icrc + 1 } ∧ EpochOk (linked true) 0 (aPacket 1 0) ∧
    (∀ t < 4, ¬ EpochOk (linked true) 0 (strange t)) ∧ ¬ EpochOk (linked true) 0 early1 := by
  unfold Sound EpochOk; decide +kernel
theorem witness_results : (∀ p ∈ [early2, old], Sound 1 p ∧ EpochOk (linked true) 0 p ∧ epochSeen (linked true) 0 p true = known' true ∧ p.psn < 2 ^ 32) ∧
    psnBefore (known' true).rcv.expect early2.psn = true ∧ psnBefore old.psn (known' true).rcv.expect = true := by
  unfold Sound EpochOk; decide +kernel
/-- A context that exports region 1 by entry 2, its writes, reads, atomics and transitions. -/
def exp2 : ExportEntry := { handle := 0x1001_00000000, r := true, w := true, a := true, s := true, src := 5 }
def open1 (staged : Bool) : Ctx :=
  { aCtx with regions := [(1, { region1 with w := true, staged := staged })], exports := [(2, exp2)], classes := [(0, { n := 1, ent := [] })] }
def exporting (staged : Bool) : State := { linked false with ctxs := [(0, open1 staged)] }
theorem nextRequest {s : State} {p : Packet} {st : Stream} (h : (partOfDie s 0 = some 0 ∧ Sound 0 p ∧ EpochOk s 0 p ∧ epochSeen s 0 p false = st ∧
    p.psn = st.rcv.expect ∧ st.rcv.owed < 15 ∧ psnBefore st.snd.credit st.snd.next = false ∧ s.clearing = []) ∧ s.reqs = []) : NextRequest s 0 0 p st :=
  ⟨h.1.1, h.1.2.1, h.1.2.2.1, h.1.2.2.2.1, h.1.2.2.2.2.1, h.1.2.2.2.2.2.1, h.1.2.2.2.2.2.2.1, h.1.2.2.2.2.2.2.2, by simp [h.2]⟩
theorem witness_nextRequest : ∀ op < 4, NextRequest (exporting false) 0 0 (aPacket 0 op) (known' false) := by
  have h : ∀ op < 4, (partOfDie (exporting false) 0 = some 0 ∧ Sound 0 (aPacket 0 op) ∧ EpochOk (exporting false) 0 (aPacket 0 op) ∧
    epochSeen (exporting false) 0 (aPacket 0 op) false = known' false ∧ (aPacket 0 op).psn = (known' false).rcv.expect ∧ (known' false).rcv.owed < 15 ∧
    psnBefore (known' false).snd.credit (known' false).snd.next = false ∧ (exporting false).clearing = []) ∧ (exporting false).reqs = [] := by
    unfold Sound EpochOk; decide +kernel
  exact fun op hop => nextRequest (h op hop)
/-- An operation that has met a fault, and its last chunk. -/
def failedOnce : Stream := { known' false with failed := [(0, 6)] }
theorem witness_failedRequest : NextRequest (putStream (exporting false) failedOnce) 0 0 (aPacket 0 0) failedOnce ∧
    failedOnce.failed.find? (fun f => f.1 == (aPacket 0 0).opsn) = some ((aPacket 0 0).opsn, 6) ∧
    (∀ y, exporter (putStream (exporting false) failedOnce) 0 2 5 = some y → y.2.1.quiet = false) := by
  refine ⟨nextRequest (by unfold Sound EpochOk; decide +kernel), by decide, fun y hy => ?_⟩
  have h : (exporter (putStream (exporting false) failedOnce) 0 2 5).all (fun y => y.2.1.quiet == false) = true := by decide +kernel
  simpa [hy] using h
theorem witness_export : exporter (exporting false) 0 2 5 = some (0, open1 false, exp2) ∧ exporter (exporting false) 0 3 5 = none ∧
    exporter (exporting false) 0 2 6 = none ∧ (open1 false).quiet = false ∧ (getPart (exporting false) 0).quiet = false ∧ (∀ f ∈ (known' false).failed, f.1 ≠ 0) := by
  decide +kernel
theorem witness_export_quiet : exporter { linked false with ctxs := [(0, { open1 false with quiet := true })] } 0 2 5 = some (0, { open1 false with quiet := true }, exp2) ∧
    (getPart (modPart (exporting false) 0 (fun p => { p with quiet := true })) 0).quiet = true := by decide +kernel
/-- Each reason for which a request may be turned away, and none. -/
theorem witness_requestRefused : requestRefused (open1 false) exp2 (aPacket 0 0) 8 = none ∧
    requestRefused (open1 false) exp2 { aPacket 0 0 with offset := 0xFFF9 } 8 = some 3 ∧ requestRefused (open1 false) exp2 { aPacket 0 0 with offset := 0xFFF8 } 8 = none ∧
    requestRefused (open1 false) { exp2 with w := false } (aPacket 0 0) 8 = some 4 ∧ requestRefused (open1 false) { exp2 with handle := 0x2001_00000000 } (aPacket 0 0) 8 = some 2 ∧
    requestRefused (open1 true) exp2 { aPacket 0 3 with offset := 8 } 16 = some 7 ∧ requestRefused (open1 true) exp2 (aPacket 0 3) 16 = none := by
  decide +kernel
theorem witness_exported : (∀ o ∈ [0, 1, 2], exported (open1 false) exp2 (aPacket 0 o) = some ({ region1 with w := true }, 0x100000)) ∧
    exported (open1 true) exp2 (aPacket 0 3) = some ({ region1 with w := true, staged := true }, 0x100000) ∧
    Ty.ofCode (BitVec.ofNat 4 (aPacket 0 2).ty) ≠ none ∧ memBad (exporting false) 0x100000 16 = false ∧
    memBad { exporting false with badMem := [0x100000 / 32] } 0x100000 16 = true := by decide +kernel
def anObj : Obj :=
  { ctx := 0, part := 0, die := 0, pa := 0x100000, prop := false, via := none, va := Config.regionGranule 0 16 * 65536 }
def stxOut : State × TOut := transition (engineWaits (putStream (exporting true) (known' false)) anObj 0).1 anObj 0 7 .engine
theorem witness_remoteStx : (engineWaits (putStream (exporting true) (known' false)) anObj 0).2 = false ∧ ∃ code x, stxOut.2 = .done code x := by
  refine ⟨by decide +kernel, ?_⟩
  have : (match stxOut.2 with | .done _ _ => true | _ => false) = true := by decide +kernel
  revert this
  cases stxOut.2 <;> simp
/-- A transition whose entry is a fault, and one that would park; the reads count nothing. -/
def exportingAct (e : Nat) : State := { linked false with ctxs := [(0, { open1 true with classes := [(0, { n := 1, ent := [(0, e)] })] })] }
def stxAct (e : Nat) : State × TOut :=
  transition (engineWaits (putStream (exportingAct e) (known' false)) anObj 0).1 anObj 0 7 .engine
theorem witness_remoteStx_fault : (engineWaits (putStream (exportingAct 0x20) (known' false)) anObj 0).2 = false ∧ Faulted (stxAct 0x20).2 ∧
    (engineWaits (putStream (exportingAct 0x10) (known' false)) anObj 0).2 = false ∧ Faulted (stxAct 0x10).2 := by
  have h : ∀ e ∈ [0x20, 0x10], (match (stxAct e).2 with | .fault _ _ => true | .park => true | _ => false) = true := by decide +kernel
  have f : ∀ x : TOut, (match x with | .fault _ _ => true | .park => true | _ => false) = true → Faulted x := fun x hx => by
    cases x with
    | fault a i => exact .inl ⟨a, i, rfl⟩
    | park => exact .inr rfl
    | _ => cases hx
  exact ⟨by decide +kernel, f _ (h 0x20 (by decide)), by decide +kernel, f _ (h 0x10 (by decide))⟩
/-- Requests beyond the next, and a duplicate whose result is kept, is away, or is not known. -/
def reqAt (op psn : Nat) : Packet := sealedPacket { aPacket 0 op with psn := psn, dEpoch := 7 }
def keeping : Stream := { known' false with results := [(0, [1, 2], 0)] }
def sendingIt : Stream := { keeping with snd := { keeping.snd with unacked := [(0, aPacket 1 2)] } }
theorem witness_duplicates : (∀ psn ∈ [1, 2 ^ 32 - 1], Sound 0 (reqAt 2 psn) ∧ EpochOk (linked false) 0 (reqAt 2 psn)) ∧
    psnBefore (known' false).rcv.expect (reqAt 2 1).psn = true ∧ psnBefore (reqAt 2 (2 ^ 32 - 1)).psn keeping.rcv.expect = true ∧
    keeping.results.find? (fun x => x.1 == (reqAt 2 0).opsn) = some ((reqAt 2 0).opsn, [1, 2], 0) ∧ keeping.snd.queue = [] ∧ keeping.snd.unacked = [] ∧
    psnBefore keeping.snd.credit keeping.snd.next = false ∧ (∃ q ∈ sendingIt.snd.unacked, q.2.opsn = (reqAt 2 0).opsn) := by
  unfold Sound EpochOk; decide +kernel
theorem witness_oneOp : OneOp { linked true with links := [aLink] } (known' true) aLink ∧ NoOps (linked true) (known' true) ∧
    NoneStopped (linked true) ∧ (aPacket 1 0).opsn = aLink.opsn ∧ (getCore (linked true) (getWg (linked true) 0).core).lines = [] ∧
    (getWg (linked true) 0).status = .resident ∧ (getWg (withWg (linked true) (fun g => { g with status := .saved })) 0).status = .saved ∧
    (known' true).snd.queue = [] ∧ known' true = streamOf (linked true) 0 5 0 ((aPacket 2 0).dir = 0) ∧
    epochSeen (linked true) 0 (aPacket 1 0) true = known' true ∧ (aPacket 1 0).psn = (known' true).rcv.expect :=
  ⟨⟨by decide +kernel, by unfold Carried; decide +kernel, rfl, rfl, fun m hm => .inl (List.mem_singleton.1 (show m ∈ [aLink] from hm))⟩,
    fun l hl => absurd (show l ∈ [] from hl) List.not_mem_nil, by unfold NoneStopped; decide +kernel,
    by decide +kernel, by decide +kernel, by decide +kernel, by decide +kernel, by decide, by decide +kernel, by decide +kernel, by decide +kernel⟩
def owing : Stream :=
  { known' true with rcv := { (known' true).rcv with owed := 1 }, snd := { (known' true).snd with unacked := [(0, aPacket 0 0)] } }
def timed (cyc : Nat) : State := { putStream { mapped with links := [aLink] } owing with cyc := cyc }
theorem witness_timers : partOfDie (timed 0) 0 = some 0 ∧ (getStreams (timed 0) 0)[0]? = some owing ∧ 0 < owing.rcv.owed ∧ owing.snd.unacked ≠ [] ∧
    owing.snd.last + owing.snd.timeout ≤ dtime (timed 100000) ∧ dtime (timed 0) < owing.snd.last + owing.snd.timeout ∧
    owing.snd.since + 100000000 ≤ dtime (timed 400000000) ∧ dtime (timed 0) < owing.snd.since + 100000000 ∧
    (∃ q ∈ owing.snd.unacked, q.2.opsn = aLink.opsn) := by decide +kernel
theorem witness_timers_op : OneOp (timed 400000000) owing aLink ∧ NoOps { timed 100000 with links := [] } owing :=
  ⟨⟨by decide +kernel, by unfold Carried; decide +kernel, rfl, rfl, fun m hm => .inl (List.mem_singleton.1 (show m ∈ [aLink] from hm))⟩,
    fun l hl => absurd (show l ∈ [] from hl) List.not_mem_nil⟩

/-! Steps. -/
def first (w : Nat) : State := State.reset.withFetchWord 96 w
theorem witness_decodeEncode : WellFormed (.brk plain 3) ∧ encode (.brk plain 3) = some 0xC101C0000000000300000000 := by
  unfold WellFormed; decide +kernel
theorem witness_unlisted : ¬ Listed (opcOf 0x0401C0000000000000000000) ∧ Listed (opcOf 0x0003C0000000000000000000) ∧ grdOf 0x0003C0000000000000000000 = 15 := by
  unfold Listed; decide +kernel
/-- The issue of a word as the first move after reset. -/
def issues (w : Nat) (i : Instr) : Bool :=
  let u := (first w).taken
  let g := getWg u 0
  decide ((first w).nextMove = .issue 0 0) && g.bundles == [List.range 32] && canIssue u 0 (List.range 32) &&
    (List.range 32).all (fun v => boundaryTrap u 0 v == none && !(getTh g v).oneShot) && isWord (fetch u g (getTh g 0)) (BitVec.ofNat 96 w) &&
    (match decodeIn (decCtx u g (getTh g 0)) (Raw.ofWord (BitVec.ofNat 96 w)).toWord with | .ok j => j == i | _ => false) &&
    (poisoned g (Raw.ofWord (BitVec.ofNat 96 w)) (List.range 32)).isEmpty
theorem witness_step_issue : issues 0xC001C0008040000000000000 (.trap plain (.imm 1) 0) = true ∧ issues 0x0001C0000000000000000000 (.nop plain) = true := by decide +kernel
theorem witness_step_event : { State.reset with sched := [.event .coldReset] }.nextMove = .event .coldReset ∧ encode .coldReset = none := by decide +kernel
theorem witness_memory : Memory.wf State.reset.mem = true ∧ 0x04030201 < 256 ^ 4 ∧ memByte (memWrite State.reset 0x10 4 0x04030201) 0x12 = 3 := by
  decide +kernel
theorem witness_invariant : (match step { State.reset with sched := [.event .coldReset] } with | .next _ => true | _ => false) = true := by decide +kernel
theorem witness_inv : Inv { State.reset with sched := [.event .coldReset] } := by
  refine ⟨by decide +kernel, by decide +kernel, by decide +kernel, ?_, ?_, ?_, by decide +kernel⟩ <;> intro x hx <;> cases hx
/-! A word of every instruction, written out by the fields of 02 R23, R30 to R34 and the encodings of the entries. -/
def read (l : List (IWord × Instr)) : Bool := l.all (fun p => match decode p.1 with | .ok i => i == p.2 | _ => false)
theorem test_decode_control_1 : read
    [(0x0001C0000000000000000000, .nop plain),
     (0x0041C0000000000000000000, .bra plain 0),
     (0x0081C0000080000000000000, .brx plain (.v 2)),
     (0x00C1C0070000000000000000, .call plain (.v 7) 0),
     (0x0101C0000080000000000000, .ret plain (.v 2)),
     (0x0141C0000000000000000000, .exit plain),
     (0x0181C0000000000000000000, .yieldTo plain),
     (0x01C1C0000000000000000000, .gsync plain),
     (0x0201C0000000000000000000, .meet plain 0),
     (0x0241C0000080000000000000, .meetg plain (.v 2) 0),
     (0x0281C0000000000000000000, .unmeet plain),
     (0x02C1C0000090900000000000, .dispatch plain (.v 2) (.s 9)),
     (0x0301C0070080050000000000, .gld plain .i32 (.v 7) (.v 2) 0),
     (0x0341C0000080000000000000, .gadv plain (.v 2) 0),
     (0x0381C0000080000000000000, .gset plain (.v 2) 0)] = true := by decide +kernel
theorem test_decode_control_2 : read
    [(0x0381C0000080000100000000, .gsetLeave plain (.v 2) 0),
     (0x03C1C007009092400000A2FC, .mcall plain (.v 7) (.v 2) (.s 9) (.imm 252) 40 0 0 0 9)] = true := by decide +kernel
theorem test_decode_integer_1 : read
    [(0x1001C0070090951000000000, .iadd plain .i32 true (.v 7) (.v 2) (.s 9) 0),
     (0x1041C0070090951000000000, .isub plain .i32 true (.v 7) (.v 2) (.s 9) 0),
     (0x1081C0070090951000000000, .imul plain .i32 true (.v 7) (.v 2) (.s 9) 0),
     (0x10C1C0070090950000000000, .imulh plain .i32 (.v 7) (.v 2) (.s 9) 0),
     (0x1101C00700909510000002FC, .imad plain .i32 true (.v 7) (.v 2) (.s 9) (.imm 252)),
     (0x1141C0070090950000000000, .idiv plain .i32 (.v 7) (.v 2) (.s 9) 0),
     (0x1181C0070090950000000000, .irem plain .i32 (.v 7) (.v 2) (.s 9) 0),
     (0x11C1C0070090950000000000, .imin plain .i32 (.v 7) (.v 2) (.s 9) 0),
     (0x1201C0070090950000000000, .imax plain .i32 (.v 7) (.v 2) (.s 9) 0),
     (0x1241C0070080051000000000, .iabs plain .i32 true (.v 7) (.v 2) 0),
     (0x1281C0070080051000000000, .ineg plain .i32 true (.v 7) (.v 2) 0),
     (0x12C1C0070090900000000000, .and plain .b32 (.v 7) (.v 2) (.s 9) 0),
     (0x1301C0070090900000000000, .or plain .b32 (.v 7) (.v 2) (.s 9) 0),
     (0x1341C0070090900000000000, .xor plain .b32 (.v 7) (.v 2) (.s 9) 0),
     (0x1381C0070080000000000000, .not plain .b32 (.v 7) (.v 2) 0)] = true := by decide +kernel
theorem test_decode_integer_2 : read
    [(0x13C1C0070090900000000000, .andn plain .b32 (.v 7) (.v 2) (.s 9) 0),
     (0x1401C0070090900000000000, .shl plain .b32 (.v 7) (.v 2) (.s 9) 0),
     (0x1441C0070090900000000000, .shr plain .b32 (.v 7) (.v 2) (.s 9) 0),
     (0x1481C0070090900000000000, .sar plain .b32 (.v 7) (.v 2) (.s 9) 0),
     (0x14C1C0070090900000000000, .rol plain .b32 (.v 7) (.v 2) (.s 9) 0),
     (0x1501C0070080000000000000, .popc plain .b32 (.v 7) (.v 2) 0),
     (0x1541C0070080000000000000, .clz plain .b32 (.v 7) (.v 2) 0),
     (0x1581C0070080000000000000, .ctz plain .b32 (.v 7) (.v 2) 0),
     (0x15C1C0070080000000000000, .brev plain .b32 (.v 7) (.v 2) 0),
     (0x1601C0070080000000000000, .bswap plain .b32 (.v 7) (.v 2) 0),
     (0x1641C0070090950000000000, .bfx plain .i32 (.v 7) (.v 2) (.s 9) 0),
     (0x1681C00700909000000002FC, .bfi plain .b32 (.v 7) (.v 2) (.s 9) (.imm 252)),
     (0x16C1C1CB0090950300000000, .icmp plain .i32 3 (.p 3) (.v 2) (.s 9) 0),
     (0x1701C00700909000000001CE, .sel plain .b32 (.v 7) (.v 2) (.s 9) (.p 6))] = true := by decide +kernel
theorem test_decode_moves : read
    [(0x2001C0070080000000000000, .mov plain .b32 (.v 7) (.v 2) 0),
     (0x2041C00760C0000000000000, .rdsp plain (.v 7) (.sp 3)),
     (0x2081C0006300500000000000, .wrsp plain (.sp 12) (.v 5) 0),
     (0x20C1C1CB731CD00300000000, .plop plain 3 (.p 3) (.p 4) (.p 5)),
     (0x2101C0070000000000000000, .p2v plain (.v 7)),
     (0x2141C0000090900000000000, .v2p plain (.v 2) (.s 9) 0),
     (0x2181C1150080000000000000, .rdfirst plain .b32 (.s 21) (.v 2))] = true := by decide +kernel
theorem test_decode_float_1 : read
    [(0x3001C0070090992000000000, .fadd plain .f32 1 (.v 7) (.v 2) (.s 9) 0),
     (0x3041C0070090992000000000, .fsub plain 1 (.v 7) (.v 2) (.s 9) 0),
     (0x3081C0070090992000000000, .fmul plain .f32 1 (.v 7) (.v 2) (.s 9) 0),
     (0x30C1C00700909920000002FC, .ffma plain .f32 1 (.v 7) (.v 2) (.s 9) (.imm 252)),
     (0x3101C0070090990000000000, .fmin plain .f32 (.v 7) (.v 2) (.s 9) 0),
     (0x3141C0070090990000000000, .fmax plain .f32 (.v 7) (.v 2) (.s 9) 0),
     (0x3181C0070080090000000000, .fabs plain .f32 (.v 7) (.v 2) 0),
     (0x31C1C0070080090000000000, .fneg plain .f32 (.v 7) (.v 2) 0),
     (0x3201C1CB0090990300000000, .fcmp plain 3 (.p 3) (.v 2) (.s 9) 0),
     (0x3241C0070080090000000000, .fcls plain .f32 (.v 7) (.v 2) 0),
     (0x3281C0070090992000000000, .fdiv plain 1 (.v 7) (.v 2) (.s 9) 0),
     (0x32C1C0070080092000000000, .fsqrt plain 1 (.v 7) (.v 2) 0),
     (0x3301C0070080090000000000, .frcp plain (.v 7) (.v 2) 0),
     (0x3341C0070080090000000000, .frsq plain (.v 7) (.v 2) 0),
     (0x3381C0070080090000000000, .fexp2 plain (.v 7) (.v 2) 0)] = true := by decide +kernel
theorem test_decode_float_2 : read
    [(0x33C1C0070080090000000000, .flog2 plain (.v 7) (.v 2) 0),
     (0x3401C0070080090000000000, .ftanh plain (.v 7) (.v 2) 0),
     (0x3441C0070080092000000000, .frnd plain 1 (.v 7) (.v 2) 0),
     (0x3481C0070080092500000000, .cvt plain .f32 .i32 1 false (.v 7) (.v 2) (.v 0) 0),
     (0x34C1C0070080090100000000, .bxq plain 1 (.v 7) (.v 2)),
     (0x3501C0070090990100000000, .bxd plain 1 (.v 7) (.v 2) (.s 9) 0),
     (0x3541C00700909A20000002FC, .fdot2 plain .f16x2 1 (.v 7) (.v 2) (.s 9) (.imm 252))] = true := by decide +kernel
theorem test_decode_lanes : read
    [(0x4001C0070090902300000000, .shfl plain .b32 1 3 (.v 7) (.v 2) (.s 9) 0),
     (0x4041C0070080000100000000, .qswap plain .b32 1 (.v 7) (.v 2)),
     (0x4081C0070090900000000000, .qbcast plain .b32 (.v 7) (.v 2) (.s 9) 0),
     (0x40C1C0077300000000000000, .ballot plain (.v 7) (.p 4)),
     (0x4101C1CB7300000100000000, .vote plain 1 (.p 3) (.p 4)),
     (0x4141C0070080000000000000, .matchLanes plain .b32 (.v 7) (.v 2)),
     (0x4181C0070080050100000000, .scan plain .i32 0 1 (.v 7) (.v 2) 0),
     (0x41C1C0070080050100000000, .redux plain .i32 0 1 (.v 7) (.v 2) 0),
     (0x4201C1CB0000000000000000, .elect plain (.p 3))] = true := by decide +kernel
theorem test_decode_scratchpad : read
    [(0x5001C0070090952000000000, .lds plain .i32 1 (.v 7) (.v 2) (.s 9) 0),
     (0x5041C0070090952000000000, .sts plain .i32 1 (.v 7) (.v 2) (.s 9) 0),
     (0x5081C0070090952000000000, .ldh plain .i32 1 (.v 7) (.v 2) (.s 9) 0),
     (0x50C1C0070090952000000000, .sth plain .i32 1 (.v 7) (.v 2) (.s 9) 0),
     (0x5101C0004210900000000000, .spzero plain (.s 8) (.s 9) 0),
     (0x5141C0070080000000000000, .tlook plain (.v 7) (.v 2) 0),
     (0x5181C1144200000000000000, .tins plain (.s 20) (.s 8) 0),
     (0x51C1C1144200000000000000, .tinv plain (.s 20) (.s 8) 0),
     (0x5201C0000090900000000000, .tmark plain (.v 2) (.s 9) 0),
     (0x5241C0004210900000000000, .hgive plain (.s 8) (.s 9) 0),
     (0x5241C1144210900100000000, .hgiveNew plain (.s 20) (.s 8) (.s 9) 0),
     (0x5241C0004200000200000000, .hgiveRetire plain (.s 8)),
     (0x5281C0004200000000000000, .htake plain (.s 8)),
     (0x52C1C0070080000000000000, .hqry plain (.v 7) (.v 2))] = true := by decide +kernel
theorem test_decode_memory : read
    [(0x6001C0070090952084100010, .ld plain .i32 1 (.v 7) (.v 2) (.s 9) { scope := 4, ss := 2, ord := 0, rpro := false, ch := 1 } 16),
     (0x6041C0070090952084100010, .st plain .i32 1 (.v 7) (.v 2) (.s 9) { scope := 4, ss := 2, ord := 0, rpro := false, ch := 1 } 16),
     (0x6081C0000090904004000010, .pf plain 2 (.v 2) (.s 9) { scope := 0, ss := 2, ord := 0, rpro := false, ch := 0 } 16),
     (0x60C1C0000000000185800000, .fence plain 1 { scope := 4, ss := 2, ord := 3, rpro := false, ch := 0 }),
     (0x6101C0084210964084104000, .atom plain .n32 2 0 (.v 8) (.s 8) (.s 9) (.v 0) { scope := 4, ss := 2, ord := 0, rpro := false, ch := 1 } 16),
     (0x6141C0070090952084100010, .red plain .i32 1 0 (.v 7) (.v 2) (.s 9) { scope := 4, ss := 2, ord := 0, rpro := false, ch := 1 } 16)] = true := by decide +kernel
theorem test_decode_staged : read
    [(0x7001C00700909023841042FC, .stx plain 1 3 (.v 7) (.v 2) (.s 9) (.imm 252) { scope := 4, ss := 2, ord := 0, rpro := false, ch := 1 } 16),
     (0x7041C0080090904084104000, .stinit plain 2 (.v 8) (.v 2) (.s 9) (.v 0) { scope := 4, ss := 2, ord := 0, rpro := false, ch := 1 } 16),
     (0x7081C1144210902184100010, .stqry plain 1 1 (.s 20) (.s 8) (.s 9) { scope := 4, ss := 2, ord := 0, rpro := false, ch := 1 } 16),
     (0x70C1C0004200002300000000, .stload plain 1 3 (.s 8))] = true := by decide +kernel
theorem test_decode_barriers : read
    [(0x8001C0004210900000000000, .binit plain (.s 8) (.s 9) 0),
     (0x8041C0004200000000000000, .barrive plain (.s 8) 0),
     (0x8041C1154200000100000000, .barrivePh plain (.s 21) (.s 8) 0),
     (0x8081C0004210900000000000, .bwait plain (.s 8) (.s 9) 0),
     (0x80C1C0004200000000000000, .bsync plain (.s 8) 0),
     (0x8101C0004210900000000000, .bexpect plain (.s 8) (.s 9) 0),
     (0x8141C0074200000000000000, .bqry plain (.v 7) (.s 8) 0)] = true := by decide +kernel
theorem test_decode_queues : read
    [(0x8201C0004210900000000000, .qinit plain (.s 8) (.s 9) 0),
     (0x8241C0004210A00000000000, .qpush plain (.s 8) (.s 10) 0),
     (0x8281C1144200000000000000, .qpop plain (.s 20) (.s 8) 0),
     (0x82C1C1144200000000000000, .qtry plain (.s 20) (.s 8) 0),
     (0x8301C00042109000000002FC, .qallow plain (.s 8) (.s 9) (.imm 252))] = true := by decide +kernel
theorem test_decode_streamer : read
    [(0x9001C1154200000000000000, .cpy plain (.s 21) (.s 8)),
     (0x9041C1154210900000000000, .cpyt plain (.s 21) (.s 8) (.s 9) 0),
     (0x9081C0074200000000000000, .cpwp plain (.v 7) (.s 8) 0),
     (0x90C1C0004210900000000000, .cpwait plain (.s 8) (.s 9) 0),
     (0x9101C0004200000000000000, .cpfence plain (.s 8) 0)] = true := by decide +kernel
theorem test_decode_anvil : read
    [(0xA001C0000000002100000000, .mcfg plain 1 1),
     (0xA041C0004210951100000000, .mldb plain 5 true 1 (.s 8) (.s 9) 0),
     (0xA081C0004210951300000000, .mmb plain 5 true 3 (.s 8) (.s 9) 0),
     (0xA0C1C000B200000100000000, .scacc plain 1 (.imm 200) 0),
     (0xA101C0000000000100000000, .mzero plain 1),
     (0xA141C0004210900100000000, .mldc plain 1 (.s 8) (.s 9) 0),
     (0xA181C0004210953100000000, .mdrain plain 5 1 true 1 (.s 8) (.s 9) 0),
     (0xA1C1C1144200000000000000, .merr plain (.s 20) (.s 8) 0),
     (0xA1C1C0000000000100000000, .merrClr plain)] = true := by decide +kernel
theorem test_decode_launch : read
    [(0xB001C0070080000000000000, .enq plain (.v 7) (.v 2)),
     (0xB041C0070080050000000000, .ldqe plain .i32 (.v 7) (.v 2) 0),
     (0xB081C0004200000000000000, .tmset plain (.s 8) 0)] = true := by decide +kernel
theorem test_decode_system : read
    [(0xC001C0000080000000000000, .trap plain (.v 2) 0),
     (0xC041C0000000000000000000, .rtiRe plain),
     (0xC041C0000000000100000000, .rtiNext plain),
     (0xC041C0000000000200000000, .rtiDrop plain),
     (0xC081C0000000000000000000, .region plain),
     (0xC0C1C0000000000000000000, .ppoint plain),
     (0xC101C0000000000300000000, .brk plain 3),
     (0xC141C0000080000000000000, .sleep plain (.v 2) 0)] = true := by decide +kernel
theorem test_decode_link : read
    [(0xD001C0004200000000000000, .xput plain (.s 8)),
     (0xD041C0004200000000000000, .xget plain (.s 8)),
     (0xD081C0004210950084100000, .xatom plain .i32 0 (.s 8) (.s 9) { scope := 4, ss := 2, ord := 0, rpro := false, ch := 1 }),
     (0xD0C1C0004220600384100000, .xstx plain 3 (.s 8) (.imm 6) { scope := 4, ss := 2, ord := 0, rpro := false, ch := 1 })] = true := by decide +kernel
/-! The words that the spec writes out, and words with faults: the first that the encoding check finds, as REASON and FIELD (02 R35, R36). -/
theorem test_decode_examples : read
    [(0x8101C0008020100000000000, .bexpect plain (.imm 0) (.imm 1) 0),
     (0x6101C0084080564085800009, .atom plain .n32 2 0 (.v 8) (.s 2) (.v 5) (.v 9) { scope := 4, ss := 2, ord := 3, rpro := false, ch := 0 } 0),
     (0xC001C0008040000000000000, .trap plain (.imm 1) 0),
     (0xC041C0000000000100000000, .rtiNext plain),
     (0xC101C0000000000300000000, .brk plain 3),
     (0xC141C000C0000000000000C8, .sleep plain .lit 200),
     (0x9001C1144200000000000000, .cpy plain (.s 20) (.s 8)),
     (0xB001C1154100000000000000, .enq plain (.s 21) (.s 4)),
     (0xB041C10086000E0000000000, .ldqe plain .b64 (.s 0) (.imm 0x18) 0),
     (0xB081C0004180000000000000, .tmset plain (.s 6) 0),
     (0xB081C000C0000000000186A0, .tmset plain .lit 100000),
     (0xD001C0004400000000000000, .xput plain (.s 16))] = true := by decide +kernel
/-- The fault of a word. -/
def faultOf (w : IWord) : Option (Nat × Nat) := match decode w with | .error e => some e | _ => none
theorem test_reserved_opcode : faultOf 0x0401C0000000000000000000 = some (1, 0) := by decide +kernel
theorem test_reserved_operand : faultOf 0x1001C1D00080050500000000 = some (2, 3) ∧ faultOf 0x1001C0077480050500000000 = some (2, 4) := by decide +kernel
theorem test_all_zero_word : read [(0, .nop { plain with pred := 0 })] = true := by decide +kernel
/-- The first fault of a term. -/
def illFormed (i : Instr) (reason field : Nat) : Bool :=
  !wellFormed i && (rawOf i).bind (fun r => firstFault (faults .std r)) == some (reason, field)
theorem test_illformed_guard : illFormed (.nop { plain with neg := true }) 2 1 = true := by decide +kernel
theorem test_illformed_slot : illFormed (.iadd plain .i32 false (.v 1) (.slot 2) (.v 3) 0) 3 4 = true := by decide +kernel
theorem test_illformed_unused : illFormed (.iadd plain .i32 false (.v 1) (.v 2) (.v 3) 5) 4 0xB = true := by decide +kernel
theorem test_illformed_type : illFormed (.iadd plain .f32 false (.v 1) (.v 2) (.v 3) 0) 5 7 = true := by decide +kernel
theorem test_illformed_sub : illFormed (.icmp plain .i32 15 (.p 1) (.v 2) (.v 3) 0) 5 0xA = true := by decide +kernel
theorem test_illformed_scope :
    illFormed (.ld plain .n32 0 (.v 1) (.s 2) (.imm 0) { scope := 7, ss := 15, ord := 1, rpro := false, ch := 0 } 0) 6 0xC = true := by decide +kernel
theorem test_illformed_kind : illFormed (.iadd plain .i32 false (.imm 1) (.v 2) (.v 3) 0) 7 3 = true := by decide +kernel
theorem test_illformed_pair : illFormed (.iadd plain .i64 false (.v 3) (.v 2) (.v 4) 0) 8 3 = true := by decide +kernel
theorem test_illformed_register : (rawOf (.iadd plain .i32 false (.v 8) (.v 2) (.v 3) 0)).bind (fun r =>
    firstFault (faults { DecCtx.std with vregs := 8 } r)) = some (9, 3) := by decide +kernel
/-! Results of single steps. Each value is the spec's own (an example or a table row) or worked by hand from the rule of the entry. -/
def ops (a b c : Word) : State := withV one 0 [(1, a), (2, b), (3, c)]
def ops64 (a b : Nat) : State :=
  withV one 0 [(2, BitVec.ofNat 32 a), (3, BitVec.ofNat 32 (a / 2 ^ 32)), (4, BitVec.ofNat 32 b), (5, BitVec.ofNat 32 (b / 2 ^ 32))]
def next (i : Instr) (s : State) : Option State := match exec i s with | .next t => some t | _ => none
def thr (i : Instr) (s : State) (u : Nat) : Thread := ((next i s).map (fun t => thOf t 0 u)).getD Thread.none
/-- v7 of thread 0 afterwards, and its flags. -/
def v7 (i : Instr) (s : State) : Word := (thr i s 0).rv 7
def v67 (i : Instr) (s : State) : Word × Word := ((thr i s 0).rv 6, (thr i s 0).rv 7)
def fl (i : Instr) (s : State) : Word := (thr i s 0).fflags
def p3 (i : Instr) (s : State) : Bool := (thr i s 0).rp 3
/-- The values and flags of the result that thread 0 awaits. -/
def awaited (i : Instr) (s : State) : List Word × Word :=
  match (thr i s 0).pend with
  | [p] => (p.writes.map RegWrite.val, p.flags)
  | _ => ([], 0)
/-- The cause, information and address of the trap that thread 0 took. -/
def trapped (i : Instr) (s : State) : Word × DWord × DWord := ((thr i s 0).tcause, (thr i s 0).tinfo, (thr i s 0).taddr)
/-- v7 of the first lanes of a full group. -/
def lanes (i : Instr) (s : State) (n : Nat) : List Word := (List.range n).map (fun u => (thr i s u).rv 7)

/-! Integer (06). -/
theorem test_iadd : v7 (.iadd plain .i32 false (.v 7) (.v 1) (.v 2) 0) (ops 0x7FFFFFFF 1 0) = 0x80000000 ∧
    v7 (.iadd plain .i32 true (.v 7) (.v 1) (.v 2) 0) (ops 0x7FFFFFFF 1 0) = 0x7FFFFFFF := by decide +kernel
theorem test_iadd_pair : v67 (.iadd plain .n64 false (.v 6) (.v 2) (.v 4) 0) (ops64 0xFFFFFFFF 1) = (0, 1) := by decide +kernel
theorem test_isub : v7 (.isub plain .n32 false (.v 7) (.v 1) (.v 2) 0) (ops 0 1 0) = 0xFFFFFFFF ∧
    v7 (.isub plain .n32 true (.v 7) (.v 1) (.v 2) 0) (ops 0 1 0) = 0 := by decide +kernel
theorem test_imul : v7 (.imul plain .i32 false (.v 7) (.v 1) (.v 2) 0) (ops 0xFFFFFFFF 3 0) = 0xFFFFFFFD := by decide +kernel
theorem test_imulh : v7 (.imulh plain .i32 (.v 7) (.v 1) (.v 2) 0) (ops 0xFFFFFFFF 1 0) = 0xFFFFFFFF ∧
    v7 (.imulh plain .n32 (.v 7) (.v 1) (.v 2) 0) (ops 0xFFFFFFFF 2 0) = 1 := by decide +kernel
theorem test_imad : v7 (.imad plain .i32 true (.v 7) (.v 1) (.s 3) (.imm 0xFC)) (withU (ops 0x40000000 0 0) [(3, 3)]) = 0x7FFFFFFF ∧
    v7 (.imad plain .i32 false (.v 7) (.v 1) (.s 3) (.imm 0xFC)) (withU (ops 0x40000000 0 0) [(3, 3)]) = 0xBFFFFFFC := by decide +kernel
theorem test_idiv : awaited (.idiv plain .i32 (.v 7) (.v 1) (.v 2) 0) (ops 0xFFFFFFF9 2 0) = ([0xFFFFFFFD], 0) ∧
    awaited (.idiv plain .i32 (.v 7) (.v 1) (.v 2) 0) (ops 5 0 0) = ([0xFFFFFFFF], 0) := by decide +kernel
theorem test_irem : awaited (.irem plain .i32 (.v 7) (.v 1) (.v 2) 0) (ops 0xFFFFFFF9 2 0) = ([0xFFFFFFFF], 0) ∧
    awaited (.irem plain .i32 (.v 7) (.v 1) (.v 2) 0) (ops 0x80000000 0xFFFFFFFF 0) = ([0], 0) := by decide +kernel
theorem test_imin : v7 (.imin plain .i32 (.v 7) (.v 1) (.v 2) 0) (ops 0xFFFFFFFF 1 0) = 0xFFFFFFFF ∧
    v7 (.imin plain .n32 (.v 7) (.v 1) (.v 2) 0) (ops 0xFFFFFFFF 1 0) = 1 := by decide +kernel
theorem test_imax : v7 (.imax plain .i32 (.v 7) (.v 1) (.v 2) 0) (ops 0xFFFFFFFF 1 0) = 1 := by decide +kernel
theorem test_iabs : v7 (.iabs plain .i32 false (.v 7) (.v 1) 0) (ops 0x80000000 0 0) = 0x80000000 ∧
    v7 (.iabs plain .i32 true (.v 7) (.v 1) 0) (ops 0x80000000 0 0) = 0x7FFFFFFF := by decide +kernel
theorem test_ineg : v7 (.ineg plain .i32 false (.v 7) (.v 1) 0) (ops 5 0 0) = 0xFFFFFFFB := by decide +kernel
theorem test_bitwise : v7 (.and plain .b32 (.v 7) (.v 1) (.v 2) 0) (ops 0xC 0xA 0) = 8 ∧ v7 (.or plain .b32 (.v 7) (.v 1) (.v 2) 0) (ops 0xC 0xA 0) = 0xE ∧
    v7 (.xor plain .b32 (.v 7) (.v 1) (.v 2) 0) (ops 0xC 0xA 0) = 6 ∧ v7 (.andn plain .b32 (.v 7) (.v 1) (.v 2) 0) (ops 0xC 0xA 0) = 4 ∧
    v7 (.not plain .b32 (.v 7) (.v 1) 0) (ops 0xC 0xA 0) = 0xFFFFFFF3 := by decide +kernel
theorem test_shl : v7 (.shl plain .b32 (.v 7) (.v 1) (.v 2) 0) (ops 3 31 0) = 0x80000000 ∧ v7 (.shl plain .b32 (.v 7) (.v 1) (.v 2) 0) (ops 3 32 0) = 0 := by
  decide +kernel
theorem test_shr : v7 (.shr plain .b32 (.v 7) (.v 1) (.v 2) 0) (ops 0x80000000 4 0) = 0x08000000 := by decide +kernel
theorem test_sar : v7 (.sar plain .b32 (.v 7) (.v 1) (.v 2) 0) (ops 0x80000000 4 0) = 0xF8000000 ∧
    v7 (.sar plain .b32 (.v 7) (.v 1) (.v 2) 0) (ops 0x80000000 99 0) = 0xFFFFFFFF := by decide +kernel
theorem test_rol : v7 (.rol plain .b32 (.v 7) (.v 1) (.v 2) 0) (ops 0x80000001 36 0) = 0x18 := by decide +kernel
theorem test_counts : v7 (.popc plain .b32 (.v 7) (.v 1) 0) (ops 0xF1 0 0) = 5 ∧ v7 (.clz plain .b32 (.v 7) (.v 1) 0) (ops 0xF1 0 0) = 24 ∧
    v7 (.ctz plain .b32 (.v 7) (.v 1) 0) (ops 0 0 0) = 32 := by decide +kernel
theorem test_reversals : v7 (.brev plain .b32 (.v 7) (.v 1) 0) (ops 0xB 0 0) = 0xD0000000 ∧
    v7 (.bswap plain .b32 (.v 7) (.v 1) 0) (ops 0x01020304 0 0) = 0x04030201 := by decide +kernel
theorem test_bfx : v7 (.bfx plain .i32 (.v 7) (.v 2) .lit 0x0404) (ops 0 0xF0 0) = 0xFFFFFFFF ∧
    v7 (.bfx plain .n32 (.v 7) (.v 2) .lit 0x0404) (ops 0 0xF0 0) = 15 := by decide +kernel
theorem test_bfi : v7 (.bfi plain .n32 (.v 7) (.v 1) (.v 2) (.v 3)) (ops 0xFF 0 0x0804) = 0xFF0 ∧
    v7 (.bfi plain .n32 (.v 7) (.v 1) (.v 2) (.v 3)) (ops 0xFF 0 0x081C) = 0xF0000000 := by decide +kernel
theorem test_icmp : p3 (.icmp plain .i32 2 (.p 3) (.v 1) (.v 2) 0) (ops 0xFFFFFFFF 1 0) = true ∧
    p3 (.icmp plain .n32 2 (.p 3) (.v 1) (.v 2) 0) (ops 0xFFFFFFFF 1 0) = false := by decide +kernel
theorem test_sel : v7 (.sel plain .b32 (.v 7) (.v 1) (.v 2) (.p 7)) (ops 5 6 0) = 5 ∧ v7 (.sel plain .b32 (.v 7) (.v 1) (.v 2) (.p 0)) (ops 5 6 0) = 6 := by
  decide +kernel

/-! Moves (06). -/
theorem test_mov : v7 (.mov plain .b32 (.v 7) (.imm 0xFF) 0) one = 0xFFFFFFFF := by decide +kernel
theorem test_rdsp : (thr (.rdsp plain (.v 7) (.sp 0)) two 1).rv 7 = 1 := by decide +kernel
theorem test_wrsp : (thr (.wrsp plain (.sp 0x19) (.v 1) 0) (ops 3 0 0) 0).frm = 3 := by decide +kernel
theorem test_plop : p3 (.plop plain 3 (.p 3) (.p 7) (.p 0)) one = true ∧ p3 (.plop plain 0 (.p 3) (.p 7) (.p 0)) one = false := by decide +kernel
theorem test_p2v : v7 (.p2v plain (.v 7)) (with0 one (fun th => th.wp 1 true)) = 0x82 := by decide +kernel
theorem test_v2p : (thr (.v2p plain (.v 1) (.v 2) 0) (ops 0xFF 0x05 0) 0).preds = 5 := by decide +kernel
theorem test_rdfirst : ((next (.rdfirst plain .b32 (.s 9) (.v 1)) (modTh { two with bundle := { wg := 0, lanes := [1, 2] } } 0 1 (fun th => th.wv 1 77))).map
    (fun t => (getGroup (getWg t 0) 0).ru 9)) = some 77 := by decide +kernel

/-! Floating point (03, 07). -/
theorem test_fadd : v7 (.fadd plain .f32 0 (.v 7) (.v 1) (.v 2) 0) (ops 0x3F800000 0x40000000 0) = 0x40400000 ∧
    v7 (.fadd plain .f32 0 (.v 7) (.v 1) (.v 2) 0) (ops 0x7F800000 0xFF800000 0) = 0x7FC00000 := by decide +kernel
theorem test_fsub : v7 (.fsub plain 0 (.v 7) (.v 1) (.v 2) 0) (ops 0x3F800000 0x3F800000 0) = 0 := by decide +kernel
theorem test_fmul : v7 (.fmul plain .f32 0 (.v 7) (.v 1) (.v 2) 0) (ops 0x40000000 0xC0400000 0) = 0xC0C00000 := by decide +kernel
theorem test_ffma : v7 (.ffma plain .f32 0 (.v 7) (.v 1) (.v 2) (.v 3)) (ops 0x3F800001 0x3F7FFFFE 0xBF800000) = 0xA8800000 ∧
    v7 (.ffma plain .f32 0 (.v 7) (.v 1) (.v 1) (.v 3)) (ops 0x5D800000 0 0xFB800000) = 0 := by decide +kernel
theorem test_fmin : v7 (.fmin plain .f32 (.v 7) (.v 1) (.v 2) 0) (ops 0 0x80000000 0) = 0x80000000 := by decide +kernel
theorem test_fmax : v7 (.fmax plain .f32 (.v 7) (.v 1) (.v 2) 0) (ops 0x7FC00000 0x3F800000 0) = 0x3F800000 := by decide +kernel
theorem test_fabs : v7 (.fabs plain .f32 (.v 7) (.v 1) 0) (ops 0xBF800000 0 0) = 0x3F800000 := by decide +kernel
theorem test_fneg : v7 (.fneg plain .f32 (.v 7) (.v 1) 0) (ops 0x7FC00000 0 0) = 0xFFC00000 := by decide +kernel
theorem test_fcmp : p3 (.fcmp plain 0 (.p 3) (.v 1) (.v 2) 0) (ops 0 0x80000000 0) = true ∧
    p3 (.fcmp plain 1 (.p 3) (.v 1) (.v 2) 0) (ops 0x7FC00000 0 0) = true := by decide +kernel
theorem test_fcls : v7 (.fcls plain .f32 (.v 7) (.v 1) 0) (ops 0x80000000 0 0) = 8 ∧ v7 (.fcls plain .f32 (.v 7) (.v 1) 0) (ops 0x7F800001 0 0) = 0x100 := by
  decide +kernel
theorem test_fdiv : (awaited (.fdiv plain 0 (.v 7) (.v 1) (.v 2) 0) (ops 0x3F800000 0x80000000 0)).1 = [0xFF800000] ∧
    (awaited (.fdiv plain 0 (.v 7) (.v 1) (.v 2) 0) (ops 0x40C00000 0x40000000 0)) = ([0x40400000], 0) := by decide +kernel
theorem test_fsqrt : (awaited (.fsqrt plain 0 (.v 7) (.v 1) 0) (ops 0x80000000 0 0)) = ([0x80000000], 0) ∧
    (awaited (.fsqrt plain 0 (.v 7) (.v 1) 0) (ops 0x40800000 0 0)) = ([0x40000000], 0) := by decide +kernel
theorem test_frcp : (awaited (.frcp plain (.v 7) (.v 1) 0) (ops 0x40000000 0 0)) = ([0x3F000000], 0) := by decide +kernel
theorem test_frsq : (awaited (.frsq plain (.v 7) (.v 1) 0) (ops 0x40800000 0 0)) = ([0x3F000000], 0) := by decide +kernel
theorem test_fexp2 : (awaited (.fexp2 plain (.v 7) (.v 1) 0) (ops 0x40400000 0 0)) = ([0x41000000], 0) := by decide +kernel
theorem test_flog2 : (awaited (.flog2 plain (.v 7) (.v 1) 0) (ops 0x41000000 0 0)) = ([0x40400000], 0) := by decide +kernel
theorem test_ftanh : (awaited (.ftanh plain (.v 7) (.v 1) 0) (ops 0xFF800000 0 0)) = ([0xBF800000], 0) := by decide +kernel
theorem test_frnd : v7 (.frnd plain 0 (.v 7) (.v 1) 0) (ops 0xBE800000 0 0) = 0x80000000 := by decide +kernel
theorem test_cvt : v7 (.cvt plain .f32 .i32 0 false (.v 7) (.v 1) (.v 0) 0) (ops 0xFFFFFFFD 0 0) = 0xC0400000 ∧
    v7 (.cvt plain .n32 .f32 0 false (.v 7) (.v 1) (.v 0) 0) (ops 0xC0400000 0 0) = 0 := by decide +kernel
theorem test_fdot2 : v7 (.fdot2 plain .f16x2 0 (.v 7) (.v 1) (.v 2) (.v 3)) (ops 0x40003C00 0x42003C00 0x3F800000) = 0x41000000 := by decide +kernel
/-- A full group with its first lanes' v1. -/
def group1 (l : List Word) : State := l.zipIdx.foldl (fun s x => modTh s 0 x.2 (fun th => th.wv 1 x.1)) whole
def blockIn : List Word := [0x3F800000, 0xBFC00000, 0, 0, 0x3DCCCCCD, 0, 0x3EA00000, 0x80000000]
theorem test_bxq : lanes (.bxq plain 1 (.v 7) (.v 1)) (group1 blockIn) 8 =
    [0x7FFE0008, 0x7FFE001C, 0x7FFE0000, 0x7FFE0000, 0x7FFE0002, 0x7FFE0000, 0x7FFE0005, 0x7FFE0010] := by decide +kernel
/-- An immediate has the type of the entry, f32 (02 R30, 07 R119): `#4` names element 0. -/
theorem test_bxd : v7 (.bxd plain 1 (.v 7) (.v 1) (.v 2) 0) (ops 0x7FFE0002 4 0) = 0x3E000000 ∧
    v7 (.bxd plain 1 (.v 7) (.v 1) (.v 2) 0) (ops 0x7FFE0010 7 0) = 0x80000000 ∧
    v7 (.bxd plain 1 (.v 7) (.v 1) (.imm 4) 0) (ops 0x7FFE0002 0 0) = v7 (.bxd plain 1 (.v 7) (.v 1) (.v 2) 0) (ops 0x7FFE0002 0 0) := by decide +kernel

/-! Lane exchange (07). -/
def ids : State := group1 ((List.range 32).map (fun u => BitVec.ofNat 32 (100 + u)))
theorem test_shfl : lanes (.shfl plain .b32 1 2 (.v 7) (.v 1) (.imm 4) 0) ids 17 =
    [104, 105, 106, 107, 108, 109, 110, 111, 112, 113, 114, 115, 112, 113, 114, 115, 120] := by decide +kernel
theorem test_qswap : lanes (.qswap plain .b32 2 (.v 7) (.v 1)) ids 4 = [103, 102, 101, 100] := by decide +kernel
theorem test_qbcast : lanes (.qbcast plain .b32 (.v 7) (.v 1) (.imm 6) 0) ids 6 = [102, 102, 102, 102, 106, 106] := by decide +kernel
theorem test_ballot : v7 (.ballot plain (.v 7) (.p 1)) (modTh whole 0 3 (fun th => th.wp 1 true)) = 8 := by decide +kernel
theorem test_vote : p3 (.vote plain 1 (.p 3) (.p 1)) (modTh whole 0 3 (fun th => th.wp 1 true)) = true ∧
    p3 (.vote plain 0 (.p 3) (.p 1)) (modTh whole 0 3 (fun th => th.wp 1 true)) = false := by decide +kernel
theorem test_match : lanes (.matchLanes plain .b32 (.v 7) (.v 1)) (group1 [5, 6, 5]) 3 = [5, 2, 5] := by decide +kernel
theorem test_scan : lanes (.scan plain .i32 0 0 (.v 7) (.v 1) 0) (group1 [1, 2, 3]) 4 = [1, 3, 6, 6] ∧
    lanes (.scan plain .i32 0 8 (.v 7) (.v 1) 0) (group1 [1, 2, 3]) 4 = [0, 1, 3, 6] := by decide +kernel
theorem test_redux : v7 (.redux plain .f32 0 6 (.v 7) (.v 1) 0) (group1 [0x4B800000, 0x3F800000, 0x3F800000]) = 0x4B800000 ∧
    v7 (.redux plain .f32 0 6 (.v 7) (.v 1) 0) (group1 [0x3F800000, 0x3F800000, 0x4B800000]) = 0x4B800001 := by decide +kernel
theorem test_elect : p3 (.elect plain (.p 3)) whole = true ∧ (thr (.elect plain (.p 3)) whole 1).rp 3 = false := by decide +kernel

/-! Control flow (04, 05). -/
theorem test_bra : (thr (.bra plain 77) one 0).npc = 77 := by decide +kernel
theorem test_call : (thr (.call plain (.v 7) 77) one 0).npc = 77 ∧ v7 (.call plain (.v 7) 77) one = 1 := by decide +kernel
theorem test_ret : (thr (.ret plain (.v 1)) (ops 9 0 0) 0).npc = 9 := by decide +kernel
theorem test_bra_past_text : trapped (.bra plain 87381) one = (0x0A, 0, 87381) := by decide +kernel
theorem test_exit : (thr (.exit plain) one 0).live = false := by decide +kernel
theorem test_meet : (thr (.meet plain 5) one 0).meet = 0x4000000000000005 ∧ (thr (.meetg plain (.imm 5) 0) one 0).meet = 0x8000000000000005 := by decide +kernel
theorem test_gset : (thr (.gset plain (.imm 5) 0) one 0).gpc = 5 := by decide +kernel

/-! Scratchpad and tags (08). -/
def bytes4 : State := withWg one (fun g => { g with data := [(16, 1), (17, 2), (18, 3), (19, 0x84)] })
theorem test_lds : awaited (.lds plain .n32 2 (.v 7) (.v 1) (.v 2) 4) (withV bytes4 0 [(1, 8), (2, 1)]) = ([0x84030201], 0) ∧
    awaited (.lds plain .i8 0 (.v 7) (.v 1) (.imm 0) 19) (withV bytes4 0 [(1, 0)]) = ([0xFFFFFF84], 0) := by decide +kernel
theorem test_sts : ((next (.sts plain .n16 0 (.v 1) (.v 2) (.imm 0) 0) (ops 0xABCD1234 16 0)).map (fun t => (getWg t 0).data)) = some [(16, 0x34), (17, 0x12)] := by
  decide +kernel
theorem test_lds_bounds : trapped (.lds plain .n32 0 (.v 7) (.v 1) (.imm 0) 0) (ops 0x700000 0 0) = (0x0A, 0x104, 0x700000) ∧
    trapped (.lds plain .n32 0 (.v 7) (.v 1) (.imm 0) 2) (ops 0 0 0) = (0x04, 0, 2) := by decide +kernel
/-- The table of the example of 08 R163 after its step 7. -/
def tagged : State := withWg one (fun g => { g with
  hdr := { g.hdr with tsets := 2 }
  tags := [(0, { v := true, key := 0x10, d := false, p := true, age := 3 }), (1, { v := true, key := 0x12, d := true, p := false, age := 2 }),
           (2, { v := true, key := 0x14, d := false, p := false, age := 0 }), (3, { v := true, key := 0x16, d := false, p := false, age := 1 })] })
theorem test_tins : ((next (.tins plain (.v 8) (.v 2) 0) (withV tagged 0 [(2, 0x18), (3, 0)])).map (fun t => ((thOf t 0 0).rv 8, (thOf t 0 0).rv 9,
    (getWg t 0).tags.map (fun x => (x.2.key, x.2.age))))) = some (0x12, 0xC0010000, [(0x10, 3), (0x18, 0), (0x14, 1), (0x16, 2)]) := by decide +kernel
theorem test_tlook : v7 (.tlook plain (.v 7) (.v 2) 0) (withV tagged 0 [(2, 0x16), (3, 0)]) = 3 ∧
    v7 (.tlook plain (.v 7) (.v 2) 0) (withV tagged 0 [(2, 0x1A), (3, 0)]) = 0x80000000 := by decide +kernel
/-- 01 R20: a set with an uncorrectable error. -/
theorem test_tag_error : trapped (.tlook plain (.v 7) (.v 2) 0) (withWg (withV tagged 0 [(2, 0x16), (3, 0)]) (fun g => { g with badTags := [0] })) =
    (0x15, 0, 0x16) := by decide +kernel

/-- The SHA-384 of "abc", from FIPS 180-4's examples: its first bytes, and its last. -/
theorem test_sha384 : (sha384 [0x61, 0x62, 0x63]).take 8 = [0xCB, 0x00, 0x75, 0x3F, 0x45, 0xA3, 0x5E, 0x8B] ∧
    (sha384 [0x61, 0x62, 0x63]).drop 44 = [0x34, 0xC8, 0x25, 0xA7] := by decide +kernel

/-! Barriers, the matrix array, traps (14, 15, 18). -/
theorem test_bexpect : ((next (.bexpect plain (.imm 0) (.imm 1) 0) two).map (fun t => (getBar (getWg t 0) 0).e)) = some 1 := by decide +kernel
theorem test_scacc : scaccElem 0 (-48) 127 128 (-8) false = 0xBEC00000 ∧ scaccElem 0x4B800000 256 126 128 (-8) false = 0x4B800000 ∧
    scaccElem 0x80000000 0 0 128 (-8) false = 0 ∧ scaccElem 0x40200000 0 0xFF 128 (-8) false = 0x7FC00000 := by decide +kernel
theorem test_trap : trapped (.trap plain (.imm 1) 0) one = (0x14, 1, 0) ∧ (thr (.trap plain (.imm 1) 0) one 0).tnpc = 0 := by decide +kernel
theorem test_rti : (thr (.rtiNext plain) (with0 one (fun th => { th with th := true, tsq := 9, tnpc := 9 })) 0).npc = 10 ∧
    (thr (.rtiRe plain) (with0 one (fun th => { th with th := true, tsq := 9, tnpc := 9 })) 0).npc = 9 := by decide +kernel
theorem test_region : (thr (.region plain) (with0 one (fun th => { th with npc := 5 })) 0).irs = 5 := by decide +kernel
theorem test_sleep : (thr (.sleep plain .lit 200) one 0).wait = .sleep 200 := by decide +kernel
end Sys2Proof.Tests
end

section
/-!
PROOFS. The clock: what performs, ends and answers requests leaves the count of core cycles, which only `elapse` and the resets change
(01 R12).
-/
namespace Sys2Proof.Machine

/-! ### Folds and branches -/

/-- A fold whose every step leaves the clock leaves it. -/
@[simp] theorem foldl_cyc {α : Type} {f : State → α → State} (h : ∀ s x, (f s x).cyc = s.cyc) (l : List α) (s : State) :
    (l.foldl f s).cyc = s.cyc := by
  induction l generalizing s with
  | nil => rfl
  | cons x l ih => exact (ih (f s x)).trans (h s x)

@[simp] theorem cyc_ite (p : Prop) [Decidable p] (s t : State) : (if p then s else t).cyc = if p then s.cyc else t.cyc :=
  apply_ite State.cyc p s t

@[simp] theorem fst_cyc_ite {β : Type} (p : Prop) [Decidable p] (x y : State × β) :
    (if p then x else y).1.cyc = if p then x.1.cyc else y.1.cyc := apply_ite (fun z : State × β => z.1.cyc) p x y

theorem fst_cyc_ite_of {β : Type} {p : Prop} [Decidable p] {x y : State × β} {n : Nat} (hx : x.1.cyc = n) (hy : y.1.cyc = n) :
    (if p then x else y).1.cyc = n := by
  split
  · exact hx
  · exact hy

section
variable (s : State)

/-! ### Memory and its buffers (10 R173 to R177) -/

@[simp] theorem memWriteBytes_cyc (pa : Nat) (bs : List Byte) : (memWriteBytes s pa bs).cyc = s.cyc := rfl
@[simp] theorem memWrite_cyc (pa n v : Nat) : (memWrite s pa n v).cyc = s.cyc := rfl
@[simp] theorem setUnscrubbed_cyc (g : Nat) (u : Bool) : (setUnscrubbed s g u).cyc = s.cyc := rfl
@[simp] theorem logError_cyc (pa : Nat) : (logError s pa).cyc = s.cyc := rfl
@[simp] theorem askHost_cyc (pa : Nat) (rs : List HostReq) : (askHost s pa rs).cyc = s.cyc := by simp [askHost]
@[simp] theorem sendBytes_cyc (p pa : Nat) (bs : List Byte) : (sendBytes s p pa bs).cyc = s.cyc := by simp [sendBytes]
@[simp] theorem countReads_cyc (pa n : Nat) : (countReads s pa n).cyc = s.cyc := by simp [countReads]
@[simp] theorem readFrom_cyc (p pa n : Nat) : (readFrom s p pa n).cyc = s.cyc := by simp [readFrom]
@[simp] theorem startClear_cyc (uns : Bool) (pa : Nat) : (startClear s uns pa).cyc = s.cyc := by simp [startClear]
@[simp] theorem flushHost_cyc (p scope : Nat) (ss : BitVec 4) : (flushHost s p scope ss).cyc = s.cyc := by simp [flushHost]

@[simp] theorem logDirty_cyc (c vgran : Nat) : (logDirty s c vgran).cyc = s.cyc := by
  unfold logDirty
  split <;> simp

@[simp] theorem sendComb_cyc (cl : Nat) (c : Comb) : (sendComb s cl c).cyc = s.cyc := by simp [sendComb]
@[simp] theorem sendCombs_cyc (cl : Nat) : (sendCombs s cl).cyc = s.cyc := by simp [sendCombs]
@[simp] theorem sendCombsAt_cyc (cl pa n : Nat) : (sendCombsAt s cl pa n).cyc = s.cyc := by simp [sendCombsAt]
@[simp] theorem writeLine_cyc (p pa : Nat) (bs : List Host.Cell) : (writeLine s p pa bs).cyc = s.cyc := by simp [writeLine]
@[simp] theorem performLine_cyc (core : Nat) (l : Line) (k : Nat) : (performLine s core l k).cyc = s.cyc := by simp [performLine]

@[simp] theorem performWhole_cyc (core : Nat) (l : Line) : (performWhole s core l).cyc = s.cyc := by
  refine foldl_cyc (fun t k => ?_) ..
  split <;> simp

@[simp] theorem performLines_cyc (core : Nat) (f : Line → Bool) : (performLines s core f).cyc = s.cyc :=
  foldl_cyc (fun t l => performWhole_cyc t core l) ..
@[simp] theorem promoteAll_cyc (p : Nat) : (promoteAll s p).cyc = s.cyc := by simp [promoteAll]
@[simp] theorem coreMeets_cyc (core p pa n : Nat) : (coreMeets s core p pa n).cyc = s.cyc := by simp [coreMeets]
@[simp] theorem countWalk_cyc (c die va : Nat) (n : Need) : (countWalk s c die va n).cyc = s.cyc := by simp [countWalk]
@[simp] theorem logPte_cyc (x : Xlat) : (logPte s x).cyc = s.cyc := by cases x <;> rfl

/-! ### Traps, reports and results -/

@[simp] theorem postEvent_cyc (p : Nat) (r : Report) : (postEvent s p r).cyc = s.cyc := by
  simp only [postEvent, modDev_cyc, modPart_cyc]
  split <;> simp

@[simp] theorem postDouble_cyc (p : Nat) (r : Report) : (postDouble s p r).cyc = s.cyc := rfl
@[simp] theorem launchFault_cyc (p : Nat) (raw : BitVec 1024) (status : Nat) (info : DWord) :
    (launchFault s p raw status info).cyc = s.cyc := postEvent_cyc ..
@[simp] theorem enterTrap_cyc (w t cause : Nat) (info addr : DWord) : (enterTrap s w t cause info addr).cyc = s.cyc := by simp [enterTrap]

@[simp] theorem captureTok_cyc (w t : Nat) (p : Pend) : (captureTok s w t p).cyc = s.cyc := by
  unfold captureTok
  split <;> simp

@[simp] theorem captureWhere_cyc (w t : Nat) (f : Pend → Bool) : (captureWhere s w t f).cyc = s.cyc := by simp [captureWhere]
@[simp] theorem dropEarly_cyc (w t tok : Nat) : (dropEarly s w t tok).cyc = s.cyc := by simp [dropEarly]
@[simp] theorem endEarly_cyc (w t : Nat) (all : Bool) : (endEarly s w t all).cyc = s.cyc := by simp [endEarly]

@[simp] theorem setReq_cyc (r : Req) : (setReq s r).cyc = s.cyc := rfl
@[simp] theorem dropReq_cyc (id : Nat) : (dropReq s id).cyc = s.cyc := rfl
@[simp] theorem answerTok_cyc (w tok : Nat) (bad : Bool) (f : LLSrc → List RegWrite) : (answerTok s w tok bad f).cyc = s.cyc := rfl
@[simp] theorem engineReq_cyc (o : Obj) (org : Origin) (w core : Nat) (kind : ReqKind) (held : Bool) :
    (engineReq s o org w core kind held).cyc = s.cyc := rfl

/-! ### Transitions (13 R213 to R217) -/

@[simp] theorem sendWakes_cyc (p : Nat) (what : Option Nat) (c : Nat) : (sendWakes s p what c).cyc = s.cyc := rfl
@[simp] theorem wakeRings_cyc (p : Nat) : (wakeRings s p).cyc = s.cyc :=
  foldl_cyc (fun t (c : Nat × Ctx) => sendWakes_cyc t p none c.1) ..
@[simp] theorem postEntry_cyc (p c : Nat) (raw : BitVec 1024) : (postEntry s p c raw).1.cyc = s.cyc := by simp [postEntry]
@[simp] theorem Obj.logged_cyc (o : Obj) : (o.logged s).cyc = s.cyc := by simp [Obj.logged]
@[simp] theorem Obj.write_cyc (o : Obj) (w0 w1 : Nat) : (o.write s w0 w1).cyc = s.cyc := by simp [Obj.write]

@[simp] theorem readEntry_cyc (o : Obj) (target : Nat) : (readEntry s o target).1.cyc = s.cyc := by
  simp only [readEntry]
  split
  · split <;> simp
  · simp

@[simp] theorem chainTarget_cyc (o : Obj) (target : Nat) : (chainTarget s o target).1.cyc = s.cyc := by
  simp only [chainTarget]
  split <;> simp

@[simp] theorem transition_cyc (o : Obj) (t : Nat) (x : DWord) (mode : TMode) : (transition s o t x mode).1.cyc = s.cyc := by
  unfold transition
  extract_lets chn s1 w target
  have h1 : s1.cyc = s.cyc := countReads_cyc ..
  split
  · exact h1
  split
  · exact h1
  extract_lets flt posted chained s2 old w1 wakes pay w0 s3 s4 ret
  have hposted : posted.1.cyc = s.cyc := fst_cyc_ite_of (by simp [h1]) h1
  have h2 : s2.cyc = s.cyc := fst_cyc_ite_of (by simp [hposted]) hposted
  have h4 : s4.cyc = s.cyc := by simp [s4, s3, h2]
  refine fst_cyc_ite_of h1 (fst_cyc_ite_of ?_ (fst_cyc_ite_of h1 ?_))
  · split
    · simp [h1]
    · exact h1
  split
  · exact h2
  · exact h2
  · refine fst_cyc_ite_of h2 (fst_cyc_ite_of h2 ?_)
    split
    · split <;> simp [h4]
    · split <;> exact h4

@[simp] theorem targetWaits_cyc (o : Obj) (id t : Nat) : (targetWaits s o id t).1.cyc = s.cyc := by
  unfold targetWaits
  split
  · rfl
  · split
    · rfl
    · split <;> simp

@[simp] theorem engineWaits_cyc (o : Obj) (t : Nat) : (engineWaits s o t).1.cyc = s.cyc := by simp [engineWaits]

/-! ### Answers (13 R213, R214) -/

@[simp] theorem settlePark_cyc (w k pa : Nat) (ts : List Nat) (sleep ring : Bool) : (settlePark s w k pa ts sleep ring).cyc = s.cyc := rfl
@[simp] theorem confirmUndo_cyc (w t tok : Nat) : (confirmUndo s w t tok).cyc = s.cyc := by
  simp only [confirmUndo, cyc_ite]
  rw [foldl_cyc (fun _ _ => modTh_cyc ..), ite_self]
@[simp] theorem takeBack_cyc (w t tok : Nat) : (takeBack s w t tok).cyc = s.cyc := by simp [takeBack]

@[simp] theorem answerThread_cyc (w k tok pa : Nat) (r : TOut) : (answerThread s w k tok pa r).cyc = s.cyc := by
  have hkept : ((tokThreads s w tok).foldl (fun s t => confirmUndo s w t tok) s).cyc = s.cyc := by simp
  have hback (f : Thread → Thread) : ((tokThreads s w tok).foldl (fun s t => modTh s w t f)
      ((tokThreads s w tok).foldl (fun s t => confirmUndo s w t tok) s)).cyc = s.cyc :=
    (foldl_cyc (fun _ _ => modTh_cyc ..) _ _).trans hkept
  cases r with
  | done | bad => exact hkept
  | park | full => exact hback _
  | fault => simp [answerThread]
  | chain => rfl

@[simp] theorem modChan_cyc (w c : Nat) (f : Channel → Channel) : (modChan s w c f).cyc = s.cyc := rfl
@[simp] theorem modCopy_cyc (w num : Nat) (f : Copy → Copy) : (modCopy s w num f).cyc = s.cyc := rfl
@[simp] theorem faultCopy_cyc (w : Nat) (c : Copy) (reason : Nat) (a : DWord) : (faultCopy s w c reason a).cyc = s.cyc := rfl

@[simp] theorem copyAnswer_cyc (w num : Nat) (ok : Bool) : (copyAnswer s w num ok).cyc = s.cyc := by
  unfold copyAnswer
  split <;> simp

@[simp] theorem entryAnswer_cyc (p : Nat) (raw : BitVec 1024) (status : Nat) (o : Obj) (t : Nat) (r : TOut) :
    (entryAnswer s p raw status o t r).cyc = s.cyc := by cases r <;> simp [entryAnswer]

@[simp] theorem modLink_cyc (num : Nat) (f : LinkOp → LinkOp) : (modLink s num f).cyc = s.cyc := rfl
@[simp] theorem linkAnswer_cyc (num : Nat) (ok : Bool) : (linkAnswer s num ok).cyc = s.cyc := rfl
@[simp] theorem putStream_cyc (x : Stream) : (putStream s x).cyc = s.cyc := rfl
@[simp] theorem transmit_cyc (die p : Nat) (k : Packet) : (transmit s die p k).cyc = s.cyc := rfl
@[simp] theorem sendNew_cyc (die : Nat) (x : Stream) (k : Packet) : (sendNew s die x k).cyc = s.cyc := by simp [sendNew]
@[simp] theorem respond_cyc (die : Nat) (x : Stream) (k : Packet) (reason : Nat) (bs : List Byte) :
    (respond s die x k reason bs).cyc = s.cyc := by simp [respond]
@[simp] theorem finishRemote_cyc (die p : Nat) (k : Packet) (reason : Nat) (bs : List Byte) :
    (finishRemote s die p k reason bs).cyc = s.cyc := by simp [finishRemote]

@[simp] theorem remoteAnswer_cyc (die dev ch opsn : Nat) (r : TOut) : (remoteAnswer s die dev ch opsn r).cyc = s.cyc := by
  unfold remoteAnswer
  split
  · rfl
  · cases r <;> simp

@[simp] theorem answerReq_cyc (r : Req) (o : Obj) (t : Nat) (out : TOut) : (answerReq s r o t out).cyc = s.cyc := by
  simp only [answerReq]
  split <;> simp

/-! ### Requests performed, and entries ended (11 R199, 13 R213, 17 R290) -/

/-- An outcome that leaves the clock, if the machine goes on. -/
def KeepsClock (r : Host.Outcome State Fault Refusal) : Prop := (nextOr s r).cyc = s.cyc

variable {s} in
theorem KeepsClock.next {t : State} (h : t.cyc = s.cyc) : KeepsClock s (.next t) := h

theorem execGranuleClearDone_keepsClock (g : Nat) : KeepsClock s (execGranuleClearDone g s) := by
  unfold execGranuleClearDone
  split <;> exact .next rfl

theorem execAtomicAtHome_keepsClock (k : Nat) : KeepsClock s (execAtomicAtHome k s) := by
  unfold execAtomicAtHome
  split
  · exact .next rfl
  split
  · split
    · exact .next rfl
    · refine .next ?_
      simp only [cyc_ite]
      rw [foldl_cyc (fun t l => answerTok_cyc t ..)]
      simp
  · exact .next rfl

@[simp] theorem releaseFirst_cyc (r : Req) (o : Obj) (t : Nat) : (releaseFirst s r o t).1.cyc = s.cyc := by simp [releaseFirst]

@[simp] theorem beforeTransition_cyc (r : Req) (o : Obj) (t : Nat) : (beforeTransition s r o t).1.cyc = s.cyc := by
  simp [beforeTransition]

theorem execStagedTransition_keepsClock (k : Nat) : KeepsClock s (execStagedTransition k s) := by
  unfold execStagedTransition
  split
  · exact .next rfl
  next r _ =>
    split
    · next t x va _ =>
      split
      · exact .next rfl
      extract_lets o q
      have hq : q.1.cyc = s.cyc := beforeTransition_cyc ..
      split
      · exact .next hq
      have ht := (transition_cyc q.1 o t x (if r.byThread then .thread else .engine)).trans hq
      split
      all_goals
        next h =>
        rw [h] at ht
        exact .next (by simpa using ht)
    · exact .next rfl

theorem execChainedTransition_keepsClock (k : Nat) : KeepsClock s (execChainedTransition k s) := by
  unfold execChainedTransition
  split
  · exact .next rfl
  next r _ =>
    split
    · next t x va first _ =>
      split
      · exact .next rfl
      extract_lets o q
      have hq : q.1.cyc = s.cyc := beforeTransition_cyc ..
      split
      · exact .next hq
      have ht := (transition_cyc q.1 o t x .chained).trans hq
      split
      all_goals
        next h =>
        rw [h] at ht
        exact .next (by simpa using ht)
    · exact .next rfl

@[simp] theorem performReqs_cyc : (performReqs s).cyc = s.cyc := by
  refine (foldl_cyc (fun t r => ?_) ..).trans (foldl_cyc (fun t g => execGranuleClearDone_keepsClock t g) ..)
  split
  · exact execAtomicAtHome_keepsClock ..
  · exact execStagedTransition_keepsClock ..
  · exact execChainedTransition_keepsClock ..

@[simp] theorem performAll_cyc : (performAll s).cyc = s.cyc := by simp [performAll]

@[simp] theorem completeFuture_cyc (p c : Nat) (raw : BitVec 1024) (status : Nat) : (completeFuture s p c raw status).cyc = s.cyc := by
  unfold completeFuture
  extract_lets f die out s1 x org
  have h1 : s1.cyc = s.cyc := countWalk_cyc ..
  split
  · rfl
  clear_value out
  split
  · extract_lets o q s2
    have h2 : s2.cyc = s.cyc := by simp [s2, q, h1]
    split
    · exact h2
    have ht := (transition_cyc s2 o f.ctrans x .engine).trans h2
    split
    all_goals
      next h =>
      rw [h] at ht
      simpa using ht
  · simp [h1]

/-- Taking the entry that is presented next leaves the clock. -/
theorem takeSource_cyc {p : Nat} {x : Source} {t : State} {o : Offer} (h : takeSource s p x = some (t, o)) : t.cyc = s.cyc := by
  cases x with
  | store | spill | migrant =>
    simp only [takeSource] at h
    split at h
    · cases h
    · cases h
      simp
  | slot k =>
    simp only [takeSource] at h
    split at h
    · cases h
    · split at h
      · cases h
        rfl
      · cases h

theorem endPendings_cyc (n p : Nat) : (endPendings n s p).cyc = s.cyc := by
  induction n generalizing s with
  | zero => rfl
  | succ n ih =>
    rw [endPendings]
    split
    · next t o h =>
      obtain ⟨x, -, hx⟩ := Option.bind_eq_some_iff.mp h
      rw [ih, performReqs_cyc, completeFuture_cyc, takeSource_cyc s hx]
    · split
      · rfl
      · rw [ih, performReqs_cyc]

@[simp] theorem endAll_cyc (p : Nat) : (endAll s p).cyc = s.cyc :=
  (endPendings_cyc ..).trans (foldl_cyc (fun _ _ => completeFuture_cyc ..) ..)

end
end Sys2Proof.Machine
end

section
/-!
PROOFS. Resets and bring-up (01 R14 to R16, R18): what the machine is after them.
-/
namespace Sys2Proof.Machine
open Sys2Proof.Claims

/-! ### Cold reset -/

/-- Every register of the device control page reads 0 after cold reset, those of the mailbox because the device is not in phase 2. -/
theorem readRegister_reset (ofs : Nat) : readRegister State.reset ofs = 0 := by
  have hsts : pkgSts Dev.reset = 0 := rfl
  have hfw : fwSts Dev.reset = 0 := rfl
  unfold readRegister
  split
  · exact hsts
  · split
    · exact hfw
    · rfl

/-- Each of the four partitions is one that is not set up. -/
theorem getPart_reset (p : Nat) : ∃ e, getPart State.reset p = Part.empty e :=
  match p with
  | 0 | 1 | 2 | 3 | _ + 4 => ⟨_, rfl⟩

theorem inv_reset : Inv State.reset where
  mem := reset_mem_wf
  parts := rfl
  cores := rfl
  wgs := fun _ h => absurd h List.not_mem_nil
  moving := fun _ h => absurd h List.not_mem_nil
  copied := fun _ h => absurd h List.not_mem_nil
  lanes := List.Pairwise.nil

/-- Settles O58: every map and list of the state after cold reset is empty, but the four partitions. -/
theorem resetInvariant : Obligations.ResetInvariant := inv_reset

/-- Settles O60: field by field, the registers by `readRegister_reset` and the partitions by `getPart_reset`. -/
theorem resetValues : Obligations.ResetValues := by
  refine ⟨readRegister_reset, rfl, rfl, rfl, rfl, rfl, rfl, rfl, rfl, rfl, fun _ => rfl, fun _ => rfl, fun p => ?_, fun p _ => ?_,
    fun _ => rfl⟩
  · obtain ⟨e, he⟩ := getPart_reset p
    rw [he]
    exact ⟨rfl, rfl, rfl⟩
  · obtain ⟨e, he⟩ := getPart_reset p
    rw [he]
    rfl

/-! ### Resets -/

theorem exec_coldReset (s : State) : exec .coldReset s = execColdReset s := rfl
theorem exec_warmReset (s : State) : exec .warmReset s = execWarmReset s := rfl
theorem exec_bringUpPhase (ok : Bool) (volts : List Nat) (s : State) : exec (.bringUpPhase ok volts) s = execBringUpPhase ok volts s := rfl

theorem cleared_clearAll (s : State) (d : Dev) (cyc : Nat) : Cleared s (clearAll s d cyc) d cyc :=
  ⟨fun k => Config.epochDraw (s.fresh + k) % 65535 + 1, fun _ => ⟨Nat.succ_pos _, Nat.succ_lt_succ (Nat.mod_lt _ (by decide))⟩, rfl⟩

theorem certificates_eq_certsOf (n : Nat) : certificates n = certsOf n := rfl

theorem takesReset_iff (d : Dev) : takesReset d = true ↔ TakesReset d := by
  unfold takesReset TakesReset
  cases d.tripped with
  | true => simp
  | false =>
    by_cases h : d.phase = 2
    · cases ha : d.hfailA <;> simp [h]
    · simp [h]

/-- A device that is not held after a trip goes on with bring-up; in phase 5 every granule becomes unscrubbed. -/
theorem exec_bringUpPhase_of_not_tripped {s : State} (h : s.dev.tripped = false) (h5 : s.dev.phase ≠ 5) (ok : Bool) (volts : List Nat) :
    exec (.bringUpPhase ok volts) s = .next (withDev s (nextPhase s.dev ok volts)) := by
  rw [exec_bringUpPhase, execBringUpPhase, h, if_neg Bool.false_ne_true, if_neg h5]
  rfl

theorem exec_bringUpPhase_of_phase_five {s : State} (h : s.dev.tripped = false) (h5 : s.dev.phase = 5) (ok : Bool) (volts : List Nat) :
    exec (.bringUpPhase ok volts) s = .next { s with
      unsAll := true, unsEx := [], dev := nextPhase s.dev ok volts } := by
  rw [exec_bringUpPhase, execBringUpPhase, h, if_neg Bool.false_ne_true, if_pos h5]
  rfl

section
variable {d : Dev} (ok : Bool) (volts : List Nat)

theorem nextPhase_of_phase_zero (h : d.phase = 0) : nextPhase d ok volts = { d with phase := 1 } := by
  simp only [nextPhase, h]

theorem nextPhase_of_phase_one (h : d.phase = 1) : nextPhase d ok volts = { d with phase := 2 } := by
  simp only [nextPhase, h]

theorem nextPhase_of_phase_two (h : d.phase = 2) : nextPhase d ok volts = leaveBoot d ok := by
  simp only [nextPhase, h]

theorem nextPhase_of_phase_three (h : d.phase = 3) : nextPhase d ok volts =
    if d.volts.any (· != 0) then { d with phase := 4 }
    else if volts.length = 4 ∧ volts.all (· != 0) then { d with phase := 4, volts := volts } else d := by
  simp only [nextPhase, h]

theorem nextPhase_of_phase_four (h : d.phase = 4) : nextPhase d ok volts =
    if d.fail then d else if ok then { d with phase := 5 } else { d with fail := true } := by
  simp only [nextPhase, h]

theorem nextPhase_of_phase_five (h : d.phase = 5) : nextPhase d ok volts =
    { d with phase := 6, acth := bootHearth d, fwver := (Config.bootVersions d.keyGen).1 % 2 ^ 16
             stver := (Config.bootVersions d.keyGen).2 % 2 ^ 8 } := by
  simp only [nextPhase, h]

theorem nextPhase_of_phase_ge_six (h : 6 ≤ d.phase) : nextPhase d ok volts = d := by
  obtain ⟨n, hn⟩ := Nat.exists_eq_add_of_le' h
  simp only [nextPhase, hn]

/-- Without a Hearth to boot from the device stays in phase 2. -/
theorem leaveBoot_of_no_hearth (ha : d.hfailA = true) (hb : d.hfailB = true) : leaveBoot d ok = d := by
  simp [leaveBoot, ha, hb]

theorem leaveBoot_of_hearth (h : d.hfailA = false ∨ d.hfailB = false) : leaveBoot d ok =
    if d.mailbox.state = 4 then { d with phase := 3, sigFail := false }
    else if d.sigFail then d
    else if ok then { d with phase := 3 }
    else { d with sigFail := true, mailbox := { Recovery.reset with state := 1 } } := by
  have hboth : (d.hfailA && d.hfailB) = false := Bool.and_eq_false_iff.mpr h
  rw [leaveBoot, if_neg (by simp [hboth])]

end

/-- Settles O45: a reset is `clearAll`; a phase of bring-up is `nextPhase`, which the lemmas above give for each phase. -/
theorem resetAndBringUpResults : Obligations.ResetAndBringUpResults := by
  intro s
  refine ⟨⟨_, exec_coldReset s, cleared_clearAll ..⟩, fun h => ?warm, fun h => ?keeps, fun ht ok volts => ?phases⟩
  case warm =>
    refine ⟨_, ?_, cleared_clearAll ..⟩
    rw [exec_warmReset, execWarmReset, (takesReset_iff s.dev).mpr h]
    rfl
  case keeps =>
    have hno : takesReset s.dev = false := by rw [← Bool.not_eq_true, takesReset_iff]; exact h
    rw [exec_warmReset, execWarmReset, hno]
    rfl
  case phases =>
    have go (d : Dev) (h5 : s.dev.phase ≠ 5) (hd : nextPhase s.dev ok volts = d) :
        exec (.bringUpPhase ok volts) s = .next (withDev s d) := by
      rw [exec_bringUpPhase_of_not_tripped ht h5, hd]
    refine ⟨fun h => go _ (by omega) (nextPhase_of_phase_zero ok volts h), fun h => go _ (by omega) (nextPhase_of_phase_one ok volts h),
      fun h ha hb => go _ (by omega) ?_, fun h hab => ⟨fun hm => go _ (by omega) ?_, fun hm hs => go _ (by omega) ?_,
      fun hm hs hok => go _ (by omega) ?_, fun hm hs hok => go _ (by omega) ?_⟩, fun h hv => go _ (by omega) ?_,
      fun h hv hl hn => go _ (by omega) ?_, fun h hf => go _ (by omega) ?_, fun h hf => go _ (by omega) ?_, fun h => ?_,
      fun h => go _ (by omega) (nextPhase_of_phase_ge_six ok volts h)⟩
    · rw [nextPhase_of_phase_two ok volts h, leaveBoot_of_no_hearth ok ha hb]
    · rw [nextPhase_of_phase_two ok volts h, leaveBoot_of_hearth ok hab, if_pos hm]
    · rw [nextPhase_of_phase_two ok volts h, leaveBoot_of_hearth ok hab, if_neg hm, if_pos hs]
    · rw [nextPhase_of_phase_two ok volts h, leaveBoot_of_hearth ok hab, if_neg hm, if_neg (by simp [hs]), if_pos hok]
    · rw [nextPhase_of_phase_two ok volts h, leaveBoot_of_hearth ok hab, if_neg hm, if_neg (by simp [hs]), if_neg (by simp [hok])]
    · rw [nextPhase_of_phase_three ok volts h, if_pos (by simpa using hv)]
    · rw [nextPhase_of_phase_three ok volts h, if_neg (by simpa using hv), if_pos ⟨hl, by simpa using hn⟩]
    · rw [nextPhase_of_phase_four ok volts h, if_neg (by simp [hf])]
    · rw [nextPhase_of_phase_four ok volts h, if_pos hf]
    · rw [exec_bringUpPhase_of_phase_five ht h, nextPhase_of_phase_five ok volts h]
      exact ⟨_, _, Nat.mod_lt _ (by decide), Nat.mod_lt _ (by decide), rfl⟩

end Sys2Proof.Machine
end

section
/-!
PROOFS. The recovery mailbox and the registers of the device control page (22 R353, R355, R356, 01 R19).
-/
namespace Sys2Proof.Machine
open Sys2Proof.Claims

/-! ### The recovery mailbox -/

section
variable (s : State)
theorem exec_piece : exec .piece s = execPiece s := rfl
theorem exec_start : exec .start s = execStart s := rfl
theorem exec_abort : exec .abort s = execAbort s := rfl
theorem exec_recoveryPieceCopied : exec .recoveryPieceCopied s = execRecoveryPieceCopied s := rfl
theorem exec_recoveryVerifyDone : exec .recoveryVerifyDone s = execRecoveryVerifyDone s := rfl
theorem exec_registerWrite (ofs : Nat) (v : Word) : exec (.registerWrite ofs v) s = execRegisterWrite ofs v s := rfl
end

theorem mailboxActive_iff (s : State) : mailboxActive s.dev = true ↔ Mailbox s := by
  simp [mailboxActive, Mailbox]

theorem modMailbox_of_mailbox {s : State} (h : Mailbox s) (f : Recovery → Recovery) :
    modMailbox s f = withMailbox s (f s.dev.mailbox) := if_pos ((mailboxActive_iff s).mpr h)

theorem modMailbox_of_not_mailbox {s : State} (h : ¬ Mailbox s) (f : Recovery → Recovery) : modMailbox s f = s :=
  if_neg (mt (mailboxActive_iff s).mp h)

theorem rangeFrom_eq_range' (a n : Nat) : rangeFrom a n = List.range' a n := by
  induction n generalizing a with
  | zero => rfl
  | succ n ih => rw [rangeFrom, ih, List.range'_succ]

theorem rangeFrom_zero_eq_range (n : Nat) : rangeFrom 0 n = List.range n := by
  rw [rangeFrom_eq_range', List.range_eq_range']

/-- The check of `execPiece` is that of R356. -/
theorem pieceOk_iff (m : Recovery) : PieceOk m ↔
    ¬ (m.rofs.toNat % 4 ≠ 0 ∨ m.rlen.toNat % 4 ≠ 0 ∨ m.rlen.toNat < 4 ∨ m.rlen.toNat > 2048 ∨
      m.rofs.toNat + m.rlen.toNat > imageBytes) := by
  simp only [PieceOk, imageBytes]
  omega

/-- The check of `execStart` is that of R356: a length that is not 0 and divides by 4 is at least 4. -/
theorem lengthOk_iff (m : Recovery) : LengthOk m ↔
    ¬ (m.rtot = 0 ∨ m.rtot.toNat % 4 ≠ 0 ∨ m.rtot.toNat > imageBytes) := by
  have h0 : m.rtot = 0 ↔ m.rtot.toNat = 0 := by rw [← BitVec.toNat_inj]; rfl
  simp only [LengthOk, imageBytes, h0]
  omega

theorem bytes_eq_uploaded (m : Recovery) : m.bytes = uploaded m := by
  rw [Recovery.bytes, rangeFrom_zero_eq_range, uploaded]

section
variable {s : State} (h : Mailbox s)
include h

theorem exec_piece_of_ok (h1 : s.dev.mailbox.state = 1) (hok : PieceOk s.dev.mailbox) :
    exec .piece s = .next (withMailbox s { s.dev.mailbox with state := 2, err := 0 }) := by
  rw [exec_piece, execPiece, modMailbox_of_mailbox h, if_neg (not_not_intro h1), if_neg ((pieceOk_iff _).mp hok)]

theorem exec_piece_of_not_ok (h1 : s.dev.mailbox.state = 1) (hbad : ¬ PieceOk s.dev.mailbox) :
    exec .piece s = .next (withMailbox s { s.dev.mailbox with state := 5, err := 1 }) := by
  rw [exec_piece, execPiece, modMailbox_of_mailbox h, if_neg (not_not_intro h1), if_pos (Classical.not_not.mp (mt (pieceOk_iff _).mpr hbad))]
  rfl

theorem exec_start_of_ok (h1 : s.dev.mailbox.state = 1) (hok : LengthOk s.dev.mailbox) :
    exec .start s = .next (withMailbox s { s.dev.mailbox with state := 3, err := 0 }) := by
  rw [exec_start, execStart, modMailbox_of_mailbox h, if_neg (not_not_intro h1), if_neg ((lengthOk_iff _).mp hok)]

theorem exec_start_of_not_ok (h1 : s.dev.mailbox.state = 1) (hbad : ¬ LengthOk s.dev.mailbox) :
    exec .start s = .next (withMailbox s { s.dev.mailbox with state := 5, err := 2 }) := by
  rw [exec_start, execStart, modMailbox_of_mailbox h, if_neg (not_not_intro h1), if_pos (Classical.not_not.mp (mt (lengthOk_iff _).mpr hbad))]
  rfl

theorem exec_abort_of_mailbox :
    exec .abort s = .next (withMailbox s { s.dev.mailbox with state := 1, err := 0, image := [] }) := by
  rw [exec_abort, execAbort, modMailbox_of_mailbox h]

/-- A well-formed piece lies in the buffer, so all of it is copied. -/
theorem exec_recoveryPieceCopied_of_ok (h2 : s.dev.mailbox.state = 2) (hok : PieceOk s.dev.mailbox) :
    exec .recoveryPieceCopied s = .next (withMailbox s { s.dev.mailbox with
      state := 1
      image := SMap.setMany 0 s.dev.mailbox.image s.dev.mailbox.rofs.toNat
        ((List.range s.dev.mailbox.rlen.toNat).map (SMap.get 0 s.dev.mailbox.window)) }) := by
  obtain ⟨_, _, _, _, hfits⟩ := hok
  have hall : min s.dev.mailbox.rlen.toNat (imageBytes - s.dev.mailbox.rofs.toNat) = s.dev.mailbox.rlen.toNat :=
    Nat.min_eq_left (by rw [imageBytes]; omega)
  rw [exec_recoveryPieceCopied, execRecoveryPieceCopied, modMailbox_of_mailbox h, if_neg (not_not_intro h2), hall, rangeFrom_zero_eq_range]

theorem exec_recoveryVerifyDone_of_mailbox (h3 : s.dev.mailbox.state = 3) :
    exec .recoveryVerifyDone s = .next (withMailbox s
      (if Config.imageHeaderOk (uploaded s.dev.mailbox) = false then { s.dev.mailbox with state := 5, err := 5, image := [] }
       else if Config.ecdsaOk (uploaded s.dev.mailbox) = false then { s.dev.mailbox with state := 5, err := 3, image := [] }
       else if Config.lmsOk (uploaded s.dev.mailbox) = false then { s.dev.mailbox with state := 5, err := 4, image := [] }
       else { s.dev.mailbox with state := 4, err := 0 })) := by
  rw [exec_recoveryVerifyDone, execRecoveryVerifyDone, modMailbox_of_mailbox h, if_neg (not_not_intro h3)]
  simp only [bytes_eq_uploaded, Recovery.failWith, Bool.not_eq_true']

end

/-- Each command and event of the mailbox is a `modMailbox`, which does nothing while the mailbox is not active. -/
theorem mailbox_step_of_not_mailbox {s : State} (h : ¬ Mailbox s) {i : Instr}
    (hi : i ∈ [Instr.piece, .start, .abort, .recoveryPieceCopied, .recoveryVerifyDone]) : exec i s = .next s := by
  have hoff := modMailbox_of_not_mailbox h
  simp only [List.mem_cons, List.not_mem_nil, or_false] at hi
  obtain rfl | rfl | rfl | rfl | rfl := hi
  · rw [exec_piece, execPiece, hoff]
  · rw [exec_start, execStart, hoff]
  · rw [exec_abort, execAbort, hoff]
  · rw [exec_recoveryPieceCopied, execRecoveryPieceCopied, hoff]
  · rw [exec_recoveryVerifyDone, execRecoveryVerifyDone, hoff]

/-- The part of O47 on the mailbox: a clause for each lemma above. -/
theorem recoveryResults : RecoveryResults := fun _ =>
  ⟨fun h _ hi => mailbox_step_of_not_mailbox h hi, fun h =>
    ⟨exec_piece_of_ok h, exec_piece_of_not_ok h, exec_start_of_ok h, exec_start_of_not_ok h, exec_abort_of_mailbox h,
      exec_recoveryPieceCopied_of_ok h, exec_recoveryVerifyDone_of_mailbox h⟩⟩

/-! ### The registers of the device control page -/

theorem pcieAnswers_iff (d : Dev) : pcieAnswers d = true ↔ 1 ≤ d.phase ∨ d.tripped = true := by
  simp [pcieAnswers]

theorem registerWrite_of_no_answer {s : State} (h : pcieAnswers s.dev = false) (ofs : Nat) (v : Word) :
    exec (.registerWrite ofs v) s = .next s := by
  rw [exec_registerWrite, execRegisterWrite, h]
  rfl

theorem readPage_of_no_answer {s : State} (h : pcieAnswers s.dev = false) (fn ofs : Nat) : readPage s fn ofs = none := by
  rw [readPage, h]
  rfl

/-- The control page of a partition reads as 0, where the functions answer. -/
theorem readPage_of_partition {s : State} (h : pcieAnswers s.dev = true) (p ofs : Nat) : readPage s (p + 1) ofs = some 0 := by
  rw [readPage, h]
  rfl

theorem bit_toNat {w : Nat} (v : BitVec w) (k : Nat) : bit v.toNat k = v.getLsbD k := by
  rw [bit, ← BitVec.testBit_toNat, Nat.testBit_eq_decide_div_mod_eq]
  rfl

/-- The low 12 bits of a word. -/
theorem ofNat_mod_eq_and_mask (v : Word) : BitVec.ofNat 32 (v.toNat % 2 ^ 12) = v &&& 0xFFF := by
  apply BitVec.eq_of_toNat_eq
  have hmask : v.toNat &&& (2 ^ 12 - 1) = v.toNat % 2 ^ 12 := Nat.and_two_pow_sub_one_eq_mod ..
  have hlt : v.toNat % 2 ^ 12 < 2 ^ 32 := by omega
  rw [BitVec.toNat_ofNat, BitVec.toNat_and, Nat.mod_eq_of_lt hlt, ← hmask]
  rfl

/-- The little-endian bytes of a word are its octets. -/
theorem leBytes_toNat {w : Nat} (n : Nat) (v : BitVec w) :
    leBytes n v.toNat = (List.range n).map (fun j => v.extractLsb' (8 * j) 8) := by
  apply List.ext_getElem (by simp [leBytes_length])
  intro j hj _
  have hj : j < n := by rwa [leBytes_length] at hj
  have hbyte := leBytes_getD n v.toNat j hj 0
  rw [List.getD_eq_getElem?_getD, List.getElem?_eq_getElem (by rwa [leBytes_length]), Option.getD_some] at hbyte
  rw [hbyte, List.getElem_map, List.getElem_range]
  apply BitVec.eq_of_toNat_eq
  rw [BitVec.toNat_ofNat, BitVec.extractLsb'_toNat, Nat.shiftRight_eq_div_pow, Nat.pow_mul]

/-- What acknowledging the warnings leaves of the four bits of the compute dies. -/
theorem ackWarnings_twarn_getLsbD (d : Dev) (v : Word) {k : Nat} (hk : k < 4) :
    (ackWarnings d v).twarn.getLsbD k = (d.twarn.getLsbD k && !v.getLsbD (20 + k)) := by
  simp [ackWarnings, hk]

section
variable {s : State} (h : pcieAnswers s.dev = true)
include h

/-- Where the functions answer, the offset says what a write does. -/
theorem registerWrite_of_answers (ofs : Nat) (v : Word) : exec (.registerWrite ofs v) s =
    if ofs = 0x40 then .next (withDev s (ackWarnings s.dev v))
    else if ofs = 0x700 then
      (if v.toNat % 4 = 1 then exec .piece s else if v.toNat % 4 = 2 then exec .start s
       else if v.toNat % 4 = 3 then exec .abort s else .next s)
    else if ofs = 0x708 then .next (modMailbox s (fun r => { r with rofs := v }))
    else if ofs = 0x70C then .next (modMailbox s (fun r => { r with rlen := v &&& 0xFFF }))
    else if ofs = 0x710 then .next (modMailbox s (fun r => { r with rtot := v }))
    else if 0x800 ≤ ofs ∧ ofs < 0x1000 ∧ ofs % 4 = 0 then .next (modMailbox s (fun r => { r with
      window := SMap.setMany 0 r.window (ofs - 0x800) ((List.range 4).map (fun j => v.extractLsb' (8 * j) 8)) }))
    else .next s := by
  rw [exec_registerWrite, execRegisterWrite, h, ← ofNat_mod_eq_and_mask, ← leBytes_toNat]
  match v.toNat % 4, Nat.mod_lt v.toNat (show 0 < 4 by decide) with
  | 0, _ | 1, _ | 2, _ | 3, _ => rfl

theorem registerWrite_status (v : Word) : exec (.registerWrite 0x40 v) s = .next (withDev s (ackWarnings s.dev v)) :=
  (registerWrite_of_answers h 0x40 v).trans rfl

theorem registerWrite_command (v : Word) : exec (.registerWrite 0x700 v) s =
    if v.toNat % 4 = 1 then exec .piece s else if v.toNat % 4 = 2 then exec .start s
    else if v.toNat % 4 = 3 then exec .abort s else .next s :=
  (registerWrite_of_answers h 0x700 v).trans rfl

/-- The three registers of the mailbox hold what is written. -/
theorem registerWrite_mailbox_registers (hm : Mailbox s) (v : Word) :
    exec (.registerWrite 0x708 v) s = .next (withMailbox s { s.dev.mailbox with rofs := v }) ∧
    exec (.registerWrite 0x70C v) s = .next (withMailbox s { s.dev.mailbox with rlen := v &&& 0xFFF }) ∧
    exec (.registerWrite 0x710 v) s = .next (withMailbox s { s.dev.mailbox with rtot := v }) := by
  simp [registerWrite_of_answers h, modMailbox_of_mailbox hm]

/-- The window takes a word at each of its 512 places. -/
theorem registerWrite_window (hm : Mailbox s) (v : Word) {k : Nat} (hk : k < 512) :
    exec (.registerWrite (0x800 + 4 * k) v) s = .next (withMailbox s { s.dev.mailbox with
      window := SMap.setMany 0 s.dev.mailbox.window (4 * k) ((List.range 4).map (fun j => v.extractLsb' (8 * j) 8)) }) := by
  rw [registerWrite_of_answers h, if_neg (by omega), if_neg (by omega), if_neg (by omega), if_neg (by omega), if_neg (by omega),
    if_pos (by omega), modMailbox_of_mailbox hm, Nat.add_sub_cancel_left]

/-- Without the mailbox only PKG_STS and RCTL take a write. -/
theorem registerWrite_of_not_mailbox (hm : ¬ Mailbox s) (v : Word) {ofs : Nat} (h1 : ofs ≠ 0x40) (h2 : ofs ≠ 0x700) :
    exec (.registerWrite ofs v) s = .next s := by
  simp only [registerWrite_of_answers h, if_neg h1, if_neg h2, modMailbox_of_not_mailbox hm, ite_self]

theorem registerWrite_of_no_register (v : Word) {ofs : Nat} (hreg : ofs ∉ [0x40, 0x700, 0x708, 0x70C, 0x710])
    (hwin : ¬ (0x800 ≤ ofs ∧ ofs < 0x1000 ∧ ofs % 4 = 0)) : exec (.registerWrite ofs v) s = .next s := by
  simp only [List.mem_cons, List.not_mem_nil, or_false, not_or] at hreg
  obtain ⟨h1, h2, h3, h4, h5⟩ := hreg
  rw [registerWrite_of_answers h, if_neg h1, if_neg h2, if_neg h3, if_neg h4, if_neg h5, if_neg hwin]

end

/-- The part of O47 on the registers: a clause for each lemma above. -/
theorem registerWriteResults : RegisterWriteResults := by
  intro s v
  refine ⟨fun hno ofs fn => ?_, fun hans => ?_⟩
  · have hno : pcieAnswers s.dev = false := by rw [← Bool.not_eq_true, pcieAnswers_iff]; exact hno
    exact ⟨registerWrite_of_no_answer hno ofs v, readPage_of_no_answer hno fn ofs⟩
  · have h : pcieAnswers s.dev = true := (pcieAnswers_iff s.dev).mpr hans
    have hcmd := registerWrite_command h v
    refine ⟨readPage_of_partition h, ⟨_, registerWrite_status h v, fun k hk => ackWarnings_twarn_getLsbD s.dev v hk,
        congrArg (s.dev.twio && !·) (bit_toNat v 19), congrArg (s.dev.vwarn && !·) (bit_toNat v 18),
        congrArg (s.dev.pwarn && !·) (bit_toNat v 17), rfl⟩,
      fun hc => hcmd.trans (by rw [hc]; rfl), fun hc => hcmd.trans (by rw [hc]; rfl), fun hc => hcmd.trans (by rw [hc]; rfl),
      fun hc => hcmd.trans (by rw [hc]; rfl), fun hm => ?_,
      fun _ h1 h2 hm => registerWrite_of_not_mailbox h hm v h1 h2, fun _ => registerWrite_of_no_register h v⟩
    obtain ⟨hrofs, hrlen, hrtot⟩ := registerWrite_mailbox_registers h hm v
    exact ⟨hrofs, hrlen, hrtot, fun _ => registerWrite_window h hm v⟩

/-- Settles O47: the mailbox and the registers, each part a theorem above. -/
theorem recoveryAndRegisterResults : Obligations.RecoveryAndRegisterResults := ⟨recoveryResults, registerWriteResults⟩

end Sys2Proof.Machine
end

section
/-!
PROOFS. Samples and trips (01 R17, R18, R20).
-/
namespace Sys2Proof.Machine
open Sys2Proof.Claims

/-! ### Samples -/

section
variable (x : Sample) (n : Nat)

theorem hotter_iff_mem_temps : hotter x n ↔ ∃ k ∈ Sample.temps x, n ≤ k := by
  simp [hotter, Sample.temps, or_and_right, exists_or, or_comm]

theorem offBy_iff_mem_volts : offBy x n ↔ ∃ k ∈ Sample.volts x, n < k := by
  simp [offBy, Sample.volts, or_and_right, exists_or, or_comm]

theorem temps_any_iff : (Sample.temps x).any (· ≥ n) = true ↔ hotter x n := by
  simp [hotter_iff_mem_temps]

theorem volts_any_iff : (Sample.volts x).any (· > n) = true ↔ offBy x n := by
  simp [offBy_iff_mem_volts]

/-- A number is at most the maximum of a list and `a` when it is at most one of them. -/
theorem le_foldl_max_iff (l : List Nat) (a : Nat) : n ≤ l.foldl max a ↔ n ≤ a ∨ ∃ k ∈ l, n ≤ k := by
  induction l generalizing a with
  | nil => simp
  | cons b l ih =>
    have hmax : n ≤ max a b ↔ n ≤ a ∨ n ≤ b := by omega
    simp only [List.foldl_cons, ih, hmax, List.mem_cons, exists_eq_or_imp, or_assoc]

/-- The highest temperature of a sample. -/
theorem le_foldl_max_temps_iff : n ≤ (Sample.temps x).foldl max 0 ↔ hotter x n := by
  rw [le_foldl_max_iff, hotter_iff_mem_temps, or_iff_right_of_imp]
  intro h0
  exact ⟨x.ioTemp, by simp [Sample.temps], by omega⟩

end

/-- Below 105 degrees the register of the highest temperature is not at its limit. -/
theorem le_maxt_iff {x : Sample} (h : ¬ hotter x 105) (d : Dev) (n : Nat) : n ≤ (sampleBits d x).maxt ↔ hotter x n := by
  have hlt : ¬ 105 ≤ (Sample.temps x).foldl max 0 := mt (le_foldl_max_temps_iff x 105).mp h
  rw [← le_foldl_max_temps_iff, sampleBits, Nat.min_eq_right (by omega)]

/-- Setting one of four bits, where a test says so. -/
theorem getLsbD_ite_setBit (w : BitVec 4) (p : Prop) [Decidable p] {j k : Nat} (hk : k < 4) :
    (if p then w ||| (1#4 <<< j) else w).getLsbD k = (w.getLsbD k || (decide p && decide (j = k))) := by
  by_cases hp : p
  · have hbit : (1#4 <<< j).getLsbD k = decide (j = k) := by
      rw [BitVec.getLsbD_shiftLeft, BitVec.getLsbD_one]
      by_cases hjk : j = k
      · simp [hjk, hk]
      · simp [hjk]; omega
    rw [if_pos hp, BitVec.getLsbD_or, hbit]
    simp [hp]
  · simp [hp]

theorem sampleBits_twarn_getLsbD (d : Dev) (x : Sample) {k : Nat} (hk : k < 4) :
    (sampleBits d x).twarn.getLsbD k = (d.twarn.getLsbD k || decide (95 ≤ tempOf x k)) := by
  have hbits : (sampleBits d x).twarn =
      [0, 1, 2, 3].foldl (fun w k => if x.dieTemp.getD k 0 ≥ 95 then w ||| (1#4 <<< k) else w) d.twarn := rfl
  simp only [hbits, List.foldl_cons, List.foldl_nil, getLsbD_ite_setBit _ _ hk]
  match k, hk with
  | 0, _ | 1, _ | 2, _ | 3, _ => simp [tempOf]

theorem sampleWarns_iff (x : Sample) : sampleWarns x = true ↔ hotter x 95 ∨ offBy x 30 ∨ 2000 < x.power := by
  simp only [sampleWarns, Bool.or_eq_true, temps_any_iff, volts_any_iff, decide_eq_true_eq, gt_iff_lt, or_assoc]

/-- A sample passes a limit of the monitor (01 R18). -/
def Beyond (x : Sample) : Prop := hotter x 105 ∨ offBy x 60 ∨ 2200 < x.power

/-- The recorded cause is one that the sample has (which of several: log 25); none is recorded within the limits. -/
theorem sampleTrip_cases (x : Sample) :
    (sampleTrip x = 1 ∧ hotter x 105 ∨ sampleTrip x = 2 ∧ offBy x 60 ∨ sampleTrip x = 3 ∧ 2200 < x.power) ∨
      sampleTrip x = 0 ∧ ¬ Beyond x := by
  unfold sampleTrip
  split
  next hT => exact .inl (.inl ⟨rfl, (temps_any_iff x 105).mp hT⟩)
  next hT =>
    split
    next hV => exact .inl (.inr (.inl ⟨rfl, (volts_any_iff x 60).mp hV⟩))
    next hV =>
      split
      next hP => exact .inl (.inr (.inr ⟨rfl, hP⟩))
      next hP => exact .inr ⟨rfl, not_or.mpr ⟨mt (temps_any_iff x 105).mpr hT, not_or.mpr ⟨mt (volts_any_iff x 60).mpr hV, hP⟩⟩⟩

theorem sampleTrip_of_not_beyond {x : Sample} (h : ¬ Beyond x) : sampleTrip x = 0 := by
  obtain (⟨-, hT⟩ | ⟨-, hV⟩ | ⟨-, hP⟩) | ⟨h0, -⟩ := sampleTrip_cases x
  · exact absurd (.inl hT) h
  · exact absurd (.inr (.inl hV)) h
  · exact absurd (.inr (.inr hP)) h
  · exact h0

theorem sampleTrip_of_beyond {x : Sample} (h : Beyond x) :
    sampleTrip x = 1 ∧ hotter x 105 ∨ sampleTrip x = 2 ∧ offBy x 60 ∨ sampleTrip x = 3 ∧ 2200 < x.power :=
  (sampleTrip_cases x).resolve_right (fun hno => hno.2 h)

/-! ### Trips -/

theorem exec_monitorSample (x : Sample) (s : State) : exec (.monitorSample x) s = execMonitorSample x s := rfl
theorem exec_refClockLoss (s : State) : exec .refClockLoss s = execRefClockLoss s := rfl
theorem exec_hearthMemoryError (b : Bool) (s : State) : exec (.hearthMemoryError b) s = execHearthMemoryError b s := rfl

/-- The state that a trip clears, in which all has been performed and every entry has ended, is of the same moment. -/
theorem endAll_performAll_cyc (s : State) : ([0, 1, 2, 3].foldl endAll (performAll s)).cyc = s.cyc := by
  rw [foldl_cyc endAll_cyc, performAll_cyc]

/-- The trip of the model is that of the claims; its clock is that of the state before, by `endAll_performAll_cyc`. -/
theorem trip_tripped (s : State) (cause : Nat) : Tripped s (trip s cause) cause := by
  have hcyc := endAll_performAll_cyc s
  have hfour : rangeFrom 0 4 = [0, 1, 2, 3] := rfl
  unfold Tripped trip
  rw [hfour]
  generalize [0, 1, 2, 3].foldl endAll (performAll s) = u at hcyc ⊢
  refine ⟨rfl, rfl, rfl, rfl, rfl, rfl, rfl, rfl, hcyc, rfl, fun x hx => ?_⟩
  simp only [hostInterrupt, modDev_parts, clearAll, List.mem_cons, List.not_mem_nil, or_false] at hx
  obtain rfl | rfl | rfl | rfl := hx
  all_goals exact ⟨_, rfl⟩

theorem held_of_tripped {s t : State} {cause : Nat} (h : Tripped s t cause) :
    t.dev.phase = 0 ∧ t.dev.tripped = true ∧ t.dev.tripc = cause := by
  obtain ⟨hdev, -⟩ := h
  rw [hdev]
  exact ⟨rfl, rfl, rfl⟩

section
variable {s : State} (ht : s.dev.tripped = false)
include ht

theorem exec_monitorSample_of_not_beyond {x : Sample} (hp : 3 ≤ s.dev.phase) (h : ¬ Beyond x) :
    exec (.monitorSample x) s = .next (withDev s { sampleBits s.dev x with
      interrupts := if sampleWarns x then s.dev.interrupts ++ [(0, 0)] else s.dev.interrupts }) := by
  rw [exec_monitorSample, execMonitorSample, ht, if_neg Bool.false_ne_true, if_neg (by omega)]
  simp only [sampleTrip_of_not_beyond h, if_true]
  cases sampleWarns x <;> rfl

/-- The device trips after the sample's bits have been set. -/
theorem exec_monitorSample_of_beyond {x : Sample} (hp : 3 ≤ s.dev.phase) (h : Beyond x) :
    ∃ t, exec (.monitorSample x) s = .next (trip t (sampleTrip x)) := by
  have hcause : sampleTrip x ≠ 0 := by
    have := sampleTrip_of_beyond h
    omega
  rw [exec_monitorSample, execMonitorSample, ht, if_neg Bool.false_ne_true, if_neg (by omega)]
  simp only [if_neg hcause]
  exact ⟨_, rfl⟩

theorem exec_refClockLoss_of_phase (hp : 1 ≤ s.dev.phase) : exec .refClockLoss s = .next (trip s 4) := by
  rw [exec_refClockLoss, execRefClockLoss, ht, if_neg (by simp; omega)]

theorem exec_hearthMemoryError_of_phase (hp : 2 ≤ s.dev.phase) (b : Bool) :
    exec (.hearthMemoryError b) s = .next (withDev (trip s 5) { (trip s 5).dev with
      hstate := 3, hfailA := (trip s 5).dev.hfailA || !b, hfailB := (trip s 5).dev.hfailB || b }) := by
  rw [exec_hearthMemoryError, execHearthMemoryError, ht, if_neg (by simp; omega)]
  rfl

end

theorem exec_hearthMemoryError_before_clock {s : State} (hp : s.dev.phase < 2) (b : Bool) : exec (.hearthMemoryError b) s = .next s := by
  rw [exec_hearthMemoryError, execHearthMemoryError, if_pos (by simp [hp])]

/-- Settles O46: a sample within the limits sets `sampleBits`; all else is a `trip`, which `trip_tripped` describes. -/
theorem monitorAndTripResults : Obligations.MonitorAndTripResults := by
  intro s ht
  refine ⟨fun x _ hp => ⟨fun hT hV hP => ?within, fun hbeyond => ?beyond⟩,
    fun hp => ⟨_, exec_refClockLoss_of_phase ht hp, trip_tripped s 4⟩,
    fun hp b => ⟨_, _, exec_hearthMemoryError_of_phase ht hp b, trip_tripped s 5, rfl⟩,
    fun hp b => exec_hearthMemoryError_before_clock hp b⟩
  case within =>
    have hin : ¬ Beyond x := not_or.mpr ⟨hT, not_or.mpr ⟨hV, Nat.not_lt.mpr hP⟩⟩
    have hwarn := sampleWarns_iff x
    refine ⟨_, exec_monitorSample_of_not_beyond ht hp hin,
      ⟨(le_maxt_iff hT s.dev _).mp (Nat.le_refl _), fun n => (le_maxt_iff hT s.dev n).mpr⟩, temps_any_iff x 95,
      fun k hk => sampleBits_twarn_getLsbD s.dev x hk, rfl, ?vwarn, rfl, fun h => if_pos (hwarn.mpr h), fun h1 h2 h3 => if_neg ?quiet,
      rfl⟩
    case vwarn =>
      rw [← volts_any_iff]
      exact Bool.or_eq_true_iff ..
    case quiet =>
      rw [hwarn, not_or, not_or]
      exact ⟨h1, h2, Nat.not_lt.mpr h3⟩
  case beyond =>
    obtain ⟨t, hx⟩ := exec_monitorSample_of_beyond ht hp hbeyond
    obtain ⟨hphase, htripped, htripc⟩ := held_of_tripped (trip_tripped t (sampleTrip x))
    refine ⟨_, hx, hphase, htripped, ?_⟩
    rw [htripc]
    exact sampleTrip_of_beyond hbeyond

end Sys2Proof.Machine
end

section
/-!
PROOFS. The values of operands, and the frames in which an instruction computes from them (02 R30, 03 R41, R42, 06 R100, R102).
-/
namespace Sys2Proof.Machine
open Sys2Proof.Claims

/-! ### An operand fits its type -/

theorem wrap_lt (w : Nat) (i : Int) : wrap w i < 2 ^ w := by
  have hpos : (0 : Int) < ((2 ^ w : Nat) : Int) := Int.natCast_pos.mpr (Nat.two_pow_pos w)
  have := Int.emod_lt_of_pos i hpos
  unfold wrap
  omega

/-- The sign, the exponent and the fraction of a small integer stay in their fields: the exponent's bias and the fraction's width are at least
the place of the integer's leading bit. -/
theorem smallFloat_lt {eb fb : Nat} {i : Int} (hfrac : i.natAbs.log2 ≤ fb) (hexp : i.natAbs.log2 ≤ 2 ^ (eb - 1)) (heb : 0 < eb) :
    smallFloat eb fb i < 2 ^ (eb + fb + 1) := by
  unfold smallFloat
  dsimp only
  split
  · exact Nat.two_pow_pos _
  next hm =>
    have hlow : 2 ^ i.natAbs.log2 ≤ i.natAbs := Nat.log2_self_le hm
    have hhigh : i.natAbs < 2 ^ i.natAbs.log2 * 2 := Nat.lt_log2_self
    generalize i.natAbs.log2 = e at *
    have hfraction : (i.natAbs - 2 ^ e) * 2 ^ (fb - e) < 2 ^ fb :=
      calc (i.natAbs - 2 ^ e) * 2 ^ (fb - e) < 2 ^ e * 2 ^ (fb - e) :=
            Nat.mul_lt_mul_of_pos_right (by omega) (Nat.two_pow_pos _)
        _ = 2 ^ fb := by rw [← Nat.pow_add, Nat.add_sub_cancel' hfrac]
    have hexponent : (e + 2 ^ (eb - 1) - 1) * 2 ^ fb + 2 ^ fb ≤ 2 ^ (eb + fb) := by
      have hbias : 2 ^ (eb - 1) * 2 = 2 ^ eb := Nat.two_pow_pred_mul_two heb
      have hpos := Nat.two_pow_pos (eb - 1)
      rw [← Nat.succ_mul, Nat.pow_add]
      exact Nat.mul_le_mul_right _ (by omega)
    have hsign : b2n (decide (i < 0)) * 2 ^ (eb + fb) ≤ 2 ^ (eb + fb) := by
      cases decide (i < 0)
      · exact Nat.le_trans (Nat.le_of_eq (Nat.zero_mul _)) (Nat.zero_le _)
      · exact Nat.le_of_eq (Nat.one_mul _)
    rw [Nat.pow_succ]
    omega

theorem immValue_lt (ty : Ty) (i : BitVec 8) : immValue ty i < 2 ^ ty.width := by
  have hbound : i.toInt.natAbs < 2 ^ 8 := by
    have := i.toInt_lt
    have := i.le_toInt
    omega
  have hlog : i.toInt.natAbs.log2 ≤ 7 := by
    by_cases h0 : i.toInt.natAbs = 0
    · simp [h0]
    · exact Nat.le_of_lt_succ ((Nat.log2_lt h0).mpr hbound)
  have hfloat : ∀ eb fb, 7 ≤ fb → 7 ≤ 2 ^ (eb - 1) → 0 < eb → smallFloat eb fb i.toInt < 2 ^ (eb + fb + 1) := fun eb fb hf he h0 =>
    smallFloat_lt (Nat.le_trans hlog hf) (Nat.le_trans hlog he) h0
  have hhalf := hfloat 5 10 (by decide) (by decide) (by decide)
  have hbrain := hfloat 8 7 (by decide) (by decide) (by decide)
  cases ty with
  | f32 => exact hfloat 8 23 (by decide) (by decide) (by decide)
  | f16 => exact hhalf
  | bf16 => exact hbrain
  | f16x2 => simp only [immValue, Ty.width]; omega
  | bf16x2 => simp only [immValue, Ty.width]; omega
  | _ => exact wrap_lt _ _

theorem litValue_lt (ty : Ty) (imm : Word) : litValue ty imm < 2 ^ ty.width := by
  cases ty with
  | n64 => exact Nat.lt_trans imm.isLt (by decide)
  | i64 => exact wrap_lt _ _
  | b64 => exact wrap_lt _ _
  | _ => exact Nat.mod_lt _ (Nat.two_pow_pos _)

/-- An operand reads as a number of its type's width (03 R42). -/
theorem readTy_lt (g : Wg) (t : Nat) (ty : Ty) (o : Opnd) (imm : Word) : readTy g t ty o imm < 2 ^ ty.width := by
  have hregs : ∀ (p : DWord) (x : Word), (if ty.width = 64 then p.toNat else x.toNat % 2 ^ ty.width) < 2 ^ ty.width := by
    intro p x
    split
    · next h => rw [h]; exact p.isLt
    · exact Nat.mod_lt _ (Nat.two_pow_pos _)
  cases o with
  | v n => exact hregs ..
  | s n => exact hregs ..
  | imm i => exact immValue_lt ty i
  | lit => exact litValue_lt ty imm
  | sp n => exact Nat.two_pow_pos _
  | slot n => exact Nat.two_pow_pos _
  | p n => exact Nat.two_pow_pos _

/-- The bits of an operand are its number. -/
theorem toNat_raw (s : State) (u : Nat) (ty : Ty) (o : Opnd) (imm : Word) : (raw s u ty o imm).toNat = rd s u ty o imm :=
  (BitVec.toNat_ofNat ..).trans (Nat.mod_eq_of_lt (readTy_lt ..))

theorem sext_toNat {w : Nat} (x : BitVec w) : sext w x.toNat = x.toInt := by
  rw [sext, Nat.mod_eq_of_lt x.isLt, BitVec.toInt_eq_toNat_cond]

theorem wrap_eq_toNat_ofInt (w : Nat) (i : Int) : wrap w i = (BitVec.ofInt w i).toNat := (BitVec.toNat_ofInt i).symm

/-! ### What a result depends on -/

/-- A function of a lane that looks at the lane's thread and its group's registers only. -/
def OperandLocal {α : Type} (f : Wg → Nat → α) : Prop :=
  ∀ g g' u, getTh g u = getTh g' u → getGroup g (grpOf u) = getGroup g' (grpOf u) → f g u = f g' u

theorem OperandLocal.laneLocal {α : Type} {f : Wg → Nat → α} (hf : OperandLocal f) (s : State) :
    LaneLocal s (fun s' u => f (getWg s' s.bundle.wg) u) := fun _ _ _ hth hgrp => hf _ _ _ hth hgrp

theorem operandLocal_readTy (ty : Ty) (o : Opnd) (imm : Word) : OperandLocal (fun g t => readTy g t ty o imm) :=
  fun _ _ _ hth hgrp => readTy_local hth hgrp ty o imm

theorem operandLocal_readPred (o : Opnd) : OperandLocal (fun g t => readPred g t o) := fun _ _ _ hth _ => readPred_local hth o

section
variable {α β γ : Type} {f : Wg → Nat → α} {f' : Wg → Nat → β} (hf : OperandLocal f) (hf' : OperandLocal f')
include hf

theorem OperandLocal.map (k : α → γ) : OperandLocal (fun g t => k (f g t)) :=
  fun g g' u hth hgrp => congrArg k (hf g g' u hth hgrp)

include hf'

theorem OperandLocal.map₂ (k : α → β → γ) : OperandLocal (fun g t => k (f g t) (f' g t)) :=
  fun g g' u hth hgrp => by
    dsimp only
    rw [hf g g' u hth hgrp, hf' g g' u hth hgrp]

end

/-! ### The frames -/

section
variable {i : Instr} {h : Hdr} {d : Opnd}

theorem computes_of_laneLocal {f : State → Wg → Nat → Res} (hlocal : ∀ s, LaneLocal s (fun s' u => f s (getWg s' s.bundle.wg) u))
    (hexec : ∀ s, exec i s = .next (execReg h d (f s) s)) : Computes i h d (fun s u => f s (cur s) u) := fun s hr => by
  rw [hexec, execReg_eq hr (hlocal s)]

theorem computes_of_operandLocal {f : Wg → Nat → Res} (hf : OperandLocal f) (hexec : ∀ s, exec i s = .next (execReg h d f s)) :
    Computes i h d (fun s u => f (cur s) u) := computes_of_laneLocal hf.laneLocal hexec

theorem awaits_of_operandLocal {f : Wg → Nat → Res} (hf : OperandLocal f) (hexec : ∀ s, exec i s = .next (execRegLL h d f s)) :
    Awaits i h d (fun s u => f (cur s) u) := fun s hr => by
  rw [hexec, execRegLL_eq hr (fun s' u hs hth => hf _ _ u hth ?_)]
  obtain ⟨F, hF⟩ := hs.same.getWg
  rw [show getWg s' s.bundle.wg = _ from hF]
  rfl

theorem decides_of_operandLocal {f : Wg → Nat → Bool × Word} (hf : OperandLocal f) (hexec : ∀ s, exec i s = .next (execPred h d f s)) :
    Decides i h d (fun s u => f (cur s) u) := fun s hr => by
  rw [hexec, execPred_eq hr (hf.laneLocal s)]

/-- An instruction whose lanes each change their own thread, as the thread and its group's registers say. -/
theorem changes_of_operandLocal {f : Wg → Nat → Thread → Thread} (hf : OperandLocal f)
    (hexec : ∀ s, exec i s = .next (perLane h true false (fun s w t => (modTh s w t (f (getWg s w) t), .adv)) s)) :
    Changes i h (fun s u => f (cur s) u) := fun s hr => by
  rw [hexec, perLane_adv (f (cur s)) hr (fun s' u _ hs hth => ?_)]
  rw [hf _ (cur s) u hth (hs.group _)]

/-- An instruction that computes from one operand. -/
theorem computes_of_read {ty : Ty} {a : Opnd} {imm : Word} (k : Nat → Res)
    (hexec : ∀ s, exec i s = .next (execReg h d (fun g t => k (readTy g t ty a imm)) s)) :
    Computes i h d (fun s u => k (rd s u ty a imm)) :=
  computes_of_operandLocal (f := fun g t => k (readTy g t ty a imm)) ((operandLocal_readTy ty a imm).map k) hexec

/-- An instruction that computes from two operands. -/
theorem computes_of_reads {ty ty' : Ty} {a b : Opnd} {imm imm' : Word} (k : Nat → Nat → Res)
    (hexec : ∀ s, exec i s = .next (execReg h d (fun g t => k (readTy g t ty a imm) (readTy g t ty' b imm')) s)) :
    Computes i h d (fun s u => k (rd s u ty a imm) (rd s u ty' b imm')) :=
  computes_of_operandLocal (f := fun g t => k (readTy g t ty a imm) (readTy g t ty' b imm'))
    ((operandLocal_readTy ty a imm).map₂ (operandLocal_readTy ty' b imm') k) hexec

/-- An instruction that computes from three operands. -/
theorem computes_of_three_reads {ty ty' ty'' : Ty} {a b c : Opnd} {imm imm' imm'' : Word} (k : Nat → Nat → Nat → Res)
    (hexec : ∀ s, exec i s =
      .next (execReg h d (fun g t => k (readTy g t ty a imm) (readTy g t ty' b imm') (readTy g t ty'' c imm'')) s)) :
    Computes i h d (fun s u => k (rd s u ty a imm) (rd s u ty' b imm') (rd s u ty'' c imm'')) :=
  computes_of_operandLocal (f := fun g t => k (readTy g t ty a imm) (readTy g t ty' b imm') (readTy g t ty'' c imm''))
    (((operandLocal_readTy ty a imm).map₂ (operandLocal_readTy ty' b imm') k).map₂ (operandLocal_readTy ty'' c imm'') id) hexec

end

end Sys2Proof.Machine
end

section
/-!
PROOFS. Integer arithmetic and division (06 R106 to R108).
-/
namespace Sys2Proof.Machine
open Sys2Proof.Claims

/-! ### Exact results, wrapped or clamped once (R106, R107) -/

/-- The clamp and the wrap of `narrow` are those of R106. -/
theorem fit_eq_narrow (ty : Ty) (sat : Bool) (t : Int) : fit ty sat t = tyRes ty (narrow ty sat t) := by
  have hmax : tyMax ty = if ty.signed then ((2 ^ (ty.width - 1) : Nat) : Int) - 1 else ((2 ^ ty.width : Nat) : Int) - 1 := by
    unfold tyMax; split <;> rfl
  unfold fit narrow wrap
  rw [hmax, Int.natCast_pow]
  rfl

section
variable {i : Instr} {h : Hdr} {ty : Ty} {sat : Bool} {d a b : Opnd} {imm : Word}

theorem computes_intOp2 (f : Int → Int → Int) (hexec : ∀ s, exec i s = .next (intOp2 h ty sat d a b imm f s)) :
    Computes i h d (fun s u => fit ty sat (f (int s u ty a imm) (int s u ty b imm))) := by
  simp only [fit_eq_narrow]
  exact computes_of_reads (fun x y => tyRes ty (narrow ty sat (f (intOf ty x) (intOf ty y)))) hexec

theorem computes_intOp1 (f : Int → Int) (hexec : ∀ s, exec i s = .next (intOp1 h ty sat d a imm f s)) :
    Computes i h d (fun s u => fit ty sat (f (int s u ty a imm))) := by
  simp only [fit_eq_narrow]
  exact computes_of_read (fun x => tyRes ty (narrow ty sat (f (intOf ty x)))) hexec

theorem computes_imad {c : Opnd} : Computes (.imad h ty sat d a b c) h d
    (fun s u => fit ty sat (int s u ty a 0 * int s u ty b 0 + int s u ty c 0)) := by
  simp only [fit_eq_narrow]
  exact computes_of_three_reads (fun x y z => tyRes ty (narrow ty sat (intOf ty x * intOf ty y + intOf ty z))) (fun _ => rfl)

theorem computes_iabs : Computes (.iabs h ty sat d a imm) h d (fun s u => fit ty sat (max (int s u ty a imm) (-int s u ty a imm))) := by
  have habs : ∀ x : Int, (x.natAbs : Int) = max x (-x) := fun x => by omega
  simp only [← habs]
  exact computes_intOp1 (fun x => (x.natAbs : Int)) (fun _ => rfl)

theorem computes_imulh : Computes (.imulh h ty d a b imm) h d
    (fun s u => fit ty false (int s u ty a imm * int s u ty b imm / 2 ^ ty.width)) := by
  have hpow : (2 : Int) ^ ty.width = (2 ^ ty.width : Nat) := (Int.natCast_pow 2 ty.width).symm
  rw [hpow]
  exact computes_intOp2 (fun x y => x * y / (2 ^ ty.width : Nat)) (fun _ => rfl)

end

/-- Settles O1: each form is an operation on integers, narrowed once. -/
theorem integerArithmeticResults : Obligations.IntegerArithmeticResults := fun _ _ _ _ _ _ _ _ =>
  ⟨computes_intOp2 (fun x y => x + y) (fun _ => rfl), computes_intOp2 (fun x y => x - y) (fun _ => rfl),
    computes_intOp2 (fun x y => x * y) (fun _ => rfl), computes_imad, computes_intOp2 (fun x y => min x y) (fun _ => rfl),
    computes_intOp2 (fun x y => max x y) (fun _ => rfl), computes_iabs, computes_intOp1 (fun x => -x) (fun _ => rfl), computes_imulh⟩

/-! ### Division (R108) -/

/-- A result that is wrapped is known from its value modulo 2^W. -/
theorem fit_wrap_congr {ty : Ty} {x y : Int} (hmod : x % 2 ^ ty.width = y % 2 ^ ty.width) : fit ty false x = fit ty false y := by
  simp only [fit, Bool.false_eq_true, if_false, hmod]

theorem width_pos (ty : Ty) : 0 < ty.width := by
  cases ty <;> decide

/-- The least value's quotient by -1 is 2^W from the least value. -/
theorem neg_tyMin_eq_add {ty : Ty} (hs : ty.signed = true) : -tyMin ty = tyMin ty + 2 ^ ty.width := by
  have hhalf : 2 ^ (ty.width - 1) * 2 = 2 ^ ty.width := Nat.two_pow_pred_mul_two (width_pos ty)
  have hpow : (2 : Int) ^ ty.width = (2 ^ ty.width : Nat) := (Int.natCast_pow 2 ty.width).symm
  rw [tyMin, if_pos hs, hpow, ← hhalf]
  omega

/-- The quotient of `divRem` is that of R108 modulo 2^W: -1 stands for all ones, and the overflow for the least value. -/
theorem fit_divRem_fst (ty : Ty) (x y : Int) : fit ty false (divRem x y).1 = fit ty false (quotOf ty x y) := by
  apply fit_wrap_congr
  unfold divRem quotOf
  by_cases hzero : y = 0
  · rw [if_pos hzero, if_pos hzero, Int.sub_eq_add_neg, Int.add_comm, Int.add_emod_right]
  · rw [if_neg hzero, if_neg hzero]
    split
    next hover =>
      obtain ⟨hs, rfl, rfl⟩ := hover
      rw [Int.tdiv_neg, Int.tdiv_one, neg_tyMin_eq_add hs, Int.add_emod_right]
    next => rfl

/-- The remainder of `divRem` is that of R108: 0 where the quotient overflows. -/
theorem divRem_snd (ty : Ty) (x y : Int) : (divRem x y).2 = remOf ty x y := by
  unfold divRem remOf
  by_cases hzero : y = 0
  · rw [if_pos hzero, if_pos hzero]
  · rw [if_neg hzero, if_neg hzero]
    split
    next hover =>
      obtain ⟨-, -, rfl⟩ := hover
      simp
    next => rfl

section
variable {i : Instr} {h : Hdr} {ty : Ty} {d a b : Opnd} {imm : Word}

/-- A long-latency instruction on the integers of two operands. -/
theorem awaits_of_ints (k : Int → Int → Int) (hexec : ∀ s, exec i s = .next (execRegLL h d
      (fun g t => tyRes ty (narrow ty false (k (intOf ty (readTy g t ty a imm)) (intOf ty (readTy g t ty b imm))))) s)) :
    Awaits i h d (fun s u => fit ty false (k (int s u ty a imm) (int s u ty b imm))) := by
  simp only [fit_eq_narrow]
  exact awaits_of_operandLocal
    (f := fun g t => tyRes ty (narrow ty false (k (intOf ty (readTy g t ty a imm)) (intOf ty (readTy g t ty b imm)))))
    ((operandLocal_readTy ty a imm).map₂ (operandLocal_readTy ty b imm)
      fun x y => tyRes ty (narrow ty false (k (intOf ty x) (intOf ty y)))) hexec

end

/-- Settles O2: `divRem` gives the quotient modulo 2^W, and the remainder. -/
theorem divisionResults : Obligations.DivisionResults := fun _ ty _ _ _ _ => by
  simp only [← fit_divRem_fst, ← divRem_snd ty]
  exact ⟨awaits_of_ints (fun x y => (divRem x y).1) (fun _ => rfl), awaits_of_ints (fun x y => (divRem x y).2) (fun _ => rfl)⟩

end Sys2Proof.Machine
end

section
/-!
PROOFS. Bitwise operations, shifts, counts, reversals and bit fields (06 R109 to R111).
-/
namespace Sys2Proof.Machine
open Sys2Proof.Claims

/-! ### The operations on W bits as operations on numbers -/

section
variable {w : Nat} (x y : BitVec w) (n : Nat)

theorem shl_eq_toNat_shiftLeft : (if n ≥ w then 0 else x.toNat * 2 ^ n % 2 ^ w) = (x <<< n).toNat := by
  rw [BitVec.toNat_shiftLeft, Nat.shiftLeft_eq]
  split
  next hn =>
    obtain ⟨k, rfl⟩ := Nat.exists_eq_add_of_le hn
    rw [Nat.pow_add, Nat.mul_left_comm, Nat.mul_mod_right]
  next => rfl

theorem shr_eq_toNat_ushiftRight : (if n ≥ w then 0 else x.toNat / 2 ^ n) = (x >>> n).toNat := by
  rw [BitVec.toNat_ushiftRight, Nat.shiftRight_eq_div_pow]
  split
  next hn => exact (Nat.div_eq_of_lt (Nat.lt_of_lt_of_le x.isLt (Nat.pow_le_pow_right Nat.two_pos hn))).symm
  next => rfl

/-- From W places on, a shift of a W-bit integer has only its sign left. -/
theorem toInt_div_pow_min : x.toInt / (2 ^ min n w : Nat) = x.toInt / (2 ^ n : Nat) := by
  rcases Nat.le_total n w with hn | hn
  · rw [Nat.min_eq_left hn]
  · rw [Nat.min_eq_right hn]
    have hpow : 2 ^ w ≤ 2 ^ n := Nat.pow_le_pow_right Nat.two_pos hn
    have hcond := BitVec.toInt_eq_toNat_cond x
    have hlt := x.isLt
    by_cases hsign : 2 * x.toNat < 2 ^ w
    · rw [if_pos hsign] at hcond
      rw [Int.ediv_eq_zero_of_lt (by omega) (by omega), Int.ediv_eq_zero_of_lt (by omega) (by omega)]
    · rw [if_neg hsign] at hcond
      rw [Int.ediv_eq_neg_one_of_neg_of_le (by omega) (by omega), Int.ediv_eq_neg_one_of_neg_of_le (by omega) (by omega)]

theorem sar_eq_toNat_sshiftRight : wrap w (sext w x.toNat / (2 ^ min n w : Nat)) = (x.sshiftRight n).toNat := by
  rw [sext_toNat, toInt_div_pow_min, wrap_eq_toNat_ofInt, BitVec.sshiftRight, Int.shiftRight_eq_div_pow]

/-- The bits that leave at the top enter at the bottom, where the shift has left zeros. -/
theorem rol_eq_toNat_rotateLeft :
    (x.toNat * 2 ^ (n % w) + x.toNat / 2 ^ (w - n % w)) % 2 ^ w = (x.rotateLeft n).toNat := by
  rw [BitVec.toNat_rotateLeft, Nat.shiftLeft_eq, Nat.shiftRight_eq_div_pow]
  rcases Nat.eq_zero_or_pos w with rfl | hw
  · simp [BitVec.eq_nil x]
  · have hm : n % w ≤ w := Nat.le_of_lt (Nat.mod_lt n hw)
    generalize n % w = m at *
    have hsplit : 2 ^ w = 2 ^ m * 2 ^ (w - m) := by rw [← Nat.pow_add, Nat.add_sub_cancel' hm]
    have hkept : x.toNat * 2 ^ m % 2 ^ w = 2 ^ m * (x.toNat % 2 ^ (w - m)) := by
      rw [hsplit, Nat.mul_comm, Nat.mul_mod_mul_left]
    have hin : x.toNat / 2 ^ (w - m) < 2 ^ m := Nat.div_lt_of_lt_mul (by rw [Nat.mul_comm, ← hsplit]; exact x.isLt)
    have hfit : 2 ^ m * (x.toNat % 2 ^ (w - m)) + x.toNat / 2 ^ (w - m) < 2 ^ w := by
      have hlow : x.toNat % 2 ^ (w - m) + 1 ≤ 2 ^ (w - m) := Nat.mod_lt _ (Nat.two_pow_pos _)
      have := Nat.mul_le_mul_left (2 ^ m) hlow
      rw [← hsplit, Nat.mul_add] at this
      omega
    rw [hkept, ← Nat.two_pow_add_eq_or_of_lt hin, ← Nat.mod_add_mod, hkept, Nat.mod_eq_of_lt hfit]

end

/-! ### Counts -/

theorem popCount_eq_countP {w : Nat} (x : BitVec w) (k : Nat) : popCount x.toNat k = (List.range k).countP x.getLsbD := by
  induction k with
  | zero => rfl
  | succ k ih =>
    rw [popCount, ih, bit_toNat, List.range_succ, List.countP_append, Nat.add_comm, List.countP_singleton]
    rfl

theorem leading_cons (f : Nat → Bool) (k : Nat) (l : List Nat) : leading f (k :: l) = if f k then 0 else 1 + leading f l := by
  cases hk : f k <;> simp [leading, hk, Nat.add_comm]

theorem trailZeros_eq_leading {w : Nat} (x : BitVec w) (j k : Nat) :
    trailZeros x.toNat j k = leading x.getLsbD (List.range' j k) := by
  induction k generalizing j with
  | zero => rfl
  | succ k ih => rw [trailZeros, ih, bit_toNat, List.range'_succ, leading_cons]

/-- Counting down from bit k - 1 stops at the logarithm, where the number has k bits. -/
theorem leading_reverse_range {n k : Nat} (hn : n < 2 ^ k) :
    leading n.testBit (List.range k).reverse = if n = 0 then k else k - 1 - n.log2 := by
  induction k with
  | zero => rw [if_pos (by omega)]; rfl
  | succ k ih =>
    rw [List.range_succ, List.reverse_append, List.reverse_singleton, List.singleton_append, leading_cons]
    by_cases htop : n < 2 ^ k
    · rw [Nat.testBit_lt_two_pow htop, if_neg Bool.false_ne_true, ih htop]
      split
      next => omega
      next h0 =>
        have := (Nat.log2_lt h0).mpr htop
        omega
    · have h0 : n ≠ 0 := fun h => htop (h ▸ Nat.two_pow_pos k)
      have hlog : n.log2 = k := (Nat.log2_eq_iff h0).mpr ⟨Nat.le_of_not_lt htop, hn⟩
      have hbit : n.testBit k = true := hlog ▸ Nat.testBit_log2 h0
      rw [hbit, if_pos rfl, if_neg h0]
      omega

theorem clz_eq_leading {w : Nat} (x : BitVec w) :
    (if x.toNat = 0 then w else w - 1 - x.toNat.log2) = leading x.getLsbD (List.range w).reverse :=
  (leading_reverse_range x.isLt).symm

/-! ### Reversals -/

theorem bit_eq_testBit (n k : Nat) : bit n k = n.testBit k := (Nat.testBit_eq_decide_div_mod_eq ..).symm

theorem testBit_revBits (n k j : Nat) : (revBits n k).testBit j = (decide (j < k) && n.testBit (k - 1 - j)) := by
  induction k generalizing n j with
  | zero => simp [revBits]
  | succ k ih =>
    have hlt : revBits (n / 2) k < 2 ^ k := Nat.lt_pow_two_of_testBit _ (fun i hi => by rw [ih]; simp; omega)
    rw [revBits, Nat.mul_comm, Nat.testBit_two_pow_mul_add _ hlt, ih]
    rcases Nat.lt_trichotomy j k with hj | rfl | hj
    · rw [if_pos hj, decide_eq_true hj, decide_eq_true (Nat.lt_succ_of_lt hj), ← Nat.testBit_succ, Nat.add_sub_cancel]
      congr 2
      omega
    · have hlow : (b2n (bit n 0)).testBit 0 = bit n 0 := by cases bit n 0 <;> rfl
      rw [if_neg (Nat.lt_irrefl _), Nat.sub_self, hlow, decide_eq_true (Nat.lt_succ_self _), Nat.add_sub_cancel, Nat.sub_self,
        bit_eq_testBit, Bool.true_and]
    · have hbelow : b2n (bit n 0) < 2 ^ (j - k) :=
        Nat.lt_of_lt_of_le (show b2n (bit n 0) < 2 by cases bit n 0 <;> decide) (Nat.le_self_pow (by omega) 2)
      rw [if_neg (by omega), Nat.testBit_lt_two_pow hbelow, decide_eq_false (by omega), Bool.false_and]

theorem revBits_eq_toNat_reverse {w : Nat} (x : BitVec w) : revBits x.toNat w = x.reverse.toNat := by
  apply Nat.eq_of_testBit_eq
  intro j
  rw [testBit_revBits, BitVec.testBit_toNat, BitVec.testBit_toNat, BitVec.getLsbD_reverse, BitVec.getMsbD_eq_getLsbD]

theorem leVal_append_singleton (l : List Byte) (b : Byte) : leVal (l ++ [b]) = leVal l + 256 ^ l.length * b.toNat := by
  induction l with
  | nil => simp [leVal]
  | cons a l ih =>
    simp only [List.cons_append, leVal, ih, List.length_cons]
    rw [Nat.mul_add, ← Nat.mul_assoc, Nat.mul_comm 256 (256 ^ _), ← Nat.pow_succ, Nat.add_assoc]

theorem revBytes_eq_leVal (n k : Nat) : revBytes n k = leVal (leBytes k n).reverse := by
  induction k generalizing n with
  | zero => rfl
  | succ k ih =>
    rw [leBytes, List.reverse_cons, leVal_append_singleton, List.length_reverse, leBytes_length, ← ih, revBytes, BitVec.toNat_ofNat,
      Nat.add_comm, Nat.mul_comm]

/-! ### Bit fields (R111) -/

theorem fieldOf_eq_field (w k : Nat) : fieldOf w k = field w k := by
  have hpos : bits k 7 0 = k % 2 ^ 8 := by rw [bits, Nat.pow_zero, Nat.div_one]
  unfold fieldOf field
  rw [hpos]
  by_cases hp : k % 2 ^ 8 < w
  · rw [if_neg (Nat.not_le.mpr hp), if_pos hp]; rfl
  · rw [if_pos (Nat.not_lt.mp hp), if_neg hp]

/-- A field lies within the W bits. -/
theorem field_le (w k : Nat) : (field w k).1 + (field w k).2 ≤ w := by
  unfold field
  dsimp only
  split <;> omega

/-- What `execBfx` makes of a number and a control word. -/
def extractField (ty : Ty) (x k : Nat) : Nat :=
  let f := fieldOf ty.width k
  let y := x / 2 ^ f.1 % 2 ^ f.2
  if f.2 = 0 then 0 else if ty.signed then wrap ty.width (sext f.2 y) else y

/-- What `execBfi` makes of a number, the one it is inserted into and a control word. -/
def insertField (w x y k : Nat) : Nat :=
  let f := fieldOf w k
  y / 2 ^ (f.1 + f.2) * 2 ^ (f.1 + f.2) + x % 2 ^ f.2 * 2 ^ f.1 + y % 2 ^ f.1

theorem extractField_toNat (ty : Ty) (x : BitVec ty.width) (k : Nat) :
    extractField ty x.toNat k = (fieldOut ty x (field ty.width k)).toNat := by
  rw [extractField, fieldOf_eq_field]
  have hf := field_le ty.width k
  generalize field ty.width k = f at *
  obtain ⟨p, n⟩ := f
  have hbits : x.toNat / 2 ^ p % 2 ^ n = (x.extractLsb' p n).toNat := by
    rw [BitVec.extractLsb'_toNat, Nat.shiftRight_eq_div_pow]
  have hlt : (x.extractLsb' p n).toNat < 2 ^ ty.width :=
    Nat.lt_of_lt_of_le (x.extractLsb' p n).isLt (Nat.pow_le_pow_right Nat.two_pos (Nat.le_of_add_left_le hf))
  simp only [fieldOut, hbits, sext_toNat, wrap_eq_toNat_ofInt]
  rcases Nat.eq_zero_or_pos n with rfl | hn
  · rw [if_pos rfl, BitVec.eq_nil (x.extractLsb' p 0)]
    split <;> simp [BitVec.signExtend]
  · rw [if_neg (Nat.ne_of_gt hn), apply_ite BitVec.toNat, BitVec.toNat_setWidth, Nat.mod_eq_of_lt hlt]
    rfl

theorem getLsbD_fieldMask {w : Nat} (f : Nat × Nat) {j : Nat} (hj : j < w) :
    (fieldMask w f).getLsbD j = (decide (f.1 ≤ j) && decide (j - f.1 < f.2)) := by
  rw [fieldMask, BitVec.getLsbD_ofNat, Nat.testBit_mul_two_pow, Nat.testBit_two_pow_sub_one, decide_eq_true hj, Bool.true_and]

/-- The three parts of an insertion: above the field, the field, below it. -/
theorem insertField_toNat {w : Nat} (x y : BitVec w) (k : Nat) : insertField w x.toNat y.toNat k =
    ((y &&& ~~~ fieldMask w (field w k)) ||| (x <<< (field w k).1 &&& fieldMask w (field w k))).toNat := by
  rw [insertField, fieldOf_eq_field]
  have hf := field_le w k
  generalize field w k = f at *
  obtain ⟨p, n⟩ := f
  have hbelow : y.toNat % 2 ^ p < 2 ^ p := Nat.mod_lt _ (Nat.two_pow_pos p)
  have hfield : 2 ^ p * (x.toNat % 2 ^ n) + y.toNat % 2 ^ p < 2 ^ (p + n) := by
    have hmod : x.toNat % 2 ^ n + 1 ≤ 2 ^ n := Nat.mod_lt _ (Nat.two_pow_pos n)
    have := Nat.mul_le_mul_left (2 ^ p) hmod
    rw [Nat.mul_add, ← Nat.pow_add] at this
    omega
  apply Nat.eq_of_testBit_eq
  intro j
  have habove : (y.toNat / 2 ^ (p + n)).testBit (j - (p + n)) = (y.getLsbD (j - (p + n) + (p + n))) := by
    rw [Nat.testBit_div_two_pow, BitVec.testBit_toNat]
  simp only
  rw [Nat.mul_comm, Nat.mul_comm (x.toNat % 2 ^ n), Nat.add_assoc, Nat.testBit_two_pow_mul_add _ hfield,
    Nat.testBit_two_pow_mul_add _ hbelow, BitVec.testBit_toNat, BitVec.getLsbD_or, BitVec.getLsbD_and, BitVec.getLsbD_and,
    BitVec.getLsbD_not, BitVec.getLsbD_shiftLeft, habove, Nat.testBit_mod_two_pow, Nat.testBit_mod_two_pow, BitVec.testBit_toNat,
    BitVec.testBit_toNat]
  by_cases hj : j < w
  · rw [getLsbD_fieldMask _ hj]
    rcases Nat.lt_or_ge j p with hjp | hjp
    · simp [hj, hjp, Nat.not_le.mpr hjp, Nat.lt_add_right n hjp]
    · rcases Nat.lt_or_ge j (p + n) with hjn | hjn
      · have hin : j - p < n := by omega
        simp [hj, hjp, hjn, hin, Nat.not_lt.mpr hjp]
      · have hout : ¬ j - p < n := by omega
        simp [hj, hjn, hout, Nat.not_lt.mpr hjn]
  · have hn : ¬ j < p + n := fun h => hj (Nat.lt_of_lt_of_le h hf)
    simp [hj, hn, Nat.sub_add_cancel (Nat.le_of_not_lt hn), BitVec.getLsbD_of_ge y j (Nat.le_of_not_lt hj)]

/-! ### The instructions -/

section
variable {i : Instr} {h : Hdr} {ty : Ty} {d a b : Opnd} {imm : Word}

theorem computes_bitOp2 {f : Nat → Nat → Nat} {F : BitVec ty.width → BitVec ty.width → BitVec ty.width}
    (hf : ∀ x y, f x.toNat y.toNat = (F x y).toNat) (hexec : ∀ s, exec i s = .next (bitOp2 h ty d a b imm f s)) :
    Computes i h d (fun s u => val ty (F (raw s u ty a imm) (raw s u ty b imm)).toNat) := by
  simp only [← hf, toNat_raw]
  exact computes_of_reads (fun x y => tyRes ty (f x y)) hexec

theorem computes_bitOp1 {f : Nat → Nat} {F : BitVec ty.width → BitVec ty.width} (hf : ∀ x, f x.toNat = (F x).toNat)
    (hexec : ∀ s, exec i s = .next (bitOp1 h ty d a imm f s)) : Computes i h d (fun s u => val ty (F (raw s u ty a imm)).toNat) := by
  simp only [← hf, toNat_raw]
  exact computes_of_read (fun x => tyRes ty (f x)) hexec

theorem computes_shiftOp {f : Nat → Nat → Nat → Nat} {F : BitVec ty.width → Nat → BitVec ty.width}
    (hf : ∀ x n, f ty.width x.toNat n = (F x n).toNat) (hexec : ∀ s, exec i s = .next (shiftOp h ty d a b imm f s)) :
    Computes i h d (fun s u => val ty (F (raw s u ty a imm) (rd s u .n32 b imm)).toNat) := by
  simp only [← hf, toNat_raw]
  exact computes_of_reads (fun x n => tyRes ty (f ty.width x n)) hexec

theorem computes_countOp {f : Nat → Nat → Nat} {F : BitVec ty.width → Nat} (hf : ∀ x, f ty.width x.toNat = F x)
    (hexec : ∀ s, exec i s = .next (countOp h ty d a imm f s)) : Computes i h d (fun s u => val .b32 (F (raw s u ty a imm))) := by
  simp only [← hf, toNat_raw]
  exact computes_of_read (fun x => wordRes (f ty.width x)) hexec

theorem computes_bfx : Computes (.bfx h ty d a b imm) h d
    (fun s u => val ty (fieldOut ty (raw s u ty a imm) (field ty.width (rd s u .n32 b imm))).toNat) := by
  simp only [← extractField_toNat, toNat_raw]
  exact computes_of_reads (fun x k => tyRes ty (extractField ty x k)) (fun _ => rfl)

theorem computes_bfi {c : Opnd} : Computes (.bfi h ty d a b c) h d (fun s u =>
    let f := field ty.width (rd s u .n32 c 0)
    let m := fieldMask ty.width f
    val ty ((raw s u ty b 0 &&& ~~~ m) ||| (raw s u ty a 0 <<< f.1 &&& m)).toNat) := by
  simp only [← insertField_toNat, toNat_raw]
  exact computes_of_three_reads (fun x y k => tyRes ty (insertField ty.width x y k)) (fun _ => rfl)

end

theorem bitwiseAndShiftResults : BitwiseAndShiftResults := fun _ _ _ _ _ _ => by
  refine ⟨computes_bitOp2 (fun _ _ => ?and) (fun _ => rfl), computes_bitOp2 (fun _ _ => ?or) (fun _ => rfl),
    computes_bitOp2 (fun _ _ => ?xor) (fun _ => rfl), computes_bitOp1 (fun _ => ?not) (fun _ => rfl),
    computes_bitOp2 (F := fun x y => x &&& ~~~y) (fun _ _ => ?andn) (fun _ => rfl),
    computes_shiftOp shl_eq_toNat_shiftLeft (fun _ => rfl), computes_shiftOp shr_eq_toNat_ushiftRight (fun _ => rfl),
    computes_shiftOp sar_eq_toNat_sshiftRight (fun _ => rfl), computes_shiftOp rol_eq_toNat_rotateLeft (fun _ => rfl)⟩
  case and => exact (BitVec.toNat_and ..).symm
  case or => exact (BitVec.toNat_or ..).symm
  case xor => exact (BitVec.toNat_xor ..).symm
  case not => exact BitVec.toNat_not.symm
  case andn => rw [BitVec.toNat_and, BitVec.toNat_not]

theorem bitCountAndFieldResults : BitCountAndFieldResults := fun _ ty _ _ _ _ _ => by
  refine ⟨computes_countOp (F := fun x => (List.range ty.width).countP x.getLsbD) (fun x => popCount_eq_countP x _) (fun _ => rfl),
    computes_countOp (F := fun x => leading x.getLsbD (List.range ty.width).reverse) clz_eq_leading (fun _ => rfl),
    computes_countOp (F := fun x => leading x.getLsbD (List.range ty.width)) (fun x => ?ctz) (fun _ => rfl),
    computes_bitOp1 revBits_eq_toNat_reverse (fun _ => rfl), ?bswap, computes_bfx, computes_bfi⟩
  case ctz => rw [trailZeros_eq_leading, List.range_eq_range']
  case bswap =>
    simp only [← revBytes_eq_leVal]
    exact computes_of_read (fun x => tyRes ty (revBytes x (ty.width / 8))) (fun _ => rfl)

/-- Settles O3: each operation on numbers is one on W bits, by the lemmas above. -/
theorem bitwiseShiftAndFieldResults : Obligations.BitwiseShiftAndFieldResults := ⟨bitwiseAndShiftResults, bitCountAndFieldResults⟩

end Sys2Proof.Machine
end

section
/-!
PROOFS. Compares, moves, special registers and predicates (06 R103, R112 to R118, 07 R124).
-/
namespace Sys2Proof.Machine
open Sys2Proof.Claims

/-! ### Predicates (R112, R116, R124) -/

/-- A code names its condition: 0 to 4 each one, the others the last. -/
theorem condHolds_eq_holds (sub : BitVec 4) (x y : Int) : condHolds sub x y = holds sub x y := by
  unfold condHolds holds
  simp only [← BitVec.toNat_inj]
  generalize sub.toNat = n
  match n with
  | 0 => rfl
  | 1 => exact decide_not.symm
  | 2 => rfl
  | 3 => rfl
  | 4 => rfl
  | _ + 5 => rfl

/-- The combination of `execPlop` is that of R116. -/
theorem plop_eq_combined (sub : BitVec 4) (x y : Bool) :
    (match sub.toNat with | 0 => x && y | 1 => x || y | 2 => x != y | 3 => x && !y | _ => !x) = combined sub x y := by
  unfold combined
  simp only [← BitVec.toNat_inj]
  generalize sub.toNat = n
  match n with
  | 0 => rfl
  | 1 => rfl
  | 2 => cases x <;> cases y <;> rfl
  | 3 => rfl
  | _ + 4 => rfl

section
variable {h : Hdr} {sub : BitVec 4} {d a b : Opnd} {imm : Word}

theorem decides_icmp {ty : Ty} : Decides (.icmp h ty sub d a b imm) h d
    (fun s u => (holds sub (int s u ty a imm) (int s u ty b imm), 0)) := by
  simp only [← condHolds_eq_holds]
  exact decides_of_operandLocal
    (f := fun g t => (condHolds sub (intOf ty (readTy g t ty a imm)) (intOf ty (readTy g t ty b imm)), 0))
    ((operandLocal_readTy ty a imm).map₂ (operandLocal_readTy ty b imm)
      fun x y => (condHolds sub (intOf ty x) (intOf ty y), 0)) (fun _ => rfl)

theorem decides_plop : Decides (.plop h sub d a b) h d (fun s u => (combined sub (pr s u a) (pr s u b), 0)) :=
  decides_of_operandLocal (f := fun g t => (combined sub (readPred g t a) (readPred g t b), 0))
    ((operandLocal_readPred a).map₂ (operandLocal_readPred b) fun x y => (combined sub x y, 0))
    (fun s => by simp only [← plop_eq_combined]; rfl)

theorem operandLocal_getTh : OperandLocal getTh := fun _ _ _ hth _ => hth

theorem decides_fcmp : Decides (.fcmp h sub d a b imm) h d (fun s u =>
    let ftz := ftzOf (lane s u).frm
    fcmpOf sub (FV.ofBits .f32 ftz (rd s u .f32 a imm)) (FV.ofBits .f32 ftz (rd s u .f32 b imm))) :=
  decides_of_operandLocal (f := fun g t =>
      let ftz := ftzOf (getTh g t).frm
      fcmpOf sub (FV.ofBits .f32 ftz (readTy g t .f32 a imm)) (FV.ofBits .f32 ftz (readTy g t .f32 b imm)))
    ((operandLocal_getTh.map₂ (operandLocal_readTy .f32 a imm) fun th x y =>
        fcmpOf sub (FV.ofBits .f32 (ftzOf th.frm) x) (FV.ofBits .f32 (ftzOf th.frm) y)).map₂
      (operandLocal_readTy .f32 b imm) id) (fun _ => rfl)

end

theorem predicateResults : PredicateResults := fun _ _ _ _ _ _ _ => ⟨decides_icmp, decides_plop, decides_fcmp⟩

/-! ### Moves (R103, R113, R115, R117, R118) -/

/-- The type as which `execRdsp` reads a special register. -/
def spTy (n : Nat) : Ty := if spWide.contains n then .n64 else .n32

/-- The numbers of the special registers (R103). -/
def spNums : List Nat :=
  [0x00, 0x01, 0x02, 0x03, 0x04, 0x05, 0x06, 0x08, 0x09, 0x0A, 0x0B, 0x0C, 0x0D, 0x0E, 0x0F, 0x10, 0x11, 0x12, 0x13, 0x14, 0x15, 0x16,
    0x17, 0x18, 0x19, 0x1A, 0x20, 0x21, 0x22, 0x23, 0x24, 0x25, 0x26, 0x27]

/-- A row of the table of R103 is what `readSp` gives, with the type that its width has. -/
theorem spRegs_find_of_mem (s : State) (u : Nat) :
    ∀ n ∈ spNums, (spRegs s u).find? (fun x => x.1 == n) = some (n, spTy n, readSp s s.bundle.wg u n) := by
  simp only [spNums, List.forall_mem_cons, List.not_mem_nil, false_implies, implies_true, and_true]
  and_intros <;> rfl

section
variable {n : Nat} (hn : n ∉ spNums)
include hn

theorem spRegs_find_of_not_mem (s : State) (u : Nat) : (spRegs s u).find? (fun x => x.1 == n) = none := by
  have hnums : (spRegs s u).map Prod.fst = spNums := rfl
  rw [List.find?_eq_none]
  intro x hx hxn
  have hmem : x.1 ∈ spNums := hnums ▸ List.mem_map_of_mem hx
  exact hn (beq_iff_eq.mp hxn ▸ hmem)

theorem readSp_of_not_mem (s : State) (w u : Nat) : readSp s w u n = 0 := by
  unfold readSp
  split
  case h_35 => rfl
  all_goals exact absurd (by decide) hn

theorem spTy_of_not_mem : spTy n = .n32 := by
  have hwide : ∀ k ∈ spWide, k ∈ spNums := by decide
  exact if_neg fun h => hn (hwide n (List.contains_iff_mem.mp h))

end

/-- The table of R103 gives what `execRdsp` reads; a number without a row reads 0. -/
theorem spRegs_find (s : State) (u n : Nat) :
    (match (spRegs s u).find? (fun x => x.1 == n) with
      | some x => val x.2.1 x.2.2
      | none => val .n32 0) = tyRes (spTy n) (readSp s s.bundle.wg u n) := by
  by_cases hn : n ∈ spNums
  · rw [spRegs_find_of_mem s u n hn]
    rfl
  · rw [spRegs_find_of_not_mem hn, spTy_of_not_mem hn, readSp_of_not_mem hn]
    rfl

/-- A state that differs only in a workgroup's registers is the first one with that workgroup. -/
theorem SameRegs.setWg_getWg {s s' : State} {w : Nat} (h : SameRegs s w s') : setWg s w (Machine.getWg s' w) = s' := by
  obtain ⟨F, G, rfl⟩ := h
  by_cases hw : w < s.wgs.length
  · rw [getWg_modWg_self _ _ _ hw]; rfl
  · rw [modWg_of_le _ (Nat.le_of_not_lt hw), setWg_self]

theorem laneLocal_readSp (s : State) (n : Nat) :
    LaneLocal s (fun s' u => readSp (setWg s s.bundle.wg (getWg s' s.bundle.wg)) s.bundle.wg u n) := by
  intro s' u hs hth _
  dsimp only
  rw [hs.setWg_getWg, setWg_self]
  exact readSp_regs hs hth n

section
variable {h : Hdr} {ty : Ty} {d a b c : Opnd} {imm : Word}

theorem computes_sel : Computes (.sel h ty d a b c) h d (fun s u => val ty (if pr s u c then rd s u ty a 0 else rd s u ty b 0)) :=
  computes_of_operandLocal (f := fun g t => tyRes ty (if readPred g t c then readTy g t ty a 0 else readTy g t ty b 0))
    (((operandLocal_readPred c).map₂ (operandLocal_readTy ty a 0) fun p x y => tyRes ty (if p then x else y)).map₂
      (operandLocal_readTy ty b 0) id) (fun _ => rfl)

theorem computes_rdsp (n : BitVec 6) : Computes (.rdsp h d (.sp n)) h d (fun s u =>
    match (spRegs s u).find? (fun x => x.1 == n.toNat) with
    | some x => val x.2.1 x.2.2
    | none => val .n32 0) := by
  have hread : Computes (.rdsp h d (.sp n)) h d
      (fun s u => tyRes (spTy n.toNat) (readSp (setWg s s.bundle.wg (cur s)) s.bundle.wg u n.toNat)) :=
    computes_of_laneLocal (f := fun s g t => tyRes (spTy n.toNat) (readSp (setWg s s.bundle.wg g) s.bundle.wg t n.toNat))
      (fun s s' u hs hth hgrp => congrArg (tyRes _) (laneLocal_readSp s n.toNat s' u hs hth hgrp)) (fun _ => rfl)
  simpa only [spRegs_find, setWg_self] using hread

theorem computes_p2v : Computes (.p2v h d) h d (fun s u => val .b32 ((lane s u).preds.toNat + 2 ^ 7)) :=
  computes_of_operandLocal (f := fun g t => wordRes ((getTh g t).preds.toNat + 128))
    (operandLocal_getTh.map fun th => wordRes (th.preds.toNat + 128)) (fun _ => rfl)

end

theorem moveResults : MoveResults := fun _ ty _ _ _ _ _ n =>
  ⟨computes_sel, computes_of_read (fun x => tyRes ty x) (fun _ => rfl), computes_rdsp n, computes_p2v,
    computes_of_read (fun x => tyRes ty x) (fun _ => rfl)⟩

/-! ### Writes of special registers and predicates (R103, R115, R117) -/

theorem toNat_and_seven (x : Word) : (x &&& 7).toNat = x.toNat % 8 := Nat.and_two_pow_sub_one_eq_mod x.toNat 3

theorem fflags_eq_and (x : Word) : BitVec.ofNat 32 (x.toNat % 32) = x &&& 0x1F := by
  apply BitVec.eq_of_toNat_eq
  have hand : (x &&& 0x1F).toNat = x.toNat % 32 := Nat.and_two_pow_sub_one_eq_mod x.toNat 5
  rw [hand, BitVec.toNat_ofNat]
  omega

/-- The bit of weight 2^k. -/
theorem and_two_pow_eq (n k : Nat) : n &&& 2 ^ k = n % 2 ^ (k + 1) / 2 ^ k * 2 ^ k := by
  apply Nat.eq_of_testBit_eq
  intro j
  rw [Nat.testBit_and, Nat.testBit_two_pow, Nat.testBit_mul_two_pow, Nat.testBit_div_two_pow, Nat.testBit_mod_two_pow]
  rcases Nat.lt_trichotomy j k with h | rfl | h
  · rw [decide_eq_false (Nat.ne_of_gt h), decide_eq_false (Nat.not_le.mpr h), Bool.and_false, Bool.false_and]
  · rw [decide_eq_true rfl, decide_eq_true (Nat.le_refl j), Nat.sub_self, Nat.zero_add, decide_eq_true (Nat.lt_succ_self j), Bool.and_true,
      Bool.true_and, Bool.true_and]
  · rw [decide_eq_false (Nat.ne_of_lt h), decide_eq_false (show ¬ j - k + k < k + 1 by omega), Bool.and_false, Bool.false_and,
      Bool.and_false]

theorem frmOf_eq (x : Word) : frmOf x = (x &&& 8) ||| (if x &&& 7 > 4 then 0 else x &&& 7) := by
  have hmode : (if x.toNat % 8 ≥ 5 then 0 else x.toNat % 8) = (if x &&& 7 > 4 then 0 else x &&& 7).toNat := by
    have hgt : x &&& 7 > 4 ↔ x.toNat % 8 ≥ 5 := by
      rw [gt_iff_lt, BitVec.lt_def, toNat_and_seven]
      rfl
    simp only [hgt, apply_ite BitVec.toNat, toNat_and_seven]
    rfl
  have hftz : x.toNat % 16 / 8 * 8 = (x &&& 8).toNat := (and_two_pow_eq x.toNat 3).symm
  apply BitVec.eq_of_toNat_eq
  rw [frmOf, BitVec.toNat_ofNat, BitVec.toNat_or, ← hmode, ← hftz]
  have hlt : (if x.toNat % 8 ≥ 5 then 0 else x.toNat % 8) < 2 ^ 3 := by split <;> omega
  generalize (if x.toNat % 8 ≥ 5 then 0 else x.toNat % 8) = mode at hlt
  rw [Nat.mul_comm, ← Nat.two_pow_add_eq_or_of_lt hlt]
  omega

/-- What a write of one predicate makes of the predicates below p7. -/
theorem getLsbD_write_pred (p : BitVec 7) (b : Bool) {n j : Nat} (hj : j < 7) :
    ((p &&& ~~~(1#7 <<< n)) ||| (if b then 1#7 <<< n else 0#7)).getLsbD j = if j = n then b else p.getLsbD j := by
  have hone : (1#7 <<< n).getLsbD j = decide (n = j) := by
    rw [← BitVec.twoPow_eq, BitVec.getLsbD_twoPow]
    by_cases h : n = j <;> simp [h, hj]
  rw [BitVec.getLsbD_or, BitVec.getLsbD_and, BitVec.getLsbD_not, apply_ite (BitVec.getLsbD · j), hone]
  by_cases h : j = n
  · cases b <;> simp [h]
  · cases b <;> simp [h, hj, Ne.symm h]

/-- The thread after a mask's predicates below pk have been written. -/
theorem foldl_wp (th : Thread) (x m k : Nat) (hk : k ≤ 7) :
    ∃ p, (List.range k).foldl (fun th i => if bit m i then th.wp i (bit x i) else th) th = { th with preds := p } ∧
      ∀ j < 7, p.getLsbD j = if j < k ∧ bit m j = true then bit x j else th.preds.getLsbD j := by
  induction k with
  | zero => exact ⟨th.preds, rfl, fun j _ => by simp⟩
  | succ k ih =>
    obtain ⟨p, hfold, hp⟩ := ih (by omega)
    rw [List.range_succ, List.foldl_append, hfold, List.foldl_cons, List.foldl_nil]
    have hlt : ∀ j, j ≠ k → (j < k + 1 ↔ j < k) := fun j hjk => by omega
    by_cases hm : bit m k = true
    · rw [if_pos hm, Thread.wp, if_pos (by omega)]
      refine ⟨_, rfl, fun j hj => ?_⟩
      dsimp only
      rw [getLsbD_write_pred p _ hj, hp j hj]
      by_cases h : j = k
      · rw [h, if_pos rfl, if_pos ⟨Nat.lt_succ_self k, hm⟩]
      · simp only [if_neg h, hlt j h]
    · rw [if_neg hm]
      refine ⟨p, rfl, fun j hj => ?_⟩
      rw [hp j hj]
      by_cases h : j = k
      · rw [h, if_neg (fun hc => hm hc.2), if_neg (fun hc => hm hc.2)]
      · simp only [hlt j h]

/-- Going through the predicates below p7 puts in those of the mask. -/
theorem foldl_wp_eq (th : Thread) (x m : Nat) :
    (rangeFrom 0 7).foldl (fun th i => if bit m i then th.wp i (bit x i) else th) th =
      { th with preds := (th.preds &&& ~~~BitVec.ofNat 7 m) ||| (BitVec.ofNat 7 x &&& BitVec.ofNat 7 m) } := by
  obtain ⟨p, hfold, hp⟩ := foldl_wp th x m 7 (Nat.le_refl 7)
  rw [rangeFrom_zero_eq_range, hfold]
  congr 1
  apply BitVec.eq_of_getLsbD_eq
  intro j hj
  rw [hp j hj, bit_eq_testBit, bit_eq_testBit, BitVec.getLsbD_or, BitVec.getLsbD_and, BitVec.getLsbD_and, BitVec.getLsbD_not,
    BitVec.getLsbD_ofNat, BitVec.getLsbD_ofNat]
  cases hm : m.testBit j <;> simp [hj]

section
variable {h : Hdr} {a b : Opnd} {imm : Word}

/-- `wrsp` writes what `Thread.wsp` says. -/
theorem changes_wrsp (n : BitVec 6) : Changes (.wrsp h (.sp n) b imm) h
    (fun s u th => th.wsp n.toNat (BitVec.ofNat 32 (rd s u .n32 b imm))) :=
  changes_of_operandLocal (f := fun g t th => th.wsp n.toNat (BitVec.ofNat 32 (readTy g t .n32 b imm)))
    ((operandLocal_readTy .n32 b imm).map fun x (th : Thread) => th.wsp n.toNat (BitVec.ofNat 32 x)) (fun _ => rfl)

theorem changes_v2p : Changes (.v2p h a b imm) h (fun s u th =>
    let x := BitVec.ofNat 7 (rd s u .n32 a imm)
    let m := BitVec.ofNat 7 (rd s u .n32 b imm)
    { th with preds := (th.preds &&& ~~~ m) ||| (x &&& m) }) := by
  simp only [← foldl_wp_eq]
  exact changes_of_operandLocal
    (f := fun g t th => (rangeFrom 0 7).foldl (fun th i => if bit (readTy g t .n32 b imm) i then
      th.wp i (bit (readTy g t .n32 a imm) i) else th) th)
    ((operandLocal_readTy .n32 a imm).map₂ (operandLocal_readTy .n32 b imm) fun x m (th : Thread) =>
      (rangeFrom 0 7).foldl (fun th i => if bit m i then th.wp i (bit x i) else th) th) (fun _ => rfl)

end

theorem specialRegisterWrites : SpecialRegisterWrites := fun _ _ _ _ => by
  simp only [← fflags_eq_and, ← frmOf_eq]
  exact ⟨changes_wrsp 0x0C, changes_wrsp 0x18, changes_wrsp 0x19, changes_v2p⟩

/-- Settles O4: each part a theorem above. -/
theorem predicateMoveAndSpecialResults : Obligations.PredicateMoveAndSpecialResults := ⟨predicateResults, moveResults, specialRegisterWrites⟩

end Sys2Proof.Machine
end

section
/-!
PROOFS. Floating-point arithmetic, conversions, roots and approximations (07 R119 to R131, R134).
-/
namespace Sys2Proof.Machine
open Sys2Proof.Claims

section
variable {i : Instr} {h : Hdr} {ty : Ty} {mod : BitVec 3} {d a b c : Opnd} {imm : Word}

theorem computes_congr {f f' : State → Nat → Res} (hf : Computes i h d f) (heq : ∀ s u, f s u = f' s u) :
    Computes i h d f' := (funext fun s => funext (heq s) : f = f') ▸ hf

theorem operandLocal_rcOf (mod : BitVec 3) : OperandLocal (fun g t => rcOf g t mod) :=
  operandLocal_getTh.map fun th => ({ rm := modeOf mod th.frm, ftz := ftzOf th.frm } : Rc)

/-- An instruction that computes from one operand and the lane's rounding context. -/
theorem computes_of_rc_read (k : Rc → Nat → Res)
    (hexec : ∀ s, exec i s = .next (execReg h d (fun g t => k (rcOf g t mod) (readTy g t ty a imm)) s)) :
    Computes i h d (fun s u => k (rc s u mod) (rd s u ty a imm)) :=
  computes_of_operandLocal (f := fun g t => k (rcOf g t mod) (readTy g t ty a imm))
    ((operandLocal_rcOf mod).map₂ (operandLocal_readTy ty a imm) k) hexec

/-- The same with two operands. -/
theorem computes_of_rc_reads {ty' : Ty} (k : Rc → Nat → Nat → Res)
    (hexec : ∀ s, exec i s = .next (execReg h d (fun g t => k (rcOf g t mod) (readTy g t ty a imm) (readTy g t ty' b imm)) s)) :
    Computes i h d (fun s u => k (rc s u mod) (rd s u ty a imm) (rd s u ty' b imm)) :=
  computes_of_operandLocal (f := fun g t => k (rcOf g t mod) (readTy g t ty a imm) (readTy g t ty' b imm))
    (((operandLocal_rcOf mod).map₂ (operandLocal_readTy ty a imm) k).map₂ (operandLocal_readTy ty' b imm) id) hexec

/-- The same with three operands. -/
theorem computes_of_rc_three_reads {ty' ty'' : Ty} (k : Rc → Nat → Nat → Nat → Res)
    (hexec : ∀ s, exec i s = .next (execReg h d
      (fun g t => k (rcOf g t mod) (readTy g t ty a imm) (readTy g t ty' b imm) (readTy g t ty'' c imm)) s)) :
    Computes i h d (fun s u => k (rc s u mod) (rd s u ty a imm) (rd s u ty' b imm) (rd s u ty'' c imm)) :=
  computes_of_operandLocal (f := fun g t => k (rcOf g t mod) (readTy g t ty a imm) (readTy g t ty' b imm) (readTy g t ty'' c imm))
    ((((operandLocal_rcOf mod).map₂ (operandLocal_readTy ty a imm) k).map₂ (operandLocal_readTy ty' b imm) id).map₂
      (operandLocal_readTy ty'' c imm) id) hexec

theorem computes_fOp1 (f : Fmt → Rc → Nat → Nat × Word) (hexec : ∀ s, exec i s = .next (fOp1 h ty mod d a imm f s)) :
    Computes i h d (fun s u => elemRes ((elemsOf ty (rd s u ty a imm)).map (f (fmtOf ty) (rc s u mod)))) :=
  computes_of_rc_read (fun k x => elemRes ((elemsOf ty x).map (f (fmtOf ty) k))) hexec

theorem computes_fOp2 (f : Fmt → Rc → Nat → Nat → Nat × Word) (hexec : ∀ s, exec i s = .next (fOp2 h ty mod d a b imm f s)) :
    Computes i h d (fun s u => elemRes (List.zipWith (f (fmtOf ty) (rc s u mod))
      (elemsOf ty (rd s u ty a imm)) (elemsOf ty (rd s u ty b imm)))) :=
  computes_of_rc_reads (fun k x y => elemRes (List.zipWith (f (fmtOf ty) k) (elemsOf ty x) (elemsOf ty y))) hexec

/-- An instruction on the values of the elements of an operand. -/
theorem computes_elems1 (f : Fmt → Rc → FV → Nat × Word)
    (hexec : ∀ s, exec i s = .next (fOp1 h ty mod d a imm (fun g k x => f g k (FV.ofBits g k.ftz x)) s)) :
    Computes i h d (fun s u => elemRes ((els s u ty mod a imm).map (f (fmtOf ty) (rc s u mod)))) := by
  simp only [els, List.map_map]
  exact computes_fOp1 (fun g k x => f g k (FV.ofBits g k.ftz x)) hexec

/-- An instruction on the values of the elements of two operands. -/
theorem computes_elems2 (f : Fmt → Rc → FV → FV → Nat × Word) (hexec : ∀ s, exec i s = .next (fOp2 h ty mod d a b imm
      (fun g k x y => f g k (FV.ofBits g k.ftz x) (FV.ofBits g k.ftz y)) s)) :
    Computes i h d (fun s u => elemRes (List.zipWith (f (fmtOf ty) (rc s u mod)) (els s u ty mod a imm) (els s u ty mod b imm))) := by
  simp only [els, List.zipWith_map]
  exact computes_fOp2 (fun g k x y => f g k (FV.ofBits g k.ftz x) (FV.ofBits g k.ftz y)) hexec

theorem computes_ffma : Computes (.ffma h ty mod d a b c) h d (fun s u =>
    elemRes (List.zipWith (fun p z => fusedOf (fmtOf ty) (rc s u mod) [p] z)
      (List.zip (els s u ty mod a 0) (els s u ty mod b 0)) (els s u ty mod c 0))) :=
  computes_of_rc_three_reads (fun k x y z =>
    let v (n : Nat) : List FV := (elemsOf ty n).map (FV.ofBits (fmtOf ty) k.ftz)
    elemRes (List.zipWith (fun p z => fusedOf (fmtOf ty) k [p] z) (List.zip (v x) (v y)) (v z))) (fun _ => rfl)

theorem computes_fdot2 : Computes (.fdot2 h ty mod d a b c) h d (fun s u => elemRes [fusedOf .f32 (rc s u mod)
    (List.zip (els s u ty mod a 0) (els s u ty mod b 0)) (FV.ofBits .f32 (rc s u mod).ftz (rd s u .f32 c 0))]) :=
  computes_of_rc_three_reads (fun k x y z =>
    let v (n : Nat) : List FV := (elemsOf ty n).map (FV.ofBits (fmtOf ty) k.ftz)
    elemRes [fusedOf .f32 k (List.zip (v x) (v y)) (FV.ofBits .f32 k.ftz z)]) (fun _ => rfl)

theorem b2n_not_bit (x n : Nat) : b2n (!bit x n) = 1 - x / 2 ^ n % 2 := by
  unfold bit
  rcases Nat.mod_two_eq_zero_or_one (x / 2 ^ n) with hx | hx <;> rw [hx] <;> rfl

theorem computes_fneg : Computes (.fneg h ty d a imm) h d (fun s u => elemRes ((elemsOf ty (rd s u ty a imm)).map (fun x =>
    let n := (fmtOf ty).eb + (fmtOf ty).fb
    (x % 2 ^ n + (1 - x / 2 ^ n % 2) * 2 ^ n, 0)))) := by
  simp only [← b2n_not_bit]
  exact computes_fOp1 (mod := 0) (fun f _ x => (x % 2 ^ (f.eb + f.fb) + b2n (!bit x (f.eb + f.fb)) * 2 ^ (f.eb + f.fb), 0)) (fun _ => rfl)

end

/-- Settles O5: the sums, products and fused sums act on the values of the elements, the others on their bits. -/
theorem floatArithmeticResults : Obligations.FloatArithmeticResults := fun _ _ _ _ _ _ _ _ =>
  ⟨computes_elems2 (fun f k x y => sumOf f k [x, y]) (fun _ => rfl),
    computes_elems2 (ty := .f32) (fun f k x y => sumOf f k [x, y.neg]) (fun _ => rfl),
    computes_elems2 productOf (fun _ => rfl), computes_ffma, computes_fdot2, computes_fOp2 (minMaxOf false) (fun _ => rfl),
    computes_fOp2 (minMaxOf true) (fun _ => rfl), computes_fOp1 (mod := 0) (fun f _ x => (x % 2 ^ (f.eb + f.fb), 0)) (fun _ => rfl),
    computes_fneg⟩

/-! ### Classification, integral values, conversions (R125, R129 to R131, R134) -/

/-- What `execFrnd` makes of an element. -/
def integralOf (f : Fmt) (c : Rc) (x : FV) : Nat × Word :=
  match x with
  | .nan sg => (f.nan, if sg then fNV else 0)
  | .inf n => (f.inf n, 0)
  | .num n m e => ((roundTo f .rne false n (toIntegral c.rm n m e).1 0).1, 0)

/-- What `execCvt` makes of A under the source type, B under it, and B under n32. -/
def converted (ty sty : Ty) (sat : Bool) (c : Rc) (x y j : Nat) : Res :=
  let v (x : Nat) : FV := FV.ofBits (fmtOf sty) c.ftz x
  if !isFloat sty then elemRes [roundTo (fmtOf ty) c.rm c.ftz (decide (intOf sty x < 0)) (intOf sty x).natAbs 0]
  else if isPacked ty then
    elemRes ((if isPacked sty then elemsOf sty x else [x, y]).map (fun x => cvtFloat (fmtOf ty) c sat (v x)))
  else
    let x := if isPacked sty then (elemsOf sty x).getD (j % 2) 0 else x
    if isFloat ty then elemRes [cvtFloat (fmtOf ty) c sat (v x)]
    else { vals := extTy ty (cvtToInt ty c.rm (v x)).1, flags := (cvtToInt ty c.rm (v x)).2 }

section
variable {ty sty : Ty}

theorem isFloat_of_isPacked (hp : isPacked ty = true) : isFloat ty = true := by
  cases ty with
  | f16x2 => rfl
  | bf16x2 => rfl
  | _ => exact absurd hp Bool.false_ne_true

theorem isPacked_of_not_isFloat (hf : isFloat ty = false) : isPacked ty = false :=
  Bool.eq_false_iff.mpr fun hp => Bool.eq_false_iff.mp hf (isFloat_of_isPacked hp)

variable (sat : Bool) (c : Rc) (x y j : Nat)

theorem converted_of_int (hs : isFloat sty = false) : converted ty sty sat c x y j =
    elemRes [roundTo (fmtOf ty) c.rm c.ftz (decide (intOf sty x < 0)) (intOf sty x).natAbs 0] := by
  simp [converted, hs]

theorem converted_to_packed (hs : isFloat sty = true) (ht : isPacked ty = true) : converted ty sty sat c x y j =
    elemRes ((if isPacked sty then elemsOf sty x else [x, y]).map
      (fun x => cvtFloat (fmtOf ty) c sat (FV.ofBits (fmtOf sty) c.ftz x))) := by
  simp [converted, hs, ht]

theorem converted_to_float (hs : isFloat sty = true) (hf : isFloat ty = true) (ht : isPacked ty = false) :
    converted ty sty sat c x y j = elemRes [cvtFloat (fmtOf ty) c sat
      (FV.ofBits (fmtOf sty) c.ftz (if isPacked sty then (elemsOf sty x).getD (j % 2) 0 else x))] := by
  simp [converted, hs, hf, ht]

theorem converted_to_int (hs : isFloat sty = true) (hp : isPacked sty = false) (hf : isFloat ty = false) :
    converted ty sty sat c x y j =
      let r := cvtToInt ty c.rm (FV.ofBits (fmtOf sty) c.ftz x)
      { vals := extTy ty r.1, flags := r.2 } := by
  simp [converted, hs, hp, hf, isPacked_of_not_isFloat hf]

end

theorem two_le_bxWidth (sub : BitVec 4) : 2 ≤ bxWidth sub := by
  unfold bxWidth
  split <;> decide

/-- What `execBxd` makes of a block word and an element number. -/
def expanded (sub : BitVec 4) (w k : Nat) : Nat :=
  let m := bxWidth sub
  if bits w 31 24 = 0xFF then Fmt.f32.nan
  else (roundTo .f32 .rne false (bit w m) (bits w (m - 1) 0)
    (((bits w 31 24 : Nat) : Int) - 127 - (m - 1) - b2n (bit w (16 + k % 16 / 2)))).1

/-- The fields of a block word of 32 bits (R132). -/
theorem expanded_eq (sub : BitVec 4) {w : Nat} (hw : w < 2 ^ 32) (k : Nat) : expanded sub w k =
    let m := bxWidth sub
    let e : Nat := w / 2 ^ 24
    let pe := if w.testBit (16 + k % 16 / 2) then 1 else 0
    if e = 0xFF then Fmt.f32.nan else (roundTo .f32 .rne false (w.testBit m) (w % 2 ^ m) ((e : Int) - 127 - (m - 1) - pe)).1 := by
  have hscale : bits w 31 24 = w / 2 ^ 24 := Nat.mod_eq_of_lt (by omega)
  have hmag : bits w (bxWidth sub - 1) 0 = w % 2 ^ bxWidth sub := by
    have := two_le_bxWidth sub
    rw [bits, Nat.pow_zero, Nat.div_one, Nat.sub_zero, Nat.sub_add_cancel (by omega)]
  have hpe : ∀ b : Bool, ((b2n b : Nat) : Int) = if b = true then 1 else 0 := fun b => by cases b <;> rfl
  simp only [expanded, hscale, hmag, bit_eq_testBit, hpe]

section
variable {i : Instr} {h : Hdr} {ty sty : Ty} {mod : BitVec 3} {sub : BitVec 4} {sat : Bool} {d a b : Opnd} {imm : Word}

theorem computes_cvt : Computes (.cvt h ty sty mod sat d a b imm) h d (fun s u =>
    converted ty sty sat (rc s u mod) (rd s u sty a imm) (rd s u sty b imm) (rd s u .n32 b imm)) :=
  computes_of_rc_three_reads (converted ty sty sat) (fun _ => rfl)

theorem computes_bxd : Computes (.bxd h sub d a b imm) h d (fun s u =>
    let w := rd s u .f32 a imm
    let m := bxWidth sub
    let e : Nat := w / 2 ^ 24
    let pe := if w.testBit (16 + rd s u .f32 b imm % 16 / 2) then 1 else 0
    val .b32 (if e = 0xFF then Fmt.f32.nan else
      (roundTo .f32 .rne false (w.testBit m) (w % 2 ^ m) ((e : Int) - 127 - (m - 1) - pe)).1)) :=
  computes_congr (computes_of_reads (fun w k => wordRes (expanded sub w k)) (fun _ => rfl)) fun _ _ =>
    congrArg wordRes (expanded_eq sub (readTy_lt ..) _)

end

theorem floatConversionResults : FloatConversionResults := fun _ ty sty _ _ sat _ _ _ _ => by
  refine ⟨computes_of_read (fun x => wordRes (2 ^ classOf (fmtOf ty) x)) (fun _ => rfl),
    computes_elems1 (ty := .f32) integralOf (fun _ => rfl), fun hs _ _ => ?int, fun hp hs hf ht => ?float, fun hp hs hf => ?toInt,
    fun hp hs ht => ?pack, fun hp ht => ?repack, fun hp hf ht => ?unpack, computes_bxd⟩
  case int => exact computes_congr computes_cvt fun _ _ => converted_of_int sat _ _ _ _ hs
  case float =>
    exact computes_congr computes_cvt fun _ _ => by rw [converted_to_float sat _ _ _ _ hs hf ht, hp, if_neg Bool.false_ne_true]
  case toInt => exact computes_congr computes_cvt fun _ _ => converted_to_int sat _ _ _ _ hs hp hf
  case pack => exact computes_congr computes_cvt fun _ _ => by rw [converted_to_packed sat _ _ _ _ hs ht, hp, if_neg Bool.false_ne_true]
  case repack =>
    exact computes_congr computes_cvt fun _ _ => by
      rw [converted_to_packed sat _ _ _ _ (isFloat_of_isPacked hp) ht, if_pos hp, els, List.map_map]; rfl
  case unpack =>
    exact computes_congr computes_cvt fun _ _ => by rw [converted_to_float sat _ _ _ _ (isFloat_of_isPacked hp) hf ht, if_pos hp]

/-! ### Long-latency instructions (R126 to R128) -/

section
variable {i : Instr} {h : Hdr} {mod : BitVec 3} {d a b : Opnd} {imm : Word}

theorem awaits_fdiv : Awaits (.fdiv h mod d a b imm) h d (fun s u => elemRes [divOf (rc s u mod)
    (FV.ofBits .f32 (ftzOf (lane s u).frm) (rd s u .f32 a imm)) (FV.ofBits .f32 (ftzOf (lane s u).frm) (rd s u .f32 b imm))]) :=
  awaits_of_operandLocal
    (f := fun g t => elemRes [divOf (rcOf g t mod) (FV.ofBits .f32 (rcOf g t mod).ftz (readTy g t .f32 a imm))
      (FV.ofBits .f32 (rcOf g t mod).ftz (readTy g t .f32 b imm))])
    (((operandLocal_rcOf mod).map₂ (operandLocal_readTy .f32 a imm) fun c x y =>
      elemRes [divOf c (FV.ofBits .f32 c.ftz x) (FV.ofBits .f32 c.ftz y)]).map₂ (operandLocal_readTy .f32 b imm) id) (fun _ => rfl)

/-- A long-latency instruction on one value. -/
theorem awaits_of_value (f : Rc → FV → Nat × Word) (hexec : ∀ s, exec i s = .next (execRegLL h d
      (fun g t => elemRes [f (rcOf g t mod) (FV.ofBits .f32 (rcOf g t mod).ftz (readTy g t .f32 a imm))]) s)) :
    Awaits i h d (fun s u => elemRes [f (rc s u mod) (FV.ofBits .f32 (ftzOf (lane s u).frm) (rd s u .f32 a imm))]) :=
  awaits_of_operandLocal (f := fun g t => elemRes [f (rcOf g t mod) (FV.ofBits .f32 (rcOf g t mod).ftz (readTy g t .f32 a imm))])
    ((operandLocal_rcOf mod).map₂ (operandLocal_readTy .f32 a imm) fun c x => elemRes [f c (FV.ofBits .f32 c.ftz x)]) hexec

/-- An approximate function, of the value and FTZ alone. -/
theorem awaits_approxOp (f : Bool → FV → Nat × Word) (hexec : ∀ s, exec i s = .next (approxOp h d a imm f s)) :
    Awaits i h d (fun s u =>
      elemRes [f (ftzOf (lane s u).frm) (FV.ofBits .f32 (ftzOf (lane s u).frm) (rd s u .f32 a imm))]) :=
  awaits_of_value (mod := 0) (fun c => f c.ftz) hexec

end

theorem floatLongLatencyResults : FloatLongLatencyResults := fun _ _ _ _ _ _ =>
  ⟨awaits_fdiv, awaits_of_value sqrtOf (fun _ => rfl), awaits_approxOp rcpOf (fun _ => rfl), awaits_approxOp rsqOf (fun _ => rfl),
    awaits_approxOp exp2Of (fun _ => rfl), awaits_approxOp log2Of (fun _ => rfl), awaits_approxOp tanhOf (fun _ => rfl)⟩

/-- Settles O6: each part a theorem above. -/
theorem floatConversionAndRootResults : Obligations.FloatConversionAndRootResults := ⟨floatConversionResults, floatLongLatencyResults⟩

end Sys2Proof.Machine
end

section
/-!
PROOFS. The frames of the collective instructions: exchanges and votes between the lanes of a group (07 R135).
-/
namespace Sys2Proof.Machine
open Sys2Proof.Claims

/-! ### A write of what is there already -/

/-- An element within a list. -/
theorem getD_of_lt {α : Type} {l : List α} {n : Nat} (hn : n < l.length) (e : α) : l.getD n e = l[n] := by
  rw [List.getD_eq_getElem?_getD, List.getElem?_eq_getElem hn, Option.getD_some]

/-- A pass of steps that each leave the state it starts from. -/
theorem foldl_of_fixed {α β : Type} {f : β → α → β} {b : β} (hf : ∀ a, f b a = b) (l : List α) : l.foldl f b = b := by
  induction l with
  | nil => rfl
  | cons a l ih => rw [List.foldl_cons, hf, ih]

/-- A write of the value that a canonical map holds leaves it. -/
theorem SMap.set_of_get {α : Type} [DecidableEq α] {e : α} {m : List (Nat × α)} {lo i : Nat} {x : α} (hwf : wfFrom e lo m = true)
    (hget : get e m i = x) : set e m i x = m := by
  induction m generalizing lo with
  | nil => exact if_pos hget.symm
  | cons p m ih =>
    obtain ⟨k, v⟩ := p
    simp only [wfFrom, Bool.and_eq_true, decide_eq_true_eq] at hwf
    obtain ⟨⟨-, hv⟩, hwf⟩ := hwf
    rw [get] at hget
    rw [set]
    rcases Nat.lt_trichotomy i k with hik | rfl | hik
    · rw [if_neg (Nat.ne_of_lt hik), if_pos hik] at hget
      rw [if_pos hik, if_pos hget.symm]
    · rw [if_pos rfl] at hget
      rw [if_neg (Nat.lt_irrefl i), if_pos rfl, if_neg (hget ▸ hv), hget]
    · rw [if_neg (Nat.ne_of_gt hik), if_neg (Nat.lt_asymm hik)] at hget
      rw [if_neg (Nat.lt_asymm hik), if_neg (Nat.ne_of_gt hik), ih hwf hget]

theorem SMap.setMany_of_get {α : Type} [DecidableEq α] {e : α} {m : List (Nat × α)} (hwf : wf e m = true) (xs : List α) (i : Nat)
    (hget : ∀ j (hj : j < xs.length), get e m (i + j) = xs[j]) : setMany e m i xs = m := by
  induction xs generalizing i with
  | nil => rfl
  | cons x xs ih =>
    have hhead : set e m i x = m := set_of_get hwf (hget 0 (Nat.succ_pos _))
    rw [setMany, hhead]
    exact ih (i + 1) fun j hj => (congrArg (get e m) (Nat.succ_add_eq_add_succ i j)).trans (hget (j + 1) (Nat.succ_lt_succ hj))

theorem SMap.setMany_setMany {α : Type} [DecidableEq α] {e : α} {m : List (Nat × α)} (hwf : wf e m = true) (i : Nat) (xs : List α) :
    setMany e (setMany e m i xs) i xs = setMany e m i xs :=
  setMany_of_get (setMany_wf i xs hwf) xs i fun j hj => by
    rw [get_setMany _ _ _ hwf, if_pos ⟨Nat.le_add_right i j, Nat.add_lt_add_left hj i⟩, Nat.add_sub_cancel_left]
    exact getD_of_lt hj e

/-- Values written to consecutive uniform registers, each of which replaces data that was uncorrectable. -/
theorem putU_eq (x : Group) (n : Nat) (vals : List Word) :
    putU x n vals = { u := SMap.setMany 0 x.u n vals, badu := SMap.clearRange x.badu n vals.length } := by
  induction vals generalizing x n with
  | nil =>
    have : x.badu.filter (fun e => !(decide (n ≤ e.1) && decide (e.1 < n + 0))) = x.badu :=
      List.filter_eq_self.mpr fun e _ => by simp [Nat.lt_or_ge]
    simp only [putU, SMap.setMany, SMap.clearRange, List.length_nil, this]
  | cons v vals ih =>
    rw [putU, ih, Group.wu, SMap.setMany, SMap.clearRange, SMap.del, List.filter_filter]
    congr 1
    refine List.filter_congr fun e _ => ?_
    rw [Bool.eq_iff_iff]
    simp only [List.length_cons, Bool.and_eq_true, Bool.not_eq_true', Bool.and_eq_false_iff, decide_eq_false_iff_not, bne_iff_ne]
    omega

/-- A result written twice to uniform registers in their canonical form is written once. -/
theorem gotU_gotU (d : Opnd) (vals : List Word) {x : Group} (hwf : SMap.wf 0 x.u = true) :
    gotU d vals (gotU d vals x) = gotU d vals x := by
  cases d with
  | s n =>
    simp only [gotU, putU_eq, SMap.setMany_setMany hwf, SMap.clearRange, List.filter_filter, Bool.and_self]
  | _ => rfl

/-! ### The frame of an exchange -/

/-- The state with the results of the active lanes in a destination, and their flags raised. Each lane writes in turn: a uniform destination
is written once for each of them. -/
def gotEach (h : Hdr) (d : Opnd) (f : Nat → Res) (s : State) : State :=
  modWg s s.bundle.wg (fun g => g.mapBoth
    (fun u th => if u ∈ acting h true s then raised h (f u).flags (gotV d (f u).vals th) else th)
    (fun k x => (actingIn h true s k).foldl (fun x u => gotU d (f u).vals x) x))

theorem gotV_of_uniform {d : Opnd} (hd : isUni d = true) (vals : List Word) (th : Thread) : gotV d vals th = th := by
  cases d with
  | s n => rfl
  | _ => exact absurd hd Bool.false_ne_true

theorem gotU_of_vector {d : Opnd} (hd : isUni d = false) (vals : List Word) (x : Group) : gotU d vals x = x := by
  cases d with
  | s n => exact absurd hd.symm Bool.false_ne_true
  | _ => rfl

/-- One lane's write of its result, with its flags. -/
theorem orFlags_writeAll (h : Hdr) (fl : Word) (g : Wg) (t : Nat) (d : Opnd) (vals : List Word) :
    orFlags h fl (g.writeAll t (regWrites d vals)) t = g.mapBoth (fun u th => if u = t then raised h fl (gotV d vals th) else th)
      (fun k x => if k = grpOf t then gotU d vals x else x) := by
  by_cases hd : isUni d = true
  · rw [writeAll_regWrites_uniform _ _ _ _ hd, orFlags_eq, Wg.modGroup_eq, Wg.modTh_eq_mapTh, Wg.mapTh_eq_mapBoth, Wg.mapBoth_mapBoth]
    simp only [gotV_of_uniform hd]
  · have hd : isUni d = false := Bool.not_eq_true _ ▸ hd
    rw [writeAll_regWrites_vector _ _ _ _ hd, orFlags_eq, Wg.modTh_modTh, Wg.modTh_eq_mapTh, Wg.mapTh_eq_mapBoth]
    simp only [gotU_of_vector hd, ite_self]

/-- The writes of several lanes, one after another. -/
theorem foldl_orFlags_writeAll (h : Hdr) (d : Opnd) (f : Nat → Res) (al : List Nat) (hn : al.Nodup) (g : Wg) :
    al.foldl (fun g t => orFlags h (f t).flags (g.writeAll t (regWrites d (f t).vals)) t) g = g.mapBoth
      (fun u th => if u ∈ al then raised h (f u).flags (gotV d (f u).vals th) else th)
      (fun k x => (al.filter (fun u => grpOf u == k)).foldl (fun x u => gotU d (f u).vals x) x) := by
  induction al generalizing g with
  | nil => exact (Wg.mapBoth_id g).symm
  | cons t al ih =>
    obtain ⟨ht, hn⟩ := List.nodup_cons.mp hn
    rw [List.foldl_cons, ih hn, orFlags_writeAll, Wg.mapBoth_mapBoth]
    congr 1
    · funext u th
      by_cases hu : u = t
      · subst hu; simp [ht]
      · simp [hu]
    · funext k x
      by_cases hk : grpOf t = k
      · simp [hk]
      · simp [hk, Ne.symm hk]

theorem writePred_eq (g : Wg) (t : Nat) (d : Opnd) (b : Bool) : writePred g t d b = g.modTh t (gotP d b) := by
  cases d with
  | p n => rfl
  | _ => exact (Wg.modTh_id g t).symm

theorem foldl_writePred (d : Opnd) (f : Nat → Bool) (al : List Nat) (hn : al.Nodup) (g : Wg) :
    al.foldl (fun g t => writePred g t d (f t)) g = g.mapTh (fun u th => if u ∈ al then gotP d (f u) th else th) := by
  induction al generalizing g with
  | nil => exact (Wg.mapTh_id g).symm
  | cons t al ih =>
    obtain ⟨ht, hn⟩ := List.nodup_cons.mp hn
    rw [List.foldl_cons, ih hn, writePred_eq, Wg.modTh_eq_mapTh, Wg.mapTh_mapTh]
    congr 1; funext u th
    by_cases hu : u = t
    · subst hu; simp [ht]
    · simp [hu]

/-- Changes of threads and groups, and the leave of every lane of the bundle. -/
theorem leaveAll_mapBoth (s : State) (F : Nat → Thread → Thread) (G : Nat → Group → Group) :
    leaveAll false (modWg s s.bundle.wg (fun g => g.mapBoth F G)) =
      modWg s s.bundle.wg (fun g => (g.mapBoth F G).mapTh (fun u th => if u ∈ s.bundle.lanes then leave false s th else th)) := by
  have hsame : SameRegs s s.bundle.wg (modWg s s.bundle.wg (fun g => g.mapBoth F G)) := ⟨F, G, rfl⟩
  have hleave : leave false (modWg s s.bundle.wg (fun g => g.mapBoth F G)) = leave false s := funext fun th => by
    simp only [leave, cur, hsame.bundle, hsame.seqLen]
  rw [leaveAll, mapLanes_eq, hleave]
  exact modWg_modWg ..

section
variable {h : Hdr} {s : State} {k : Nat}

/-- `execLanes` in a bundle of one group (R135). -/
theorem execLanes_eq {d : Opnd} {f : Wg → List Nat → Nat → Res} (hr : Rising s.bundle.lanes) (hk : OneGroup h true s k) :
    execLanes h d f s = leaveAll false (gotEach h d (f (cur s) (acting h true s)) s) := by
  rw [execLanes, perGroup_one hk, gotEach, leaveAll_mapBoth]
  dsimp only
  rw [List.foldl_map, foldl_orFlags_writeAll h d (f (cur s) (acting h true s)) _ (acting_nodup hr)]
  refine (foldl_adv_group _ (hr.imp Nat.ne_of_lt) ⟨_, _, rfl⟩).trans ?_
  exact modWg_modWg ..

/-- `execVotes` in a bundle of one group (R135). -/
theorem execVotes_eq {d : Opnd} {f : Wg → List Nat → Nat → Bool} (hr : Rising s.bundle.lanes) (hk : OneGroup h true s k) :
    execVotes h d f s =
      leaveAll false (onActing h true s (fun u th => gotP d (f (cur s) (acting h true s) u) th)) := by
  rw [execVotes, perGroup_one hk, onActing, mapLanes_eq]
  simp only [Wg.mapTh_eq_mapBoth, leaveAll_mapBoth]
  simp only [← Wg.mapTh_eq_mapBoth, List.foldl_map]
  rw [foldl_writePred d (f (cur s) (acting h true s)) _ (acting_nodup hr)]
  refine (foldl_adv_group _ (hr.imp Nat.ne_of_lt) (SameBut.regs ⟨_, rfl⟩)).trans ?_
  exact modWg_modWg ..

/-- With a destination that is no uniform register, each lane has its own result. -/
theorem gotEach_of_vector {d : Opnd} (hd : isUni d = false) (f : Nat → Res) : gotEach h d f s = gotAll h d f s := by
  have hgroups : ∀ l x, List.foldl (fun x u => gotU d (f u).vals x) x l = x := fun l x =>
    foldl_of_fixed (fun u => gotU_of_vector hd (f u).vals x) l
  rw [onActing_gotV h s d f hd, onActing, mapLanes_eq]
  simp only [gotEach, hgroups, Wg.mapTh_eq_mapBoth]

/-- `gotAll` as one change of the workgroup: a group has the result of its lowest active lane. -/
theorem gotAll_eq (d : Opnd) (f : Nat → Res) : gotAll h d f s = modWg s s.bundle.wg (fun g => g.mapBoth
    (fun u th => if u ∈ acting h true s then raised h (f (source h true s d u)).flags (gotV d (f u).vals th) else th)
    (fun k x => if actingIn h true s k = [] then x else gotU d (f ((actingIn h true s k).headD 0)).vals x)) := by
  have hgroup : ∀ (al : List Nat) (x : Group), (if al = [] then x else gotU d (f (al.headD 0)).vals x) =
      match al with | u :: _ => gotU d (f u).vals x | [] => x := fun al _ => by cases al <;> rfl
  simp only [hgroup]
  rw [gotAll, mapGroups, onCur_eq, onActing, mapLanes_eq]
  exact modWg_modWg ..

theorem head_mem_acting {k : Nat} (hne : actingIn h true s k ≠ []) : (actingIn h true s k).headD 0 ∈ acting h true s := by
  obtain ⟨u, l, hul⟩ := List.exists_cons_of_ne_nil hne
  have hu : u ∈ actingIn h true s k := hul ▸ List.mem_cons_self
  exact hul ▸ (mem_actingIn.mp hu).1

theorem source_mem_acting {d : Opnd} {u : Nat} (hu : u ∈ acting h true s) : source h true s d u ∈ acting h true s := by
  unfold source
  split
  · exact head_mem_acting (List.ne_nil_of_mem (mem_actingIn.mpr ⟨hu, rfl⟩))
  · exact hu

/-- The results of the active lanes are all that counts. -/
theorem gotAll_congr {d : Opnd} {f f' : Nat → Res} (hf : ∀ u ∈ acting h true s, f u = f' u) : gotAll h d f s = gotAll h d f' s := by
  rw [gotAll_eq, gotAll_eq]
  congr 1; funext g; congr 1
  · funext u th
    split
    next hu => rw [hf _ (source_mem_acting hu), hf u hu]
    next => rfl
  · funext k x
    split
    next => rfl
    next hne => rw [hf _ (head_mem_acting hne)]

theorem onActing_congr {F F' : Nat → Thread → Thread} (hF : ∀ u ∈ acting h true s, F u = F' u) :
    onActing h true s F = onActing h true s F' := by
  rw [onActing, onActing]
  congr 1; funext u th
  split
  next hu => rw [hF u hu]
  next => rfl

/-- One result for all lanes: writing it again changes nothing, where the group's registers are canonical. -/
theorem gotEach_const (d : Opnd) (r : Res) (hk : OneGroup h true s k) (hwf : SMap.wf 0 (getGroup (cur s) k).u = true) :
    gotEach h d (fun _ => r) s = gotAll h d (fun _ => r) s := by
  have hgroups : (cur s).groups.mapIdx (fun j x => (actingIn h true s j).foldl (fun x _ => gotU d r.vals x) x) =
      (cur s).groups.mapIdx (fun j x => if actingIn h true s j = [] then x else gotU d r.vals x) := by
    refine List.mapIdx_eq_mapIdx_iff.mpr fun j hj => ?_
    cases hact : actingIn h true s j with
    | nil => rfl
    | cons u l =>
      have hu := mem_actingIn.mp (hact ▸ List.mem_cons_self : u ∈ actingIn h true s j)
      have hjk : j = k := hu.2.symm.trans (hk.1 u (mem_acting.mp hu.1).1)
      have hget : (cur s).groups[j] = getGroup (cur s) k := hjk ▸ (getD_of_lt hj _).symm
      rw [if_neg (List.cons_ne_nil u l), List.foldl_cons, hget]
      exact foldl_of_fixed (fun _ => gotU_gotU d r.vals hwf) l
  have hmod : ∀ F G G', (cur s).groups.mapIdx G = (cur s).groups.mapIdx G' →
      modWg s s.bundle.wg (fun g => g.mapBoth F G) = modWg s s.bundle.wg (fun g => g.mapBoth F G') := fun F G G' hG =>
    congrArg (setWg s s.bundle.wg) (congrArg (fun gs => { cur s with threads := (cur s).threads.mapIdx F, groups := gs }) hG)
  rw [gotEach, hmod _ _ _ hgroups, gotAll_eq]

end

theorem acting_rising {h : Hdr} {helpers : Bool} {s : State} (hr : Rising s.bundle.lanes) : Rising (acting h helpers s) :=
  hr.sublist List.filter_sublist

/-! ### Collective instructions -/

section
variable {i : Instr} {h : Hdr} {d : Opnd}

theorem exchanges_of_vector {f : Wg → List Nat → Nat → Res} {F : State → List Nat → Nat → Res} (hd : isUni d = false)
    (hexec : ∀ s, exec i s = .next (execLanes h d f s)) (hf : ∀ s al, Rising al → ∀ u ∈ al, f (cur s) al u = F s al u) :
    Exchanges i h d F := fun s _ hr hk => by
  rw [hexec, execLanes_eq hr hk, gotEach_of_vector hd, gotAll_congr (hf s _ (acting_rising hr))]

theorem votes_of_execVotes {f : Wg → List Nat → Nat → Bool} {F : State → List Nat → Nat → Bool}
    (hexec : ∀ s, exec i s = .next (execVotes h d f s)) (hf : ∀ s al, Rising al → ∀ u ∈ al, f (cur s) al u = F s al u) :
    Votes i h d F := fun s _ hr hk => by
  rw [hexec, execVotes_eq hr hk, onActing_congr fun u hu => by rw [hf s _ (acting_rising hr) u hu]]

/-- What `Exchanges` says, for a state whose group has its uniform registers in their canonical form. -/
def ExchangesCanonical (i : Instr) (h : Hdr) (d : Opnd) (f : State → List Nat → Nat → Res) : Prop :=
  ∀ s k, Rising s.bundle.lanes → OneGroup h true s k → SMap.wf 0 (getGroup (cur s) k).u = true →
    exec i s = .next (leaveAll false (gotAll h d (f s (acting h true s)) s))

theorem exchangesCanonical_of_const {f : Wg → List Nat → Res} {F : State → List Nat → Res}
    (hexec : ∀ s, exec i s = .next (execLanes h d (fun g al _ => f g al) s)) (hf : ∀ s al, f (cur s) al = F s al) :
    ExchangesCanonical i h d (fun s al _ => F s al) := fun s _ hr hk hwf => by
  rw [hexec, execLanes_eq hr hk, gotEach_const d _ hk hwf, hf]

end

end Sys2Proof.Machine
end

section
/-!
PROOFS. Exchanges between lanes, masks and votes (07 R136 to R139).
-/
namespace Sys2Proof.Machine
open Sys2Proof.Claims

/-! ### What a lane reads of another (R135, R137, R138) -/

theorem laneRead_eq_fromLane (s : State) (al : List Nat) (ty : Ty) (a : Opnd) (u src : Nat) :
    laneRead (cur s) al ty a u src = fromLane s al ty a u src := by
  simp only [laneRead, fromLane, List.contains_iff_mem]
  rfl

/-- The source lane of `shfl`, by the mode's code. -/
theorem shflSrc_eq (sub : BitVec 4) (S l n : Nat) : shflSrc sub S l n =
    let i := l % S
    if sub = 0 then l - i + n % S else if sub = 1 then (if i ≥ n then l - n else l)
      else if sub = 2 then (if i + n < S then l + n else l) else l - i + (i ^^^ n) % S := by
  unfold shflSrc
  simp only [← BitVec.toNat_inj]
  generalize sub.toNat = code
  match code with
  | 0 => rfl
  | 1 => rfl
  | 2 => rfl
  | _ + 3 => rfl

theorem group_base (u : Nat) : 32 * grpOf u = u - u % 32 := by
  unfold grpOf
  omega

/-! ### Masks and votes (R139) -/

theorem laneMask_eq_maskOf (al : List Nat) (f : Nat → Bool) : laneMask al f = maskOf al f := by
  rw [laneMask, maskOf, List.sum_eq_foldl, List.foldl_map]

/-- All lanes agree when they all agree with the lowest one. -/
theorem all_or_none_eq {al : List Nat} (hne : al ≠ []) (p : Nat → Bool) :
    (al.all p || !al.any p) = al.all (fun u => p u == p (al.headD 0)) := by
  obtain ⟨v, l, rfl⟩ := List.exists_cons_of_ne_nil hne
  cases hv : p v
  case true => simp [hv]
  case false => simp [hv, List.any_eq_not_all_not]

/-- The kind of a vote by its code. -/
theorem vote_eq {al : List Nat} (hne : al ≠ []) (sub : BitVec 4) (p : Nat → Bool) :
    (match sub.toNat with | 0 => al.all p | 1 => al.any p | _ => al.all p || !al.any p) =
      if sub = 0 then al.all p else if sub = 1 then al.any p else al.all (fun u => p u == p (al.headD 0)) := by
  rw [← all_or_none_eq hne]
  simp only [← BitVec.toNat_inj]
  generalize sub.toNat = code
  match code with
  | 0 => rfl
  | 1 => rfl
  | _ + 2 => rfl

/-- The lowest of rising lanes is their first. -/
theorem beq_headD_eq {al : List Nat} (hr : Rising al) {u : Nat} (hu : u ∈ al) :
    (u == al.headD 0) = al.all (fun v => decide (u ≤ v)) := by
  cases al with
  | nil => exact absurd hu List.not_mem_nil
  | cons v l =>
    have hlow : ∀ x ∈ v :: l, v ≤ x := List.forall_mem_cons.mpr
      ⟨Nat.le_refl v, fun x hx => Nat.le_of_lt ((List.pairwise_cons.mp hr).1 x hx)⟩
    rw [Bool.eq_iff_iff, beq_iff_eq, List.all_eq_true]
    simp only [decide_eq_true_eq]
    exact ⟨fun h => h ▸ hlow, fun h => Nat.le_antisymm (h v List.mem_cons_self) (hlow u hu)⟩

section
variable {h : Hdr} {ty : Ty} {mod : BitVec 3} {sub : BitVec 4} {d a b : Opnd} {imm : Word}

theorem exchanges_shfl (hd : isUni d = false) : Exchanges (.shfl h ty mod sub d a b imm) h d (fun s al u =>
    let S := 32 >>> mod.toNat
    let l := u % 32
    let i := l % S
    let n := rd s u .n32 b imm
    let src := if sub = 0 then l - i + n % S else if sub = 1 then (if i ≥ n then l - n else l)
      else if sub = 2 then (if i + n < S then l + n else l) else l - i + (i ^^^ n) % S
    fromLane s al ty a u (u - l + src)) :=
  exchanges_of_vector hd (fun _ => rfl) fun s al _ u _ => by
    rw [laneRead_eq_fromLane, group_base, shflSrc_eq, ← Nat.shiftRight_eq_div_pow]
    rfl

theorem exchanges_qswap (hd : isUni d = false) : Exchanges (.qswap h ty sub d a) h d (fun s al u =>
    fromLane s al ty a u (u ^^^ (sub.toNat + 1))) :=
  exchanges_of_vector hd (fun _ => rfl) fun s al _ u _ => laneRead_eq_fromLane s al ty a u _

theorem exchanges_qbcast (hd : isUni d = false) : Exchanges (.qbcast h ty d a b imm) h d (fun s al u =>
    fromLane s al ty a u (u - u % 4 + rd s u .n32 b imm % 4)) :=
  exchanges_of_vector hd (fun _ => rfl) fun s al _ u _ => laneRead_eq_fromLane s al ty a u _

theorem exchanges_matchLanes (hd : isUni d = false) : Exchanges (.matchLanes h ty d a) h d (fun s al u =>
    val .b32 (maskOf al (fun v => rd s v ty a 0 == rd s u ty a 0))) :=
  exchanges_of_vector hd (fun _ => rfl) fun _ al _ _ _ => congrArg wordRes (laneMask_eq_maskOf al _)

theorem exchanges_ballot (hd : isUni d = false) : Exchanges (.ballot h d a) h d (fun s al _ =>
    val .b32 (maskOf al (fun u => pr s u a))) :=
  exchanges_of_vector hd (fun _ => rfl) fun _ al _ _ _ => congrArg wordRes (laneMask_eq_maskOf al _)

theorem exchangesCanonical_ballot : ExchangesCanonical (.ballot h d a) h d (fun s al _ =>
    val .b32 (maskOf al (fun u => pr s u a))) :=
  exchangesCanonical_of_const (fun _ => rfl) fun _ al => congrArg wordRes (laneMask_eq_maskOf al _)

end

theorem voteResults : VoteResults := fun _ sub _ _ =>
  ⟨votes_of_execVotes (fun _ => rfl) fun _ _ _ _ hu => vote_eq (List.ne_nil_of_mem hu) sub _,
    votes_of_execVotes (fun _ => rfl) fun _ _ hr _ hu => beq_headD_eq hr hu⟩

/-! ### A uniform destination in a map that is not canonical -/

/-- A state that no run reaches: two active lanes, whose group's map lists uniform register 0 twice. -/
def listedTwice : State :=
  let th : Thread := { Thread.none with kind := .real, live := true }
  { State.reset with
    wgs := [{ Wg.none with threads := [th, th], groups := [{ u := [(0, 1), (0, 1)], badu := [] }] }]
    bundle := { wg := 0, lanes := [0, 1] } }

/-- The uniform registers of group 0 after an instruction. -/
def uniformsAfter (r : Host.Outcome State Fault Refusal) : List (Nat × Word) :=
  match r with
  | .next s => (getGroup (getWg s 0) 0).u
  | _ => []

theorem oneGroup_listedTwice : OneGroup .plain true listedTwice 0 := ⟨by decide, by decide⟩

/-- Refutes O7: `execLanes` writes a uniform destination once for each active lane, and a write of 0 takes one entry out of the map.
In `listedTwice` a `ballot` of a false predicate takes both, where one write leaves the second. With the premise that the group's
uniform registers are canonical the clause of `ballot` holds (`exchangesCanonical_ballot`), and without it for a vector destination
(`exchanges_ballot`); the other clauses hold as they stand (`exchanges_shfl`, `exchanges_qswap`, `exchanges_qbcast`,
`exchanges_matchLanes`, `voteResults`). -/
theorem not_laneExchangeAndVoteResults : ¬ Obligations.LaneExchangeAndVoteResults := by
  rintro ⟨hexchanges, -⟩
  obtain ⟨-, -, -, hballot, -⟩ := hexchanges .plain .b32 0 0 (.s 0) (.p 0) (.imm 0) 0
  have hregs := congrArg uniformsAfter (hballot listedTwice 0 (by decide) oneGroup_listedTwice)
  exact absurd hregs (by decide)

end Sys2Proof.Machine
end

section
/-!
PROOFS. Scans and reductions, and block quantisation (07 R132, R133, R140).
-/
namespace Sys2Proof.Machine
open Sys2Proof.Claims

/-! ### One step of the chain (R140) -/

/-- The value of an f32 encoding, class by class. -/
theorem ofBits_f32 (ftz : Bool) (x : Nat) : FV.ofBits .f32 ftz x =
    if x / 2 ^ 23 % 2 ^ 8 = 255 then (if x % 2 ^ 23 = 0 then .inf (bit x 31) else .nan (!bit x 22))
    else if x / 2 ^ 23 % 2 ^ 8 = 0 then .num (bit x 31) (if ftz then 0 else x % 2 ^ 23) (1 - 127 - 23)
    else .num (bit x 31) (x % 2 ^ 23 + 2 ^ 23) (((x / 2 ^ 23 % 2 ^ 8 : Nat) : Int) - 127 - 23) := rfl

theorem flushed_f32 (ftz : Bool) (x : Nat) :
    flushed .f32 ftz x = if ftz && x / 2 ^ 23 % 2 ^ 8 == 0 then Fmt.f32.zero (bit x 31) else x := rfl

theorem ofBits_zero_f32 (n : Bool) : FV.ofBits .f32 false (Fmt.f32.zero n) = .num n 0 (-149) := by
  cases n <;> decide

/-- An encoding of 32 bits whose exponent and fraction are zero is a zero. -/
theorem zero_bit_eq {x : Nat} (hx : x < 2 ^ 32) (he : x / 2 ^ 23 % 2 ^ 8 = 0) (hf : x % 2 ^ 23 = 0) : Fmt.f32.zero (bit x 31) = x := by
  have hsign : bit x 31 = decide (x = 2 ^ 31) := by
    unfold bit
    rw [Bool.eq_iff_iff, beq_iff_eq, decide_eq_true_eq]
    omega
  have hzero : ∀ b : Bool, Fmt.f32.zero b = if b then 2 ^ 31 else 0 := by decide
  rw [hsign, hzero]
  split
  next h => exact (of_decide_eq_true h).symm
  next h =>
    have := of_decide_eq_false (Bool.eq_false_iff.mpr h)
    omega

/-- How a value of an f32 chain is read: by its class. -/
theorem scanEnter_f32 {op : Nat} (hop : op = 1 ∨ op = 2 ∨ op = 6) (c : Rc) {x : Nat} (hx : x < 2 ^ 32) :
    scanEnter op .f32 c x = scanRead c.ftz x := by
  have hcond : Ty.f32 = .f32 ∧ (op = 6 ∨ op = 1 ∨ op = 2) := ⟨rfl, by omega⟩
  rw [scanEnter, if_pos hcond, scanRead, flushed_f32, ofBits_f32]
  by_cases hmax : x / 2 ^ 23 % 2 ^ 8 = 255
  · have hflush : (c.ftz && x / 2 ^ 23 % 2 ^ 8 == 0) = false := by rw [hmax]; exact Bool.and_false _
    simp only [hflush, Bool.false_eq_true, if_false, ofBits_f32, if_pos hmax]
    split
    · rfl
    · cases bit x 22 <;> rfl
  · rw [if_neg hmax]
    by_cases hsub : x / 2 ^ 23 % 2 ^ 8 = 0
    · rw [if_pos hsub, hsub]
      cases c.ftz
      · simp only [Bool.false_and, Bool.false_eq_true, if_false, ofBits_f32, if_neg hmax, if_pos hsub]
        cases hf : x % 2 ^ 23 with
        | zero => simp [FV.isNan, sigFlags, FV.sig, zero_bit_eq hx hsub hf]
        | succ m => rfl
      · simp only [Bool.true_and, beq_self_eq_true, if_true, ofBits_zero_f32]
        rfl
    · have hflush : (c.ftz && x / 2 ^ 23 % 2 ^ 8 == 0) = false := by rw [beq_eq_false_iff_ne.mpr hsub]; exact Bool.and_false _
      obtain ⟨m, hm⟩ := Nat.exists_eq_succ_of_ne_zero (show x % 2 ^ 23 + 2 ^ 23 ≠ 0 by omega)
      simp only [hflush, Bool.false_eq_true, if_false, ofBits_f32, if_neg hmax, if_neg hsub, hm]
      rfl

/-- What `scanChain` makes of one more value: the running result with it, and the flags. -/
def chainStep (op : Nat) (ty : Ty) (c : Rc) (acc : Option Nat) (x : Nat) : Nat × Word :=
  let e := scanEnter op ty c x
  let r := match acc with
    | none => (e.1, 0)
    | some y => scanStep op ty c y e.1
  (r.1, e.2 ||| r.2)

theorem scanChain_cons (op : Nat) (ty : Ty) (c : Rc) (acc : Option Nat) (x : Nat) (xs : List Nat) :
    scanChain op ty c acc (x :: xs) =
      let r := chainStep op ty c acc x
      let t := scanChain op ty c (some r.1) xs
      ((acc, r.1) :: t.1, r.2 ||| t.2) := rfl

/-- The operations and types of R140. -/
def ScanOp (op : Nat) (ty : Ty) : Prop := if ty = .f32 then op = 1 ∨ op = 2 ∨ op = 6 else op < 6

theorem scanStep_eq_scanInt {op : Nat} {ty : Ty} (hop : op < 6) (hty : ty ≠ .f32) (c : Rc) (y x : Nat) :
    scanStep op ty c y x = (scanInt op ty y x, 0) := by
  match op with
  | 0 => rfl
  | 1 => simp only [scanStep, scanInt, if_neg hty, ← Int.not_lt, ite_not]
  | 2 => simp only [scanStep, scanInt, if_neg hty, ge_iff_le, ← Int.not_lt, ite_not]
  | 3 => rfl
  | 4 => rfl
  | 5 => rfl

theorem scanStep_f32 {op : Nat} (hop : op = 1 ∨ op = 2 ∨ op = 6) (c : Rc) (y x : Nat) : scanStep op .f32 c y x =
    if op = 6 then sumOf .f32 c [FV.ofBits .f32 c.ftz y, FV.ofBits .f32 c.ftz x] else minMaxOf (op == 2) .f32 c y x := by
  rcases hop with rfl | rfl | rfl <;> rfl

/-- The step of the obligation is the model's, with its flags added to those before. -/
theorem scanNext_eq {op : Nat} {ty : Ty} (hop : ScanOp op ty) (c : Rc) (acc : Option Nat) (fl : Word) {x : Nat} (hx : x < 2 ^ ty.width) :
    scanNext op ty c (acc, fl) x = (some (chainStep op ty c acc x).1, fl ||| (chainStep op ty c acc x).2) := by
  unfold ScanOp at hop
  by_cases hty : ty = .f32
  · subst hty
    rw [if_pos rfl] at hop
    unfold scanNext chainStep
    rw [if_pos rfl, scanEnter_f32 hop c hx]
    cases acc with
    | none => simp
    | some y => simp only [scanStep_f32 hop, BitVec.or_assoc]
  · rw [if_neg hty] at hop
    have henter : scanEnter op ty c x = (x, 0) := if_neg (fun h => hty h.1)
    unfold scanNext chainStep
    rw [if_neg hty, henter]
    cases acc with
    | none => simp
    | some y => simp [scanStep_eq_scanInt hop hty]

/-! ### The chain -/

section
variable {op : Nat} {ty : Ty} (hop : ScanOp op ty) (c : Rc)
include hop

theorem foldl_scanNext_flags (acc : Option Nat) (fl : Word) (xs : List Nat) (hxs : ∀ x ∈ xs, x < 2 ^ ty.width) :
    (xs.foldl (scanNext op ty c) (acc, fl)).2 = fl ||| (scanChain op ty c acc xs).2 := by
  induction xs generalizing acc fl with
  | nil => exact (BitVec.or_zero).symm
  | cons x xs ih =>
    obtain ⟨hx, hxs⟩ := List.forall_mem_cons.mp hxs
    rw [List.foldl_cons, scanNext_eq hop c acc fl hx, ih _ _ hxs, scanChain_cons]
    exact BitVec.or_assoc ..

/-- What the chain says at a value: the running result before it, and with it. -/
theorem scanChain_getD (acc : Option Nat) (fl : Word) (xs : List Nat) (hxs : ∀ x ∈ xs, x < 2 ^ ty.width) {n : Nat} (hn : n < xs.length) :
    ((xs.take n).foldl (scanNext op ty c) (acc, fl)).1 = ((scanChain op ty c acc xs).1.getD n (none, 0)).1 ∧
    ((xs.take (n + 1)).foldl (scanNext op ty c) (acc, fl)).1 = some ((scanChain op ty c acc xs).1.getD n (none, 0)).2 := by
  induction xs generalizing acc fl n with
  | nil => exact absurd hn (Nat.not_lt_zero n)
  | cons x xs ih =>
    obtain ⟨hx, hxs⟩ := List.forall_mem_cons.mp hxs
    rw [List.take_succ_cons, List.foldl_cons, scanNext_eq hop c acc fl hx, scanChain_cons]
    cases n with
    | zero => exact ⟨rfl, rfl⟩
    | succ n =>
      rw [List.take_succ_cons, List.foldl_cons, scanNext_eq hop c acc fl hx]
      exact ih _ _ hxs (Nat.lt_of_succ_lt_succ hn)

/-- The total is the running result with the last value. -/
theorem foldl_scanNext_total (acc : Option Nat) (fl : Word) (xs : List Nat) (hxs : ∀ x ∈ xs, x < 2 ^ ty.width) :
    (xs.foldl (scanNext op ty c) (acc, fl)).1 = ((scanChain op ty c acc xs).1.getLast?.map Prod.snd).or acc := by
  induction xs generalizing acc fl with
  | nil => rfl
  | cons x xs ih =>
    obtain ⟨hx, hxs⟩ := List.forall_mem_cons.mp hxs
    rw [List.foldl_cons, scanNext_eq hop c acc fl hx, ih _ _ hxs, scanChain_cons, List.getLast?_cons]
    cases (scanChain op ty c (some (chainStep op ty c acc x).1) xs).1.getLast? <;> rfl

variable {xs : List Nat} (hxs : ∀ x ∈ xs, x < 2 ^ ty.width)
include hxs

theorem scanOver_flags : (scanOver op ty c xs).2 = (scanChain op ty c none xs).2 :=
  (foldl_scanNext_flags hop c none 0 xs hxs).trans BitVec.zero_or

theorem scanOver_total : (scanOver op ty c xs).1 = (scanChain op ty c none xs).1.getLast?.map Prod.snd :=
  (foldl_scanNext_total hop c none 0 xs hxs).trans Option.or_none

end

section
variable {op : Nat} {ty : Ty} (hop : ScanOp op ty)
include hop

theorem scanIdentity_eq_scanFirst : scanIdentity op ty = scanFirst op ty := by
  unfold ScanOp at hop
  unfold scanFirst
  by_cases hty : ty = .f32
  · subst hty
    rw [if_pos rfl] at hop
    rw [if_pos rfl]
    rcases hop with rfl | rfl | rfl <;> rfl
  · rw [if_neg hty] at hop
    rw [if_neg hty]
    have hpow : ((2 ^ ty.width : Nat) : Int) = 2 ^ ty.width := Int.natCast_pow 2 ty.width
    match op with
    | 0 => rfl
    | 1 => simp only [scanIdentity, if_neg hty, wrap, hpow, if_true]
    | 2 => simp [scanIdentity, if_neg hty, wrap, hpow]
    | 3 => rfl
    | 4 => rfl
    | 5 => rfl

end

/-! ### The instructions (R132, R140) -/

theorem bit_three_eq (sub : BitVec 4) : bit sub.toNat 3 = decide (sub.toNat ≥ 8) := by
  unfold bit
  rw [Bool.eq_iff_iff, beq_iff_eq, decide_eq_true_eq]
  omega

/-- The values of the active lanes fit their type. -/
theorem forall_reads_lt (s : State) (al : List Nat) (ty : Ty) (a : Opnd) (imm : Word) :
    ∀ x ∈ al.map (fun u => rd s u ty a imm), x < 2 ^ ty.width := fun _ hx => by
  obtain ⟨u, -, rfl⟩ := List.mem_map.mp hx
  exact readTy_lt ..

section
variable {h : Hdr} {ty : Ty} {mod : BitVec 3} {sub : BitVec 4} {d a : Opnd} {imm : Word}

/-- What `redux` gives each lane: the total over the active lanes, and the flags of every step. -/
def totalOf (ty : Ty) (mod : BitVec 3) (sub : BitVec 4) (a : Opnd) (imm : Word) (s : State) (al : List Nat) : Res :=
  let r := scanOver (sub.toNat % 8) ty (rc s (al.headD 0) mod) (al.map (fun u => rd s u ty a imm))
  { vals := extTy ty (r.1.getD 0), flags := r.2 }

theorem redux_eq_totalOf (hop : ScanOp (sub.toNat % 8) ty) (s : State) (al : List Nat) :
    ({ vals := extTy ty (((chainOf (cur s) al (sub.toNat % 8) ty mod a imm).1.getLast?.map Prod.snd).getD 0)
       flags := (chainOf (cur s) al (sub.toNat % 8) ty mod a imm).2 } : Res) = totalOf ty mod sub a imm s al := by
  have hreads := forall_reads_lt s al ty a imm
  rw [totalOf, scanOver_total hop _ hreads, scanOver_flags hop _ hreads]
  rfl

theorem exchanges_redux (hop : ScanOp (sub.toNat % 8) ty) (hd : isUni d = false) :
    Exchanges (.redux h ty mod sub d a imm) h d (fun s al _ => totalOf ty mod sub a imm s al) :=
  exchanges_of_vector hd (fun _ => rfl) fun s al _ _ _ => redux_eq_totalOf hop s al

theorem exchangesCanonical_redux (hop : ScanOp (sub.toNat % 8) ty) :
    ExchangesCanonical (.redux h ty mod sub d a imm) h d (fun s al _ => totalOf ty mod sub a imm s al) :=
  exchangesCanonical_of_const (fun _ => rfl) (redux_eq_totalOf hop)

theorem exchanges_scan (hop : ScanOp (sub.toNat % 8) ty) (hd : isUni d = false) :
    Exchanges (.scan h ty mod sub d a imm) h d (fun s al u =>
      let op := sub.toNat % 8
      let xs := al.map (fun u => rd s u ty a imm)
      let c := rc s (al.headD 0) mod
      let n := al.idxOf u
      let r := scanOver op ty c (xs.take (if sub.toNat ≥ 8 then n else n + 1))
      { vals := extTy ty (r.1.getD (scanFirst op ty)), flags := (scanOver op ty c xs).2 }) :=
  exchanges_of_vector hd (fun _ => rfl) fun s al _ u hu => by
    have hreads := forall_reads_lt s al ty a imm
    have hn : al.idxOf u < (al.map (fun u => rd s u ty a imm)).length := by
      rw [List.length_map]
      exact List.idxOf_lt_length_iff.mpr hu
    obtain ⟨hbefore, hwith⟩ := scanChain_getD hop (rc s (al.headD 0) mod) none 0 _ hreads hn
    simp only [scanOver_flags hop _ hreads, bit_three_eq, scanIdentity_eq_scanFirst hop, decide_eq_true_eq]
    by_cases hex : sub.toNat ≥ 8
    · simp only [if_pos hex, scanOver, hbefore]
      rfl
    · simp only [if_neg hex, scanOver, hwith]
      rfl

theorem exchanges_bxq (hd : isUni d = false) : Exchanges (.bxq h sub d a) h d (fun s al u =>
    let half := (List.range 16).map (fun j => u / 16 * 16 + j)
    let r := quantise (bxWidth sub) (half.map (fun v =>
      if v ∈ al then FV.ofBits .f32 false (rd s v .f32 a 0) else .num false 0 0))
    { vals := [BitVec.ofNat 32 (r.1 * 2 ^ 16 + r.2.1.getD (u % 16) 0)], flags := r.2.2 }) :=
  exchanges_of_vector hd (fun _ => rfl) fun s al _ u _ => by
    have hhalf : rangeFrom (u - u % 16) 16 = (List.range 16).map (fun j => u / 16 * 16 + j) := by
      have hfirst : u - u % 16 = u / 16 * 16 := by omega
      rw [hfirst, rangeFrom_eq_range', List.range'_eq_map_range]
    simp only [hhalf, List.contains_iff_mem]
    rfl

end

theorem blockQuantisation : BlockQuantisation := fun _ _ _ _ hd => exchanges_bxq hd

/-- Refutes O8: as for O7, a uniform destination of `redux` is written once for each active lane. In `listedTwice` a total of 0 takes
both entries of the register out of the map, where one write leaves the second. With the premise that the group's uniform registers are
canonical the clause of `redux` holds (`exchangesCanonical_redux`), and without it for a vector destination (`exchanges_redux`); the
other clauses hold as they stand (`exchanges_scan`, `blockQuantisation`). -/
theorem not_scanAndBlockResults : ¬ Obligations.ScanAndBlockResults := by
  rintro ⟨hscans, -⟩
  obtain ⟨hredux, -⟩ := hscans .plain .n32 0 0 (.s 0) (.imm 0) 0 (by decide)
  have hregs := congrArg uniformsAfter (hredux listedTwice 0 (by decide) oneGroup_listedTwice)
  exact absurd hregs (by decide)

end Sys2Proof.Machine
end
